-- ==== Sys2Proof/Word.lean ====
section
/-! DEFINITION. The word types of the KSL-512: registers and items are 32-bit words (R21, R74), LTIME is 64 bits (R18). -/

namespace Sys2Proof

/-- A 32-bit register word or queue item (R21, R285). -/
abbrev Word := BitVec 32

/-- A byte of memory. -/
abbrev Byte := BitVec 8

/-- LTIME: an unsigned 64-bit count of nanoseconds that wraps (R18). -/
abbrev Time := BitVec 64

/-- A word from a number, taken modulo 2^32. -/
abbrev w32 (n : Nat) : Word := BitVec.ofNat 32 n

end Sys2Proof
end

