-- ==== Sys2Proof/Machine/Types.lean ====
section
/-! DEFINITION. The operand types of the commands: paths, unit indices, and the measured data that an event brings. -/

namespace Sys2Proof

abbrev Camp := Fin 16
/-- Pitch controllers: 0 the device, 1 + c camp c (R98). -/
abbrev Ctl := Fin 17
abbrev Chan := Fin 512
abbrev FloatIx := Fin 2048
abbrev Queue := Fin 1024
abbrev TimerIx := Fin 32
abbrev OutletIx := Fin 16
abbrev Mark := Fin 256
abbrev Stream := Fin 64
abbrev Source := Fin 1024
/-- Sequencer context 10 × camp + k (R10). -/
abbrev Ctx := Fin 160

/-- The paths of R287: host port, management bus, Efyon-S and the sequencer contexts. -/
inductive Path where
  | host | mgmt | efyonS
  | ctx (i : Ctx)
  deriving DecidableEq, Repr

/-- An Efyon core: Efyon-S or one Efyon-L context. -/
inductive CoreId where
  | main
  | seq (x : Ctx)
  deriving DecidableEq, Repr

/-- The units that have a state (R10, R81), by index. -/
inductive Un where
  | device
  | camp (c : Nat)
  | chan (n : Nat)
  | float (i : Nat)
  | queue (q : Nat)
  | timer (t : Nat)
  | outlet (o : Nat)
  | ctx (x : Nat)
  deriving DecidableEq, Repr

/-- Rails outside VAON, in the order of the RAIL_LOG record (R496). -/
inductive Rail where
  | vcore | vmem | vio | vana | vpos | vneg
  deriving DecidableEq, Repr

/-- What the clock monitor of R46 lost: REFCLK, or the lock of one PLL. -/
inductive ClockCause where
  | refclk | pllSys | pllHost | pllVierma | pllMem
  deriving DecidableEq, Repr

/-- The two flaps of a channel. -/
inductive Flap where
  | force | sense
  deriving DecidableEq, Repr

/-- Sums over one half of an aperture (R141, R142): voltage words, current words and the partner's voltage words, and the
number of words. -/
structure HalfSum where
  v : Int
  i : Int
  vp : Int
  n : Nat
  /-- The force limited in this half (STATUS.COMPLY of the record). -/
  comply : Bool := false
  deriving DecidableEq, Repr

/-- What a calibration measured (R144, R145): the gain correction in ppm and the offset
correction in ppm of FS of the five ranges in the order of the CAL record, the source resistances of the three Weir
drives as RATIO words (R185, R217), the on-resistances in milliohms and the leakages in nanoamperes. -/
structure CalOutcome where
  corr : List (Int × Int)
  rs : List Word
  ronF : Nat
  ronS : Nat
  leakF : Nat
  leakS : Nat
  deriving DecidableEq, Repr

/-- Lines of an encoder input. -/
inductive EncLine where
  | lineA | lineB | lineZ
  deriving DecidableEq, Repr

/-- One participant's words of a Weir frame (R192): the mean word of each chip, the residue of each chip, and whether a
word saturated. -/
structure ChipWords where
  ch : Chan
  words : List Int
  residues : List Int
  saturated : Bool
  deriving DecidableEq, Repr

abbrev Reg := Fin 32
abbrev PReg := Fin 32
abbrev SReg := Fin 6
abbrev Ptr := Fin 8
abbrev AccIx := Fin 4
abbrev Cond := Fin 16

/-- Access sizes of a load or store (R342). -/
inductive Size where
  | byte | half | word
  deriving DecidableEq, Repr

/-- The writable bitmaps of the interrupt controller (R401). -/
inductive IcBitmap where
  | pend | enS | enH | stormed
  deriving DecidableEq, Repr

/-- The end of a descriptor fetch: buffers (address, length) in ring order, or an error (R417, R422). -/
inductive DescFetch where
  | bufs (l : List (Nat × Nat))
  | error
  deriving DecidableEq, Repr

/-- How a management transaction breaks the protocol (R435). -/
inductive MgmtErr where
  | proto | srAck | overrun
  deriving DecidableEq, Repr

/-- One transaction addressed to the device (R432): the bytes written, whether STOP or a repeated START followed, the
number of bytes then read, and an error if one ended it. -/
structure MgmtXfer where
  bytes : List Byte
  readN : Nat
  err : Option MgmtErr
  deriving DecidableEq, Repr

/-- How far an attention request has come (R438, R439): its START is on the bus, or the request has ended: served, with or
without a byte requested beyond the cause byte, or lost. -/
inductive AtnResult where
  | started
  | served (extra : Bool)
  | lost
  deriving DecidableEq, Repr

/-- What a request of a path on BAR0 brings (R410): a word for a register, or one of the host's requests that do not act: a
request of more than 16 bytes or across a 16-byte boundary (a read or a write), and a poisoned write. -/
inductive BusData where
  | word (v : Word)
  | over
  | poisoned
  deriving DecidableEq, Repr

/-- What a read of configuration space names (R408). -/
inductive ConfigItem where
  | vendorId | deviceId | revisionId | classCode | subsystemVendorId | subsystemId | interruptPin
  | maxPayload | maxReadRequest | ecrc | completionTimeout | aspmL1
  | busMaster | pmeStatus | aerStatus
  deriving DecidableEq, Repr

/-- A write to the PCI Express configuration space (R408, R410, R412, R413, R415), or a
read of it: `pmeStatusClear` and `aerStatusClear` clear status bits written with 1. -/
inductive ConfigWrite where
  | busMaster (on : Bool)
  | msixEnable (on : Bool)
  | msixFunctionMask (on : Bool)
  | msiEnable (on : Bool)
  | msiMask (on : Bool)
  | pmeEnable (on : Bool)
  | pmeStatusClear
  | aerStatusClear (v : Word)
  /-- Max_Payload_Size 128, 256 or 512 bytes; Max_Read_Request_Size 128 bytes to 4 KiB; ECRC generation and checking; ASPM L1;
  the completion timeout: its default, or one of two spans of ranges A and B (R408). -/
  | maxPayload (n : Fin 3)
  | maxReadRequest (n : Fin 6)
  | ecrc (generate check : Bool)
  | aspmL1 (on : Bool)
  | completionTimeout (n : Fin 5)
  /-- A configuration read. -/
  | read (i : ConfigItem)
  deriving DecidableEq, Repr

/-- Enumeration frames (R467): a member receives its address and hop count; the root learns of a member; the root
learns that enumeration is complete; a device beyond 63 hops, or a second root, was met on a port. -/
inductive EnumFrame where
  | assign (p : Fin 4) (a : BitVec 18) (hops : Nat)
  | downlink (p : Fin 4)
  | member (a : BitVec 18) (hops : Nat) (running : Bool) (summary : Word)
  | complete
  | tooDeep
  | otherRoot
  deriving DecidableEq, Repr

/-- A PHASE frame (R471): the root's LTIME, corrected for the path delay, and its present offset in ps; the carried
edge's LTIME, phase, and PH_SRC, PH_STATE and PH_IDX. -/
structure PhaseFrame where
  edge : Bool
  t : Time
  pos : BitVec 48
  src : Fin 16
  st : Fin 4
  idx : Bool
  offsetPs : Int
  settled : Bool
  deriving DecidableEq, Repr

/-- A field reset (R479): the command at the root, or the instant T in any member. -/
inductive FieldReset where
  | fire (p : Path) (key : BitVec 16)
  | instant
  deriving DecidableEq, Repr

/-- A DATA frame of the Weir field exchange (R210): a device's column of V values by its field position, each with the causes of
R198 (OVL, UNSETTLED, EXTSRC, NOTMEAS from bit 0), or its component reports. -/
inductive FieldData where
  | values (a : Nat) (v : List (Int × BitVec 4))
  | components (a : Nat) (c : List (Nat × Nat))
  deriving DecidableEq, Repr

/-- A tunnelled PAGE frame (R476): a request that acts here, or the completion of a read of this device. -/
inductive PageMsg where
  | request (off : Nat) (write : Option Word)
  | completion (p : Path) (v : Word)
  deriving DecidableEq, Repr

/-- A RECORD frame (R477): the root has committed the head packet of FWD(k), or the oldest Weir exception that this device sent it
(R210), or a packet arrives at the root. -/
inductive RecordMsg where
  | committed (k : Fin 8)
  | weirCommitted
  | arrived (q : Queue) (origin : BitVec 18) (items : List Word)
  deriving DecidableEq, Repr

/-- The memories that the scrubber covers (R484). -/
inductive ScrubMem where
  | basin | pool | link | lakebed | program (c : Camp) | data (c : Camp) | wref | l2 | retained
  /-- The fine or the coarse phase history, whose entries carry parity (R173): its accesses are those of stamps. -/
  | history (coarse : Bool)
  /-- An L1 cache of Efyon-S, code or data: parity alone, and the line comes from L2 again (R382, R484). -/
  | l1 (code : Bool)
  deriving DecidableEq, Repr

/-- What a scrub access found in a codeword (R483), or the end of a pass. -/
inductive ScrubResult where
  | clean | corrected | uncorrectable | passEnd
  deriving DecidableEq, Repr

end Sys2Proof
end

