-- ==== Sys2Proof/Syntax.lean ====
section
/-! DEFINITION. The commands of the KSL-512: one constructor for each row of spec/opcode_table.json, with the data that the
command or event brings. -/

namespace Sys2Proof

/-- The operations and events of the device. -/
inductive Instr where
  /-- ISLAND_POWER_ON (R51): VAON enters tolerance or falls below 2.9 V, so the whole module resets, AONCNT is cleared and the island starts in CAMPWATCH. -/
  | islandPowerOn (inTol : Bool)
  /-- VAON_LOSS (R62): VAON leaves tolerance and the device goes to OFF at once. -/
  | vaonLoss
  /-- PORESET_ASSERT (R56): A PORESET# low level that passes the 1 µs filter holds everything outside VAON in reset for at least 1 ms. -/
  | poresetAssert
  /-- PORESET_RELEASE (R56): PORESET# is released, or its 1 ms minimum ends, and a cold or warm start-up begins. -/
  | poresetRelease (mga : Fin 8) (test : Bool) (temps : List (BitVec 16))
  /-- RAIL_FAULT (R34): A rail leaves tolerance while PORESET# is high, so READY drops, flaps hard-open and the device is held in reset. -/
  | railFault (rail : Rail)
  /-- CLOCK_FAULT (R46): REFCLK stops for more than 1 µs or a PLL loses lock, so the device acts as for a rail fault. -/
  | clockFault (cause : ClockCause)
  /-- CLOCK_FAULT_RESTART (R46): REFCLK has run for 1 ms and the PLLs have locked, so the device starts again by itself. -/
  | clockFaultRestart
  /-- AON_FAIL (R47): No XIN32 edge arrives for 4 ms, so the island switches to its RC oscillator and sets AON_RC. -/
  | aonFail
  /-- AON_CRYSTAL_RETURN (R47): After 1,024 consecutive good edges the island returns to the crystal. -/
  | aonCrystalReturn
  /-- LTIME_PAIR_LATCH (R55): At every 1,024th CK_AON edge, and on entry to CAMPWATCH, the island latches LTIME together with AONCNT. -/
  | ltimePairLatch
  /-- THERMAL_TRIP (R39): A sensor reaches its trip point, so READY drops, every flap hard-opens and every camp enters FAULT. -/
  | thermalTrip
  /-- THERMAL_TRIP_CLEAR (R39): Every sensor falls 15 °C below its trip point, so the trip cause no longer persists. -/
  | thermalTripClear
  /-- ILK_LOW (R42): ILK is taken as low after 1 µs, so every flap opens, RUN channels enter HELD and FAULT.ILK is set. -/
  | ilkLow
  /-- ILK_HIGH (R42): ILK has held high for 1 µs without a break and is taken as high again. -/
  | ilkHigh
  /-- READY_RISE (R41): All READY conditions have held for 1 ms, so the READY ball rises. -/
  | readyRise
  /-- RESET_DEVICE (R54): A CLK.RESET write with the key and REACH = 1 performs a device reset. -/
  | resetDevice (p : Path)
  /-- RESET_CORE (R54): A CLK.RESET write with the key and REACH = 2 resets Efyon-S and its caches. -/
  | resetCore (p : Path)
  /-- RESET_CAMP (R54): A CLK.RESET write with the key and REACH = 3 soft-opens the flaps of the named camp before resetting it. -/
  | resetCamp (p : Path) (c : Camp)
  /-- CAMP_RESET_ACT (R51): In the cycle in which the last flap of the camp reads OPEN, the camp reset takes the camp. -/
  | campResetAct (c : Camp)
  /-- CAMP_RESET_DONE (R86): The camp reaches PARKED after its quick calibration, and FAULT.RESET_DONE is set. -/
  | campResetDone (c : Camp) (cals : List (Chan × CalOutcome))
  /-- WATCHDOG_EXPIRY (R383): The Efyon-S watchdog expires, so every camp enters HELD, every flap opens and firmware restarts. -/
  | watchdogExpiry
  /-- WDOG_KICK (R383): A write of 0x5744 by Efyon-S restarts the watchdog count with WDOG_PER. -/
  | wdogKick (p : Path) (v : Word)
  /-- PERST_ASSERT (R424): PERST# goes low and resets the host port link, the configuration space and the outlets. -/
  | perstAssert
  /-- PERST_RELEASE (R409): PERST# is released and the link trains within 20 ms. -/
  | perstRelease
  /-- LINK_UP (R409): Link training completes and configuration and BAR0 requests complete from then on. -/
  | linkUp (speed : Fin 4) (lanes : Fin 3)
  /-- TAP_RESET (R51): TRST# low, or five TCK cycles with TMS high, resets the JTAG TAP only. -/
  | tapReset
  /-- PWR_REQ_STANDBY (R62): PWR_REQ = 2 parks channels and stops the modulators, or is refused while active units run. -/
  | pwrReqStandby (p : Path)
  /-- PWR_REQ_READY (R62): PWR_REQ = 3 moves the device from STANDBY to READY within 2 ms. -/
  | pwrReqReady (p : Path)
  /-- PWR_REQ_CAMPWATCH (R64): PWR_REQ = 5 starts the entry to CAMPWATCH by parking channels and draining MUST_DELIVER queues. -/
  | pwrReqCampwatch (p : Path)
  /-- PWR_REQ_WITHDRAW (R66): PWR_REQ = 0 withdraws a kept power request. -/
  | pwrReqWithdraw (p : Path)
  /-- KEPT_REQUEST_EXECUTE (R62): A kept power request is carried out when the transition in progress completes. -/
  | keptRequestExecute
  /-- STANDBY_CLOCKS_STOPPED (R62): The modulators, filter clock and flap pump have stopped, and PWR_STATE.STATE reads STANDBY. -/
  | standbyClocksStopped
  /-- CAMPWATCH_DRAIN_DONE (R64): The host has taken every MUST_DELIVER item, so the warm record is written and the device enters SAFE_OFF. -/
  | campwatchDrainDone
  /-- DRAIN_TIMEOUT (R64): The drain has not completed within 1 s, so the entry ends and the device returns to STANDBY. -/
  | drainTimeout
  /-- SAFE_OFF_WAKE (R64): A wake event or a PWR_REQ of 2 or 3 in SAFE_OFF returns the device to the requested state within 2 ms. -/
  | safeOffWake (event : Bool)
  /-- PITCH_CHECK (R111): CMD OP = 1 starts the check of every staged field in the controller's scope. -/
  | pitchCheck (p : Path) (k : Ctl)
  /-- PITCH_ARM (R111): CMD OP = 2 checks, unless PASSED, and arms the controller for its instant. -/
  | pitchArm (p : Path) (k : Ctl)
  /-- PITCH_DISARM (R99): CMD OP = 3 cancels a checking or armed pitch with RESULT = DISARMED. -/
  | pitchDisarm (p : Path) (k : Ctl)
  /-- PITCH_DISCARD (R111): CMD OP = 4 reverts every page and slot in scope and clears their LOST bits. -/
  | pitchDiscard (p : Path) (k : Ctl)
  /-- CHECK_COMPLETE (R100): A check ends and the controller enters PASSED, FAILED or ARMED with RESULT and OFFENDER. -/
  | checkComplete (k : Ctl)
  /-- PITCH_APPLY (R105): At the pitch instant every differing staged field in scope takes effect in one CK_SYS cycle and a PITCH record is committed. -/
  | pitchApply (k : Ctl)
  /-- STAGE_REVERT (R79): A write of 1 to STAGE_STAT.REVERT copies every applied ST field of the page into its staged copy. -/
  | stageRevert (p : Path) (page : Nat)
  /-- REGISTER_WRITE (R4): A write to a register without a row of its own acts under its access code, including staged writes and fault recording. -/
  | registerWrite (p : Path) (off : Nat) (x : BusData)
  /-- READ_CLEAR (R4): A read of an RC field returns the value and clears the field in the same access. -/
  | readClear (p : Path) (off : Nat)
  /-- FAULT_ACK (R91): A W1C write to FAULT clears the bits whose causes no longer persist, and a unit whose last state-changing bit clears enters PARKED. -/
  | faultAck (p : Path) (page : Nat) (v : Word)
  /-- QUAR_WRITE (R109): A management write to QUAR sets or clears quarantine, and the unit changes state within 100 ns. -/
  | quarWrite (p : Path) (page : Nat) (v : Word)
  /-- SETTLING_END (R90): The unit's settling time has passed, so STATUS.SETTLING falls. -/
  | settlingEnd (unit : Nat)
  /-- LTIME_LO_READ (R72): A read of LTIME_LO returns LTIME[31:0] and latches LTIME[63:32] for the path. -/
  | ltimeLoRead (p : Path)
  /-- FLAP_CLOSE_SETTLED (R128): The flap contact has settled, so FLAP_STAT reads CLOSED and the force amplifier enables in CFG.MODE. -/
  | flapCloseSettled (n : Chan) (f : Flap) (iNa : Nat) (vUv : Nat)
  /-- FORCE_RAMP_DONE (R129): The force ramp ends with the amplifier in SENSE, and the flap drive is removed or the hold completes. -/
  | forceRampDone (n : Chan)
  /-- FLAP_ISOLATED (R129): The opened flap reaches full isolation and FLAP_STAT reads OPEN. -/
  | flapIsolated (n : Chan) (f : Flap) (iNa : Nat) (vUv : Nat)
  /-- OVERVOLTAGE (R135): The F or S ball reaches 13 V with a flap closed, so both flaps hard-open, FAULT.OVERVOLT is set and a PROTECT record is written. -/
  | overvoltage (n : Chan) (f : Flap) (v i : Word) (t : Time)
  /-- SENSE_LOSS (R125): |V_F − V_S| exceeds SENSE_LIM for 4 words, so the channel falls back to two-wire sensing. -/
  | senseLoss (n : Chan) (v i : Word) (t : Time)
  /-- CMP_ENTRY (R133): A word enters HIGH or LOW of a window comparator, which acts under its ACT field. -/
  | cmpEntry (n : Chan) (which : Fin 4) (word : Word) (t : Time)
  /-- COMPLY_ENTRY (R134): the force limits, so STATUS.COMPLY reads 1; where it has `held` for COMP.TIME µs, a COMPLY entry record is written and the channel may stop. -/
  | complyEntry (n : Chan) (held : Bool) (vi : Word × Word) (t : Time)
  /-- COMPLY_EXIT (R134): no limit acts, so STATUS.COMPLY reads 0; where it has been so for 10 µs (`long`) after a recorded period, a COMPLY exit record is written. -/
  | complyExit (n : Chan) (long : Bool) (vi : Word × Word) (t : Time)
  /-- APERTURE_END (R143): The last half of an aperture has summed, so the force returns and the AVG, DIR_2W, DIR_4W or DIODE record commits. -/
  | apertureEnd (n : Chan) (first : HalfSum) (more : List HalfSum) (ovl : Bool) (t : Time)
  /-- CAL_FULL (R144): CAL_CMD KIND = 1 requests a full calibration of the channel. -/
  | calFull (p : Path) (n : Chan)
  /-- CAL_QUICK (R144): CAL_CMD KIND = 2 requests a quick offset calibration. -/
  | calQuick (p : Path) (n : Chan)
  /-- CAL_FLAP_TEST (R144): CAL_CMD KIND = 3 requests a flap test. -/
  | calFlapTest (p : Path) (n : Chan)
  /-- CALIBRATION_COMPLETE (R145): A calibration ends passed, failed or aborted, and writes a CAL record. -/
  | calibrationComplete (n : Chan) (o : CalOutcome)
  /-- ENCODER_EDGE (R157): An accepted A or B edge counts ±1 and moves the turn count at the wrap. -/
  | encoderEdge (x : Fin 2) (a b z : Bool) (t : Time)
  /-- ENC_LINE_FAULT (R158): A line's differential lies within ±200 mV for 1 µs, so LINE_x and FAULT.LINE are set. -/
  | encLineFault (x : Fin 2) (l : EncLine)
  /-- ENC_LINE_RECOVER (R158): The line has held a valid differential for 1 µs, so LINE_x clears. -/
  | encLineRecover (x : Fin 2) (l : EncLine)
  /-- ENC_INDEX (R159): An accepted Z references the count or is compared, and may write an INDEX record. -/
  | encIndex (x : Fin 2) (t : Time)
  /-- Z_STUCK (R160): Z stays active for more than 4 counts, so it is isolated and Z_STUCK is set. -/
  | zStuck (x : Fin 2)
  /-- ZC_EDGE (R161): An accepted zero-cross edge ends one mains turn, with its period and blanking checks. -/
  | zcEdge (t : Time)
  /-- PLS_PULSE (R162): A counted PLS pulse advances the phase by its share of a turn. -/
  | plsPulse (t : Time)
  /-- PLS_STUCK (R162): PLS stays active for more than 1 ms, so PLS_STUCK is set. -/
  | plsStuck
  /-- STALL_ENTRY (R167): STALL_T passes without an edge, so the source stalls and a STALL record is written. -/
  | stallEntry
  /-- EXTRAP_END (R167): EXTRAP_T has passed in an extrapolating stall, so the tracked phase holds. -/
  | extrapEnd
  /-- MARK_FIRE (R169): The tracked phase crosses a mark position in an allowed direction, so the mark fires to its consumers. -/
  | markFire (m : Mark) (pos : BitVec 48) (merged : Nat) (rev : Bool)
  /-- CLEAR_ERRORS (R180): Compass CMD OP = 1 clears ENC_ERR, ZC_ERR, PLS_ERR, HIST_ERR and JUMPS. -/
  | clearErrors (p : Path)
  /-- TURNS_ZERO (R180): Compass CMD OP = 2 sets the turn count to 0 as a jump. -/
  | turnsZero (p : Path)
  /-- PH_FRAC_READ (R180): A read of PH_FRAC returns the tracked fraction and latches PH_TURN and PH_LT for the path. -/
  | phFracRead (p : Path)
  /-- WEIR_START (R188): Weir CMD OP = 1 triggers a run, which captures the configuration and the participating set. -/
  | weirStart (p : Path)
  /-- WEIR_ABORT (R191): Weir CMD OP = 2 ends the drive at the next chip boundary and writes an ABORT record. -/
  | weirAbort (p : Path)
  /-- WEIR_DRIVE_START (R188): Every participant has settled, so chip 0 starts at the next 125 ns LTIME multiple. -/
  | weirDriveStart
  /-- WEIR_FRAME_END (R192): A frame of N chips ends and its transform runs during the next frame. -/
  | weirFrameEnd (words : List ChipWords) (synced : Bool)
  /-- WEIR_DRIVE_END (R188): The last chip ends, so drives return to 0 and the FINAL stage forms estimates and classifies. -/
  | weirDriveEnd
  /-- WEIR_COMMIT (R205): Weir commits its exception records and DONE record as queue space allows, and the RESULT window switches. -/
  | weirCommit
  /-- STREAM_OUTPUT (R228): A Reedbed stream produces an output, which goes to the Floats, a stream block or the Ocpen window. -/
  | streamOutput (c : Camp) (k : Stream) (t : Time) (words : List Word)
  /-- PHASE_GRID_RELEASE (R229): The tracked phase reaches P + PH_LAG, or a late output completes, so the phase-grid output is released. -/
  | phaseGridRelease (c : Camp) (k : Stream)
  /-- COEF_COPY_DONE (R232): The copy of the coefficient image into the coefficient memory completes. -/
  | coefCopyDone (c : Camp)
  /-- CW_DATA_ACCESS (R240): A CW_DATA access reads or writes the coefficient at CW_ADDR and may advance ADDR. -/
  | cwDataAccess (p : Path) (c : Camp) (staged : Bool) (write : Option Word)
  /-- GATE_DURATION_END (R248): FL_DUR µs after the opening the gate closes in GMODE 2. -/
  | gateDurationEnd (i : FloatIx)
  /-- REARM (R243): FL_CMD OP = 1 gives the Float a fresh start and clears its latch. -/
  | rearm (p : Path) (i : FloatIx)
  /-- CLEAR_FL_COUNT (R260): FL_CMD OP = 2 clears FL_COUNT. -/
  | clearFlCount (p : Path) (i : FloatIx)
  /-- SENSOR_SAMPLE (R265): Every 100 µs Stove samples the 36 sensors and applies admission limits and holds. -/
  | sensorSample (temps : List (BitVec 16))
  /-- STOVE_POWER_MEASURE (R264): Every 10 µs Stove measures the rail draw and updates MEAS_BASE and BASE_LOW. -/
  | stovePowerMeasure (railMw forceMw : Nat)
  /-- LEASE_EXPIRY (R274): A leased channel task's lease ends, so the channel enters HELD and a MISSED record is written. -/
  | leaseExpiry (n : Chan)
  /-- DEFER_EXPIRY (R269): A channel task has waited DEFER_MAX µs, so it leaves the queue and the channel enters HELD. -/
  | deferExpiry (n : Chan)
  /-- COOLDOWN_END (R263): COOL_T has passed since the last burst, so a new burst may be admitted. -/
  | cooldownEnd
  /-- PUSH (R308): A write to PUSH appends an item to the path's packet, opening it if none is open. -/
  | push (p : Path) (q : Queue) (v : Word)
  /-- PUSH_EOP (R308): A write to PUSH_EOP appends the final item and commits the packet. -/
  | pushEop (p : Path) (q : Queue) (v : Word)
  /-- PCMD_ABORT (R288): PCMD OP = 1 aborts the path's open packet without counting a loss. -/
  | pcmdAbort (p : Path) (q : Queue)
  /-- PCMD_SET_LASTB (R308): PCMD OP = 2 sets the valid bytes of the final item of the path's packet. -/
  | pcmdSetLastb (p : Path) (q : Queue) (lastb : Fin 4)
  /-- CONSUMER_READ (R289): A read of ITEM0 takes the next word of the queue and latches items 1 and 2 and the tag. -/
  | consumerRead (p : Path) (q : Queue)
  /-- DROP (R290): CCMD OP = 1 discards the unread words of the queue's READING packet. -/
  | drop (p : Path) (q : Queue)
  /-- PENDING_PACKET_RETRY (R294): A cell frees, so a hardware producer's held MUST_DELIVER packet commits. -/
  | pendingPacketRetry (q : Queue)
  /-- SPILL_MOVE (R295): The spill engine moves committed packets from a Basin middle into Lakebed, evicting when needed. -/
  | spillMove (q : Queue)
  /-- SPILL_REFILL (R295): The spill engine refills a queue's Basin head from its oldest spilled packets. -/
  | spillRefill (q : Queue)
  /-- LINK_SWEEP_DONE (R300): The pool sweep after a broken link entry returns the lost cells. -/
  | linkSweepDone (q : Queue) (keep : Nat)
  /-- FLUSH (R310): QCMD OP = 1 discards every packet of a queue that is not in RUN. -/
  | flush (p : Path) (q : Queue)
  /-- CLEAR_QUEUE_COUNTERS (R310): QCMD OP = 2 clears Q_LOSS, Q_ECC and Q_STAT bits 19–16. -/
  | clearQueueCounters (p : Path) (q : Queue)
  /-- LOSS_RECORD_EMIT (R302): Each millisecond with gathered losses the fabric writes a LOSS or OCPEN record. -/
  | lossRecordEmit
  /-- HEAD_READ (R305): A read of OCPEN HEAD removes and returns the oldest item, or 0x8000 when empty. -/
  | headRead (p : Path)
  /-- TAIL_WRITE (R304): A write to OCPEN TAIL appends an item to the window. -/
  | tailWrite (p : Path) (v : Word)
  /-- TIMER_MATCH (R316): A step makes COUNT equal TM_MATCH. -/
  | timerMatch (t : TimerIx)
  /-- TIMER_OVERFLOW (R316): COUNT steps from TM_TOP to 0, and a one-shot timer stops. -/
  | timerOverflow (t : TimerIx)
  /-- TIMER_OUTPUT_ACT (R319): One cycle after a match or overflow the trigger, outlet kick and link act. -/
  | timerOutputAct (t : TimerIx)
  /-- TM_START (R317): TM_CMD OP = 1 sets RUNNING for a timer in RUN. -/
  | tmStart (p : Path) (t : TimerIx)
  /-- TM_STOP (R317): TM_CMD OP = 2 clears RUNNING. -/
  | tmStop (p : Path) (t : TimerIx)
  /-- TM_LOAD (R317): TM_CMD OP = 3 sets COUNT to TM_LOAD and the accumulator to 0. -/
  | tmLoad (p : Path) (t : TimerIx)
  /-- TM_CAPTURE (R321): TM_CMD OP = 4 captures COUNT with the LTIME of the write. -/
  | tmCapture (p : Path) (t : TimerIx)
  /-- TM_RELEASE (R321): TM_CMD OP = 5 releases FRONT, and BACK moves into it. -/
  | tmRelease (p : Path) (t : TimerIx)
  /-- TIN_EDGE (R322): An accepted TIN edge ticks, triggers or captures, with its over-rate check. -/
  | tinEdge (n : Fin 4) (level : Bool) (t : Time)
  /-- TIN_STUCK (R322): No edge is accepted for STUCK ms, so the stuck flag is set. -/
  | tinStuck (n : Fin 4)
  /-- COUNT_LO_READ (R320): A read of COUNT_LO returns COUNT[31:0] and latches COUNT[63:32] for the path. -/
  | countLoRead (p : Path) (t : TimerIx)
  /-- CAP_LT_HI_READ (R321): A read of CAP_LT_HI returns the FRONT LTIME high word and releases FRONT. -/
  | capLtHiRead (p : Path) (t : TimerIx)
  /-- NOP (R338): The instruction does nothing. -/
  | nop (e : CoreId)
  /-- JR (R348): The instruction jumps to ra after one delay slot, or exits a handler with an exit token. -/
  | jr (e : CoreId) (ra : Reg)
  /-- JALR (R348): The instruction writes the return address to rd and jumps to ra after a delay slot. -/
  | jalr (e : CoreId) (rd ra : Reg)
  /-- MOVX (R338): The instruction writes ra to a pointer, base, modulus or step register. -/
  | movx (e : CoreId) (x : PReg) (ra : Reg)
  /-- MOVFX (R338): The instruction reads a pointer, base, modulus or step register into rd. -/
  | movfx (e : CoreId) (rd : Reg) (x : PReg)
  /-- MOVS (R332): The instruction writes ra to a special register. -/
  | movs (e : CoreId) (x : SReg) (ra : Reg)
  /-- MOVFS (R332): The instruction reads a special register into rd, latching LTIME for LT_LO. -/
  | movfs (e : CoreId) (rd : Reg) (x : SReg)
  /-- PUSHQ (R353): The instruction appends ra as an item to a queue. -/
  | pushq (e : CoreId) (ra rb : Reg)
  /-- PUSHQE (R353): The instruction appends ra as the final item and commits. -/
  | pushqe (e : CoreId) (ra rb : Reg)
  /-- QABORT (R353): The instruction aborts the path's open packet on a queue. -/
  | qabort (e : CoreId) (rb : Reg)
  /-- QLAST (R353): The instruction declares the valid bytes of the final item. -/
  | qlast (e : CoreId) (ra rb : Reg)
  /-- QSTAT (R353): The instruction reads the queue's PSTAT into rd. -/
  | qstat (e : CoreId) (rd rb : Reg)
  /-- POPQ (R354): The instruction takes the next queue word into four registers. -/
  | popq (e : CoreId) (rd rb : Reg)
  /-- QDROP (R354): The instruction drops the queue's READING packet. -/
  | qdrop (e : CoreId) (rb : Reg)
  /-- SYNC (R338): The instruction completes when every earlier write of the context has taken effect. -/
  | sync (e : CoreId)
  /-- HALT (R338): The instruction parks an Efyon-L context, or makes Efyon-S wait for an interrupt. -/
  | halt (e : CoreId)
  /-- TRAP (R338): The instruction raises software exception n on Efyon-S, or stops an Efyon-L context with a trap fault. -/
  | trap (e : CoreId) (n : Fin 32)
  /-- SKIP (R347): The instruction skips the next instruction when its condition holds. -/
  | skip (e : CoreId) (cc : Cond)
  /-- ADD (R339): rd ← ra + rb with flags. -/
  | add (e : CoreId) (rd ra rb : Reg)
  /-- ADDC (R339): rd ← ra + rb + C with flags. -/
  | addc (e : CoreId) (rd ra rb : Reg)
  /-- SUB (R339): rd ← ra − rb with flags. -/
  | sub (e : CoreId) (rd ra rb : Reg)
  /-- SUBC (R339): rd ← ra − rb − (1 − C) with flags. -/
  | subc (e : CoreId) (rd ra rb : Reg)
  /-- ADDS (R339): Signed saturating addition. -/
  | adds (e : CoreId) (rd ra rb : Reg)
  /-- SUBS (R339): Signed saturating subtraction. -/
  | subs (e : CoreId) (rd ra rb : Reg)
  /-- NEG (R339): rd ← 0 − ra. -/
  | neg (e : CoreId) (rd ra : Reg)
  /-- NEGS (R339): Saturating negation. -/
  | negs (e : CoreId) (rd ra : Reg)
  /-- ABS (R339): rd ← |ra|. -/
  | abs (e : CoreId) (rd ra : Reg)
  /-- ABSS (R339): Saturating absolute value. -/
  | abss (e : CoreId) (rd ra : Reg)
  /-- CMP (R339): Subtraction that sets flags only. -/
  | cmp (e : CoreId) (ra rb : Reg)
  /-- MIN (R339): Signed minimum. -/
  | min (e : CoreId) (rd ra rb : Reg)
  /-- MAX (R339): Signed maximum. -/
  | max (e : CoreId) (rd ra rb : Reg)
  /-- MINU (R339): Unsigned minimum. -/
  | minu (e : CoreId) (rd ra rb : Reg)
  /-- MAXU (R339): Unsigned maximum. -/
  | maxu (e : CoreId) (rd ra rb : Reg)
  /-- AND (R339): Bitwise AND. -/
  | and (e : CoreId) (rd ra rb : Reg)
  /-- OR (R339): Bitwise OR. -/
  | or (e : CoreId) (rd ra rb : Reg)
  /-- XOR (R339): Bitwise exclusive OR. -/
  | xor (e : CoreId) (rd ra rb : Reg)
  /-- ANDN (R339): rd ← ra AND NOT rb. -/
  | andn (e : CoreId) (rd ra rb : Reg)
  /-- TST (R339): AND that sets flags only. -/
  | tst (e : CoreId) (ra rb : Reg)
  /-- SHL (R358): Shift left by rb[7:0]. -/
  | shl (e : CoreId) (rd ra rb : Reg)
  /-- SHR (R358): Logical shift right by rb[7:0]. -/
  | shr (e : CoreId) (rd ra rb : Reg)
  /-- SAR (R358): Arithmetic shift right by rb[7:0]. -/
  | sar (e : CoreId) (rd ra rb : Reg)
  /-- ROR (R339): Rotate right by rb mod 32. -/
  | ror (e : CoreId) (rd ra rb : Reg)
  /-- ROL (R339): Rotate left by rb mod 32. -/
  | rol (e : CoreId) (rd ra rb : Reg)
  /-- CLZ (R339): Count leading zeros. -/
  | clz (e : CoreId) (rd ra : Reg)
  /-- POPC (R339): Count set bits. -/
  | popc (e : CoreId) (rd ra : Reg)
  /-- BREV (R339): Reverse the 32 bits of ra. -/
  | brev (e : CoreId) (rd ra : Reg)
  /-- SEXTB (R339): Sign-extend ra[7:0]. -/
  | sextb (e : CoreId) (rd ra : Reg)
  /-- SEXTH (R339): Sign-extend ra[15:0]. -/
  | sexth (e : CoreId) (rd ra : Reg)
  /-- ZEXTB (R339): Zero-extend ra[7:0]. -/
  | zextb (e : CoreId) (rd ra : Reg)
  /-- ZEXTH (R339): Zero-extend ra[15:0]. -/
  | zexth (e : CoreId) (rd ra : Reg)
  /-- MUL (R340): Low 32 bits of the product. -/
  | mul (e : CoreId) (rd ra rb : Reg)
  /-- MULH (R340): High 32 bits of the signed product. -/
  | mulh (e : CoreId) (rd ra rb : Reg)
  /-- MULHU (R340): High 32 bits of the unsigned product. -/
  | mulhu (e : CoreId) (rd ra rb : Reg)
  /-- MULQ (R340): Saturating Q31 product. -/
  | mulq (e : CoreId) (rd ra rb : Reg)
  /-- MAC (R340): Accumulator plus signed product. -/
  | mac (e : CoreId) (acc : AccIx) (ra rb : Reg)
  /-- MSU (R340): Accumulator minus signed product. -/
  | msu (e : CoreId) (acc : AccIx) (ra rb : Reg)
  /-- MACU (R340): Accumulator plus unsigned product. -/
  | macu (e : CoreId) (acc : AccIx) (ra rb : Reg)
  /-- CLRA (R340): Clear an accumulator. -/
  | clra (e : CoreId) (acc : AccIx)
  /-- MTA (R340): Move rb:ra into an accumulator. -/
  | mta (e : CoreId) (acc : AccIx) (ra rb : Reg)
  /-- MOVA (R340): Extract 32 bits of an accumulator at offset k. -/
  | mova (e : CoreId) (rd : Reg) (acc : AccIx) (k : Fin 32)
  /-- MOVAS (R340): Round, shift and saturate an accumulator into rd. -/
  | movas (e : CoreId) (rd : Reg) (acc : AccIx) (k : Fin 32)
  /-- DIV (R340): Signed division rounded toward 0. -/
  | div (e : CoreId) (rd ra rb : Reg)
  /-- DIVU (R340): Unsigned division. -/
  | divu (e : CoreId) (rd ra rb : Reg)
  /-- REM (R340): Signed remainder. -/
  | rem (e : CoreId) (rd ra rb : Reg)
  /-- REMU (R340): Unsigned remainder. -/
  | remu (e : CoreId) (rd ra rb : Reg)
  /-- DIVS (R340): Saturating signed division. -/
  | divs (e : CoreId) (rd ra rb : Reg)
  /-- ADDI (R341): Add an immediate. -/
  | addi (e : CoreId) (rd ra : Reg) (imm : BitVec 16)
  /-- ADDSI (R341): Saturating add of an immediate. -/
  | addsi (e : CoreId) (rd ra : Reg) (imm : BitVec 16)
  /-- ANDI (R341): AND with an immediate. -/
  | andi (e : CoreId) (rd ra : Reg) (imm : BitVec 16)
  /-- ORI (R341): OR with an immediate. -/
  | ori (e : CoreId) (rd ra : Reg) (imm : BitVec 16)
  /-- XORI (R341): XOR with an immediate. -/
  | xori (e : CoreId) (rd ra : Reg) (imm : BitVec 16)
  /-- CMPI (R341): Compare with an immediate. -/
  | cmpi (e : CoreId) (ra : Reg) (imm : BitVec 16)
  /-- MOVI (R341): Load an immediate. -/
  | movi (e : CoreId) (rd : Reg) (imm : BitVec 16)
  /-- SHLI (R341): Shift left by an immediate. -/
  | shli (e : CoreId) (rd ra : Reg) (amt : BitVec 8)
  /-- SHRI (R341): Logical shift right by an immediate. -/
  | shri (e : CoreId) (rd ra : Reg) (amt : BitVec 8)
  /-- SARI (R341): Arithmetic shift right by an immediate. -/
  | sari (e : CoreId) (rd ra : Reg) (amt : BitVec 8)
  /-- RORI (R341): Rotate right by an immediate. -/
  | rori (e : CoreId) (rd ra : Reg) (amt : BitVec 8)
  /-- WAITPH (R355): The context suspends until phase mark m fires after the arm cycle. -/
  | waitph (e : CoreId) (m : Mark)
  /-- PUSHQI (R341): Push to a queue named by an immediate. -/
  | pushqi (e : CoreId) (ra : Reg) (q : Queue) (eop : Bool)
  /-- POPQI (R341): Pop from a queue named by an immediate. -/
  | popqi (e : CoreId) (rd : Reg) (q : Queue)
  /-- LD (R342): Sign-extending load with addressing mode. -/
  | ld (e : CoreId) (rd : Reg) (p : Ptr) (am : Fin 4) (sz : Size) (simm : BitVec 12)
  /-- LDU (R342): Zero-extending load with addressing mode. -/
  | ldu (e : CoreId) (rd : Reg) (p : Ptr) (am : Fin 4) (sz : Size) (simm : BitVec 12)
  /-- ST (R342): Store with addressing mode. -/
  | st (e : CoreId) (rd : Reg) (p : Ptr) (am : Fin 4) (sz : Size) (simm : BitVec 12)
  /-- LDX (R342): Load a word into a pointer register. -/
  | ldx (e : CoreId) (x : PReg) (p : Ptr) (am : Fin 4) (simm : BitVec 12)
  /-- STX (R342): Store a pointer register. -/
  | stx (e : CoreId) (x : PReg) (p : Ptr) (am : Fin 4) (simm : BitVec 12)
  /-- MAC2 (R342): Accumulate the product of two memory operands with two pointer updates. -/
  | mac2 (e : CoreId) (acc : AccIx) (p q : Ptr) (amp amq : Fin 3) (word : Bool)
  /-- BR (R348): Relative jump with a delay slot. -/
  | br (e : CoreId) (disp : BitVec 26)
  /-- CALL (R348): Relative jump that writes the return address to d31. -/
  | call (e : CoreId) (disp : BitVec 26)
  /-- REP_N (R350): Repeat the next instruction n times. -/
  | repN (e : CoreId) (n : Fin 256)
  /-- REP_LC (R350): Repeat the next instruction lc times. -/
  | repLc (e : CoreId)
  /-- IMX (R335): Extend the next immediate instruction to 32 bits. -/
  | imx (e : CoreId) (v : BitVec 16)
  /-- FAST_INTERRUPT_ENTRY (R378): A claimable fast source swaps in its bank and enters its handler. -/
  | fastInterruptEntry (i : Fin 16)
  /-- NORMAL_INTERRUPT_ENTRY (R377): A normal request outside any handler pushes a frame and enters vector 32. -/
  | normalInterruptEntry
  /-- CTX_RELEASE (R388): CTX_CMD OP = 1 releases a context waiting in WAITPH. -/
  | ctxRelease (p : Path) (x : Ctx)
  /-- CTX_STEP (R388): CTX_CMD OP = 2 executes one instruction of a parked context. -/
  | ctxStep (p : Path) (x : Ctx)
  /-- DOORBELL (R391): A write of a source number sends that source a message. -/
  | doorbell (p : Path) (v : Word)
  /-- CLR_PEND (R406): SRC_CMD OP = 1 clears PEND of one source. -/
  | clrPend (p : Path) (i : Source)
  /-- SET_EN_S (R406): SRC_CMD OP = 2 enables a source for Efyon-S. -/
  | setEnS (p : Path) (i : Source)
  /-- CLR_EN_S (R406): SRC_CMD OP = 3 disables a source for Efyon-S. -/
  | clrEnS (p : Path) (i : Source)
  /-- SET_EN_H (R406): SRC_CMD OP = 4 enables a source for the host. -/
  | setEnH (p : Path) (i : Source)
  /-- CLR_EN_H (R406): SRC_CMD OP = 5 disables a source for the host. -/
  | clrEnH (p : Path) (i : Source)
  /-- CLR_STORMED (R400): SRC_CMD OP = 6 clears STORMED, restarts the count and samples a level input. -/
  | clrStormed (p : Path) (i : Source)
  /-- CLAIM_S (R394): A read by Efyon-S claims the lowest claimable normal source. -/
  | claimS (p : Path)
  /-- CLAIM_H (R394): A host port read claims the lowest source claimable for the host. -/
  | claimH (p : Path)
  /-- COMPLETE_S (R395): A write completes a source active for Efyon-S, or records a completion error. -/
  | completeS (p : Path) (v : Word)
  /-- COMPLETE_H (R395): A write completes a source active for the host, or records a completion error. -/
  | completeH (p : Path) (v : Word)
  /-- IC_BITMAP_WRITE (R401): A write to PEND, EN_S, EN_H or STORMED sets the whole word and wins over hardware in that cycle. -/
  | icBitmapWrite (p : Path) (b : IcBitmap) (w : Fin 32) (v : Word)
  /-- STORM_WINDOW_END (R400): A storm window ends at an LTIME multiple and message counts restart. -/
  | stormWindowEnd
  /-- MODERATION_END (R398): The moderation interval ends, and an owed message is sent or a wake begins. -/
  | moderationEnd
  /-- BAR2_REQUEST (R411): A BAR2 request reads or writes Lakebed, with protected regions discarding writes. -/
  | bar2Request (addr : Nat) (write : Option (List Byte)) (len : Nat)
  /-- L1_ENTRY (R415): No TLP or DLLP is pending for L1_IDLE µs, so the device requests L1. -/
  | l1Entry
  /-- D3HOT_ENTRY (R415): The function enters D3hot, BAR accesses fail and the outlets stop. -/
  | d3hotEntry
  /-- D0_ENTRY (R415): The function returns to D0 with its configuration kept, and stopped outlets resume. -/
  | d0Entry
  /-- FLR (R424): A Function Level Reset acts as PERST# with the link kept up. -/
  | flr
  /-- HOT_RESET (R424): A hot reset or DL_Down acts as PERST# and the link retrains. -/
  | hotReset
  /-- LINK_DOWN (R424): The link goes down otherwise, so LINK_DOWN is set and the outlets stop. -/
  | linkDown
  /-- OUTLET_TAIL_WRITE (R417): A write to TAIL makes descriptors available and may record DESC_ERR. -/
  | outletTailWrite (p : Path) (o : OutletIx) (v : Word)
  /-- DESC_FETCH_DONE (R422): A descriptor fetch completes, or fails with HOST_ERR. -/
  | descFetchDone (o : OutletIx) (r : DescFetch)
  /-- CLOSE (R418): OL_CMD OP = 1 closes the outlet's open buffer. -/
  | close (p : Path) (o : OutletIx)
  /-- OUTLET_FLUSH_TIMEOUT (R418): FLUSH_T µs after a buffer opened, the buffer closes. -/
  | outletFlushTimeout (o : OutletIx)
  /-- PACKET_ACKED (R420): The data link layer acknowledges every TLP of a packet, so the packet leaves its queue. -/
  | packetAcked (o : OutletIx)
  /-- MGMT_TRANSACTION (R432): A transaction addressed to the device sets the pointer, reads or writes bytes, and ends with STOP. -/
  | mgmtTransaction (x : MgmtXfer)
  /-- STRETCH_TIMEOUT (R436): A fetch has not completed 1.9 ms into the stretch, so the device sends 0xFF and sets STRETCH. -/
  | stretchTimeout
  /-- BUS_STUCK_TIMEOUT (R437): SCL or SDA has been low for more than 35 ms, so the device releases the lines and goes idle. -/
  | busStuckTimeout
  /-- ATTENTION_REQUEST (R438): With an enabled cause pending and the bus free, the device starts a transaction to send its cause byte. -/
  | attentionRequest (r : AtnResult)
  /-- ATN_ABANDON (R438): No controller pulls SCL within 100 µs, so the request is abandoned and backoff follows. -/
  | atnAbandon
  /-- BACKOFF_END (R439): The backoff after a lost or abandoned request ends. -/
  | backoffEnd
  /-- ATN_RAISE (R443): A write of 1 to ATN_RAISE.REQ by the host port or Efyon-S sets cause 5. -/
  | atnRaise (p : Path)
  /-- CW_WRITE_APPLY (R446): A write to a Campwatch register takes effect at the second CK_AON edge. -/
  | cwWriteApply
  /-- SENSE_CHANGE (R447): DEB samples agree on a new SNS level, so the change is stamped and may batch or wake. -/
  | senseChange (n : Fin 8) (level : Bool) (a : BitVec 48)
  /-- SENSE_STUCK (R448): An accepted level stays active for STUCK seconds, so the stuck flag is set. -/
  | senseStuck (n : Fin 8)
  /-- POLL_DUE (R451): A poll entry falls due after PERIOD and is queued, or skipped once. -/
  | pollDue (e : Fin 256)
  /-- POLL_TRANSFER_DONE (R452): An SPI transfer completes, and its value is tested for threshold and change events. -/
  | pollTransferDone (bytes : List Byte)
  /-- DRAIN_RECORD (R456): The drain engine turns the oldest batch entry into a record once the queue has credit. -/
  | drainRecord
  /-- RELEASE_WAKE (R463): CW_CMD OP = 1 releases WAKE#. -/
  | releaseWake (p : Path)
  /-- EMPTY_BATCH (R463): CW_CMD OP = 2 empties the batch and counts its entries in BATCH_LOST. -/
  | emptyBatch (p : Path)
  /-- WAKE_HOLD_EXPIRY (R458): WAKE_HOLD seconds pass, so the island releases WAKE#. -/
  | wakeHoldExpiry
  /-- TBL_DATA_ACCESS (R450): A TBL_DATA access reads or writes a poll table word and may advance TBL_ADDR. -/
  | tblDataAccess (p : Path) (write : Option Word)
  /-- POWER_DOWN (R64): The station removes the rails other than VAON while PORESET# is low, and the device passes from SAFE_OFF or reset into CAMPWATCH. -/
  | powerDown
  /-- START_UP_COMPLETE (R57): A cold, warm or restart start-up reaches its end stage, so DEV.STATE leaves OFF, the device enters STANDBY or READY, and the watchdog starts. -/
  | startUpComplete (ms : Nat) (cals : List (Chan × CalOutcome))
  /-- CONFIGURATION_REQUEST (R412): A PCIe configuration write changes Bus Master Enable, MSI-X or MSI enable and masks, or PME_En. -/
  | configurationRequest (x : ConfigWrite)
  /-- L1_EXIT (R398): The link completes its exit from L1 to L0, and an owed host message is sent. -/
  | l1Exit
  /-- AON_LO_READ (R463): A read of CW AON_LO returns AONCNT low bits and latches AON_HI for the path. -/
  | aonLoRead (p : Path)
  /-- ILLEGAL_ENCODING (R336): An instruction word that no mnemonic assigns is executed as NOP with ILL on Efyon-L, or raises vector 1 on Efyon-S. -/
  | illegalEncoding (e : CoreId) (w : Word)
  /-- VIERMA_LINK_TRAINED (R464): A Vierma port finishes training and comes up. -/
  | viermaLinkTrained (p : Fin 4)
  /-- LOSS_OF_SIGNAL (R464): A port loses signal or sees too many CRC errors and goes down. -/
  | lossOfSignal (p : Fin 4) (lost : Bool) (crcErrors : Nat)
  /-- ENUM (R467): An ENUM frame assigns addresses depth first and sets uplinks. -/
  | enum (f : EnumFrame)
  /-- DELAY (R469): Every 1 ms a port measures its round trip and updates PORT_DLY. -/
  | delay (p : Fin 4) (roundTripPs : Nat)
  /-- PHASE (R471): A PHASE frame carries root LTIME and phase to steer the member and feed its history. -/
  | phase (f : PhaseFrame)
  /-- FIELD_JOIN (R470): A device joins the field, steps its LTIME once and may cancel LTIME-armed pitches. -/
  | fieldJoin (t : Time)
  /-- FIRE (R472): FD_CMD OP = 1 triggers a field event at the root. -/
  | fire (p : Path) (n : Fin 256)
  /-- FIELD_RESET (R479): FD_CMD OP = 2 with the key fires a device reset in every member at T. -/
  | fieldReset (k : FieldReset)
  /-- QUERY (R473): A QUERY reaches a device and it votes OK, REFUSE or NONE. -/
  | query (n : Fin 256)
  /-- VOTE (R473): A VOTE frame reaches the root, which records the member's OK or REFUSE for the field event. -/
  | vote (n : Fin 256) (a : BitVec 18) (ok : Bool)
  /-- FIELD_EVENT_DECIDE (R473): At its decision time the root sends GO or REFUSE from the votes. -/
  | fieldEventDecide (n : Fin 256)
  /-- GO (R473): A GO frame confirms the instant T, or cancels with FEVT_LATE if it arrives after T. -/
  | go (n : Fin 256) (t : Time)
  /-- REFUSE (R473): A REFUSE frame cancels every controller armed on the event with FIELD_REFUSED. -/
  | refuse (n : Fin 256)
  /-- FIELD_EVENT_INSTANT (R473): LTIME equals T, so armed controllers pitch and Weir runs trigger. -/
  | fieldEventInstant (n : Fin 256)
  /-- WREADY (R474): A WREADY reaches the root, and when all are held it sends FSTART or aborts on a mismatch. -/
  | wready (a : BitVec 18) (cfg amp avg : Word) (wpos : Fin 8)
  /-- FSTART (R474): FSTART names S at which chip 0 starts in every device. -/
  | fstart (t : Option Time)
  /-- DATA (R210): A DATA frame of the Weir field exchange arrives with V_k^k values or component reports. -/
  | data (d : FieldData)
  /-- PAGE (R476): A tunnelled PAGE request acts as a host port access at the remote device, and its completion returns. -/
  | page (m : PageMsg)
  /-- PROXY_TIMEOUT (R476): A proxy read has no answer within 500 µs, so it returns 0xFFFF_FFFF and sets PROXY_TO. -/
  | proxyTimeout (p : Path)
  /-- RECORD (R477): A forwarded packet commits at the root queue, and only then leaves the local queue. -/
  | record (m : RecordMsg)
  /-- UPLINK_LOSS (R478): The uplink is lost, so the device switches to the standby or leaves the field. -/
  | uplinkLoss
  /-- DOWNLINK_LOSS (R478): A downlink is lost, so its subtree leaves the field and MEMBER_LOST is set at the root. -/
  | downlinkLoss (p : Fin 4) (lost : List (BitVec 18))
  /-- SCRUB_ACCESS (R484): The scrubber reads a codeword, corrects a single error or reports an uncorrectable one. -/
  | scrubAccess (m : ScrubMem) (a : Nat) (r : ScrubResult)
  /-- WEAR_SNAPSHOT (R487): Every WEAR_SAVE minutes the flap wear counts are saved to flash. -/
  | wearSnapshot (ok : Bool)
  /-- EOL_PREDICTION (R488): Once per 24 h firmware predicts flap end of life and writes FLAP_EOL records. -/
  | eolPrediction
  /-- IDLE_SLOT_CALIBRATION (R489): Firmware starts a calibration of the oldest channel in an idle slot. -/
  | idleSlotCalibration
  /-- REFERENCE_CHECK (R490): ST_CMD OP = 1, or the daily schedule, compares each camp's reference and writes a SELFTEST record. -/
  | referenceCheck (p : Option Path)
  /-- REFERENCE_CHECK_DONE (R490): The reference comparison of all camps ends, REF_STAT and REF_DRIFT are set and a SELFTEST record is written. -/
  | referenceCheckDone (ppm : List Int)
  /-- PROGRAM (R491): FW_CMD OP = 1 writes an image from Lakebed into a flash slot. -/
  | program (p : Path) (headerCrcOk : Bool)
  /-- FW_PROGRAM_DONE (R491): Erasing and programming end, and the slot is marked NEW with its SEQ. -/
  | fwProgramDone (ok : Bool)
  /-- LOAD (R492): FW_CMD OP = 2 copies a slot into the standby half of the firmware region and checks it. -/
  | load (p : Path)
  /-- FW_LOAD_DONE (R492): The copy of a slot into the standby half of the firmware region completes its CRC check, and STANDBY_OK sets or the load fails. -/
  | fwLoadDone (crcOk : Bool)
  /-- SWITCH (R492): FW_CMD OP = 3 stops Efyon-S, swaps the firmware halves and starts the new image within 50 µs. -/
  | switch (p : Path) (ns : Nat)
  /-- MON_BREAK (R503): MRX is low for 100 ms, so the monitor drops the line, returns to level 0 at 115,200 baud and sets BREAK. -/
  | monBreak
  /-- MON_ID (R504): The ID command returns PAGE_ID, CLK.BOOT and the level. -/
  | monId
  /-- MON_UNLOCK (R506): The UNLOCK command returns a challenge for level 1 or 2. -/
  | monUnlock (l : Fin 3) (c : Word)
  /-- MON_KEY (R506): The KEY command answers the challenge and raises the level, or counts a failure. -/
  | monKey (r : Word)
  /-- MON_LOCK (R504): The LOCK command returns the monitor to level 0. -/
  | monLock
  /-- MON_BAUD (R505): The BAUD command switches the rate 2 ms after its answer. -/
  | monBaud (n : Nat)
  /-- BAUD_REVERT (R505): No valid line arrives within 5 s at the new rate, so the monitor returns to 115,200 baud. -/
  | baudRevert
  /-- LOCKOUT_END (R506): The 60 s lockout after three wrong keys ends. -/
  | lockoutEnd
  /-- MON_PEEK (R507): The PEEK command reads words without side effects. -/
  | monPeek (a n : Nat)
  /-- MON_RD (R504): The RD command reads words with their side effects as host port reads. -/
  | monRd (a n : Nat)
  /-- MON_WR (R504): The WR command writes a word as a host port write. -/
  | monWr (a : Nat) (v : Word)
  /-- MON_POP (R504): The POP command reads a queue's consumer port. -/
  | monPop (q : Queue)
  /-- MON_QDROP (R504): The QDROP command writes DROP to a queue's consumer port. -/
  | monQdrop (q : Queue)
  /-- MON_PUSH (R504): The PUSH command writes an item to PUSH or PUSH_EOP. -/
  | monPush (q : Queue) (v : Word) (eop : Bool)
  /-- MON_CTX (R504): The CTX command returns a context's CTX page registers. -/
  | monCtx (c : Camp) (k : Fin 10)
  /-- MON_CTX_STEP (R504): The CTX STEP command writes CTX_CMD STEP. -/
  | monCtxStep (c : Camp) (k : Fin 10)
  /-- MON_CTX_RELEASE (R504): The CTX RELEASE command writes CTX_CMD RELEASE. -/
  | monCtxRelease (c : Camp) (k : Fin 10)
  /-- MON_HALT (R508): The HALT command stops Efyon-S at the next boundary and pauses the watchdog. -/
  | monHalt
  /-- MON_GO (R508): The GO command resumes Efyon-S. -/
  | monGo
  /-- MON_SSTEP (R508): The SSTEP command executes one Efyon-S instruction. -/
  | monSstep
  /-- HALT_TIMEOUT (R508): A halt lasts HALT_MAX ms, so it ends as GO and HALT_TO is set. -/
  | haltTimeout
  /-- MON_SREG (R504): The SREG command reads an Efyon-S register while the core is stopped. -/
  | monSreg (r : Reg)
  /-- MON_FLAP (R504): The FLAP command returns a channel's flap status, wear and on-resistance. -/
  | monFlap (n : Chan)
  /-- MON_FLAP_OPEN (R509): The FLAP OPEN command soft-opens both flaps of a channel and puts it into HELD. -/
  | monFlapOpen (n : Chan)
  /-- EXTEST (R512): EXTEST in the IR hard-opens every flap, holds RUN units and drives READY low when JTAG_DBG = 2. -/
  | extest
  /-- HIGHZ (R512): HIGHZ in the IR acts as EXTEST does on flaps and READY when JTAG_DBG = 2. -/
  | highz
  /-- IDCODE (R511): IDCODE selects the 32-bit identification register. -/
  | idcode
  /-- SAMPLE_PRELOAD (R511): SAMPLE/PRELOAD selects the boundary register. -/
  | samplePreload
  /-- BYPASS (R511): BYPASS, or any other code, selects the 1-bit register. -/
  | bypass
  /-- DEBUG (R513): Update-DR of the DEBUG register starts a read, write or peek of a BAR0 offset. -/
  | debug (op : Fin 4) (v : Word) (off : Nat)
  deriving DecidableEq, Repr

end Sys2Proof
end

