-- ==== Sys2Proof/Config.lean ====
section
/-! DEFINITION. What an implementation fixes or the spec leaves open: constants without a value, so that no proof can
lean on one. Each is named in the assumption log. -/

namespace Sys2Proof.Config

/-- Fuses (R89): the serial number and the module and die revisions. -/
opaque serial : BitVec 64
opaque hwRev : BitVec 16

/-- Item 7 of a DEFER or MISSED-related record for a reason to which R276 gives no shortfall in mW (4, 5 and 10): the
reason, the declared mW and the LTIME. -/
opaque shortfall : Nat → Nat → Nat → Word

/-- CAUSE of the MISSED record of a channel task that back-pressure stops while it waits (R12, R276: the table names none), by
channel and LTIME. -/
opaque heldCause : Nat → Nat → BitVec 4

/-- Coefficients of the factory image (R234) other than FIR sets 1 to 3, by image address: the spec gives typical
characteristics and no values. -/
opaque factoryCoef : Nat → BitVec 20

/-- Whether Reedbed rounds an output up, whose exact value in units of 2⁻⁸ input word is the first argument over the second and
lies between two words (R221 states no rounding). -/
opaque filterUp : Int → Nat → Bool

/-- CRC-32 of a coefficient image, from the coefficients that differ from the factory image (R240: the spec gives neither
the polynomial's bit order nor the factory values). -/
opaque imageCrc : List (Nat × BitVec 20) → Word

/-- Item 5 bits [7:1] of a PATTERN record for a match, by its turn (R253 states only bit 0). -/
opaque patternMatch : Nat → BitVec 7

/-- Whether an inexact binary32 result is the neighbour above in magnitude (R204 states no rounding), by the exact value,
squared where a square root is rounded. -/
opaque roundUp : Rat → Bool

/-- A Weir estimate whose denominator is 0 and whose numerator does not exceed its noise (R194 states none), by pins. -/
opaque weirZero : Nat → Nat → Rat

/-- Cell index in the pool of an ECC record (R302): the spec gives cells no addresses. -/
opaque linkCell : Nat → BitVec 32

/-- Entry and stack addresses of a slot's header (R384), from the slot's bytes: the spec gives the header no layout. -/
opaque slotEntry : List (Nat × BitVec 8) → BitVec 32
opaque slotStack : List (Nat × BitVec 8) → BitVec 32

/-- Whether firmware judges itself sound at a kick of its watchdog (R59), by LTIME. -/
opaque fwSound : Nat → Bool

/-- Duration in ns of a restart of Efyon-S, item 7 of an FW_SWITCH record whose cause is a watchdog fall-back or a core
reset (R493, R496: the spec bounds it and gives no value), by the LTIME of the restart. -/
opaque restartNs : Nat → BitVec 32

/-- Whether the external clocks SCL and TCK run (R44), by their bit in CLK_STAT and LTIME. -/
opaque extClock : Nat → Nat → Bool

/-- CRC-32 of a slot header that FW_CMD meets (R491), by FW_IMG and LTIME, for a command given by a plain register write. -/
opaque headerOk : Nat → Nat → Bool

/-- Whether a copy of a data area of the flash has a CRC-32 that checks at a start-up (R486), by area (0 wear log, 1 calibration
coefficients, 2 health log) and the LTIME of the start-up: what flash loses comes from outside the rules. -/
opaque flashOk : Nat → Nat → Bool

/-- Bytes of Lakebed that BAR2 reads in the pool and the Ocpen region (R411): the spec gives cells and items no addresses; by
byte address and LTIME. -/
opaque cellByte : Nat → Nat → BitVec 8

/-- The rate of CK_AON in Hz on the internal RC oscillator, by LTIME: the spec bounds it by ±5 % (R47). -/
opaque rcHz : Nat → Nat

/-- Whether an edge of CK_AON reaches CK_SYS 3 cycles after it, and not 2, by the edge's LTIME (R49 gives both). -/
opaque aonLate : Nat → Bool

/-- What another device of the field answers to a MAC2 operand read through the proxy window (R476), by offset and LTIME: the
model holds no other device. -/
opaque proxyWord : Nat → Nat → BitVec 32

/-- CK_SEQ cycles for which a context waits for a load from the register window, or until QSTAT or POPQ can give its result, by
LTIME: the spec bounds the first by 40 and the second not (R362, R364). -/
opaque seqCycles : Nat → Nat

end Sys2Proof.Config
end

