-- ==== Sys2Proof/Machine/Bits.lean ====
section
/-! DEFINITION. Bit fields, sign extension, saturation and byte helpers that the meanings share. -/

namespace Sys2Proof.Machine

/-- Bits hi:lo of a word, as a number. -/
def fld (w : Word) (hi lo : Nat) : Nat := (w.toNat >>> lo) % 2 ^ (hi + 1 - lo)

/-- One bit of a word. -/
def bit (w : Word) (i : Nat) : Bool := w.getLsbD i

/-- A word with bits hi:lo replaced. -/
def setFld (w : Word) (hi lo v : Nat) : Word :=
  let m := 2 ^ (hi + 1 - lo)
  let n := w.toNat
  w32 (n - ((n >>> lo) % m) * 2 ^ lo + (v % m) * 2 ^ lo)

/-- A word with one bit set or cleared. -/
def setBit (w : Word) (i : Nat) (b : Bool) : Word := setFld w i i b.toNat

/-- The mask of bits hi:lo. -/
def maskOf (hi lo : Nat) : Nat := (2 ^ (hi + 1 - lo) - 1) * 2 ^ lo

/-- Low and high halves of a 64-bit time. -/
def lo32 (t : Time) : Word := t.truncate 32
def hi32 (t : Time) : Word := (t >>> 32).truncate 32

/-- A 64-bit value from two words. -/
def join64 (hi lo : Word) : Time := BitVec.ofNat 64 (hi.toNat * 2 ^ 32 + lo.toNat)

/-- The word of a signed number, wrapping. -/
def wInt (i : Int) : Word := BitVec.ofInt 32 i

/-- A signed number limited to n bits, two's complement. -/
def satS (n : Nat) (i : Int) : Int :=
  let top : Int := 2 ^ (n - 1)
  if i ≥ top then top - 1 else if i < -top then -top else i

/-- A count limited to n bits (saturating counters). -/
def satU (n : Nat) (v : Nat) : Nat := if v ≥ 2 ^ n then 2 ^ n - 1 else v

/-- The signed value of the low n bits of a number. -/
def sext (n : Nat) (v : Nat) : Int :=
  let m := v % 2 ^ n
  if m ≥ 2 ^ (n - 1) then (m : Int) - 2 ^ n else m

/-- Add to a saturating count held in bits hi:lo. -/
def addSat (w : Word) (hi lo : Nat) (k : Nat := 1) : Word :=
  setFld w hi lo (satU (hi + 1 - lo) (fld w hi lo + k))

/-- Number from a truth value. -/
abbrev b2n (b : Bool) : Nat := b.toNat

/-- n divided by d, rounded up. -/
def cdiv (n d : Nat) : Nat := (n + d - 1) / d

/-- The lowest i below n with p i, from i = n - fuel upward. -/
def lowest (n : Nat) (p : Nat → Bool) : Option Nat := (List.range n).find? p

/-- Apply f for every number below n. -/
def forRange {σ : Type} (n : Nat) (f : Nat → σ → σ) (s : σ) : σ := (List.range n).foldl (fun s i => f i s) s

/-- Apply f for every element. -/
def forEach {σ α : Type} (l : List α) (f : α → σ → σ) (s : σ) : σ := l.foldl (fun s a => f a s) s

end Sys2Proof.Machine
end

