-- ==== Sys2Proof/Machine/Fields.lean ====
section
/-! DEFINITION. Access codes (R4) and register fields, from which the register tables of the chapters are written. -/

namespace Sys2Proof.Machine

/-- The access codes of R4. A field that a table leaves out is reserved or RO with reset 0 (R5). -/
inductive Acc where
  | rw | ro | w1c | w1s | rc | st | qm
  deriving DecidableEq, Repr

/-- One field: bits hi:lo, its access code, its reset value, and the values that may be written (R6). -/
structure Field where
  hi : Nat
  lo : Nat
  acc : Acc
  rst : Nat
  ok : Nat → Bool

namespace Fields

def any : Nat → Bool := fun _ => true
def upTo (n : Nat) : Nat → Bool := fun v => decide (v ≤ n)
def nz : Nat → Bool := fun v => decide (v ≠ 0)
def rng (a b : Nat) : Nat → Bool := fun v => decide (a ≤ v) && decide (v ≤ b)
def oneOf (l : List Nat) : Nat → Bool := fun v => l.contains v

def rw (hi lo : Nat) (rst : Nat := 0) (ok : Nat → Bool := any) : Field := ⟨hi, lo, .rw, rst, ok⟩
def ro (hi lo rst : Nat) : Field := ⟨hi, lo, .ro, rst, any⟩
def rc (hi lo : Nat) (rst : Nat := 0) : Field := ⟨hi, lo, .rc, rst, any⟩
def w1c (hi lo : Nat) (rst : Nat := 0) : Field := ⟨hi, lo, .w1c, rst, any⟩
def w1s (hi lo : Nat) (rst : Nat := 0) : Field := ⟨hi, lo, .w1s, rst, any⟩
def st (hi lo : Nat) (rst : Nat := 0) (ok : Nat → Bool := any) : Field := ⟨hi, lo, .st, rst, ok⟩
def qm (hi lo : Nat) (rst : Nat := 0) (ok : Nat → Bool := any) : Field := ⟨hi, lo, .qm, rst, ok⟩

end Fields

/-- The reset word of a register: the reset values of its fields in their places. -/
def Field.resetWord (fs : List Field) : Word := fs.foldl (fun w f => setFld w f.hi f.lo f.rst) 0

/-- The mask of the fields with an access code. -/
def Field.mask (a : Acc) (fs : List Field) : Nat :=
  fs.foldl (fun m f => if f.acc = a then m ||| maskOf f.hi f.lo else m) 0

end Sys2Proof.Machine
end

