-- ==== Sys2Proof/Machine/RegsDevice.lean ====
section
/-! DEFINITION. Register tables of the device pages other than COMPASS, STOVE and WEIR: offset within the applied half
to the fields of the register. Fields left out are reserved, or RO with reset 0 (R5). Command registers (WO) and
registers whose value the machine computes have their own operations. -/

namespace Sys2Proof.Machine.Regs
open Fields

/-- A register at offset `b + s * i`, i below `n`. -/
def isArr (o b s n : Nat) : Bool := decide (b ≤ o) && (o - b) % s == 0 && decide ((o - b) / s < n)

/-- R89: DEV page. SERIAL and HW_REV come from fuses, FW_SEQ is written when firmware starts. -/
def dev (o : Nat) : List Field :=
  if o = 0x50 then [ro 23 16 16, ro 15 0 512] else []

/-- R112: PITCH page, WHEN, AT_LO and AT_HI of the seventeen controllers. -/
def pitch (o : Nat) : List Field :=
  if isArr o 0x104 0x20 17 then [rw 23 16, rw 15 8, rw 2 0 0 (upTo 3)]
  else if isArr o 0x108 0x20 17 || isArr o 0x10C 0x20 17 then [rw 31 0]
  else []

/-- R65-R73: CLK page. The power state, CLK_STAT, LTIME and the origin are held by the machine itself. -/
def clk (o : Nat) : List Field :=
  match o with
  | 0x48 => [w1c 27 26]
  | 0x4C => [w1c 9 0]
  | 0x58 => [qm 1 0 0 (upTo 2)]
  | _ => []

/-- R405, R406: IC main page. The bitmaps are held in the controller's own state. -/
def ic (o : Nat) : List Field :=
  match o with
  | 0x58 => [rc 31 16]
  | 0x5C => [rw 31 16 200, rw 15 0 1000 nz]
  | 0x60 => [rc 15 0]
  | 0x64 => [rw 23 0]
  | _ => if isArr o 0x80 4 32 then [rw 31 31, rw 9 0] else []

/-- R407: second IC page, QIRQ_EN. -/
def ic2 (o : Nat) : List Field := if isArr o 0x40 4 32 then [rw 31 0] else []

/-- R310: FAB main page. -/
def fab (o : Nat) : List Field :=
  match o with
  | 0x40 => [st 22 16 0 (upTo 120), st 6 0 8 (rng 8 127)]
  | 0x44 | 0x48 | 0x4C => [st 17 0]
  | 0x50 | 0x54 | 0x58 => [st 25 0]
  | 0x5C => [st 9 0]
  | 0x80 | 0x84 | 0x88 | 0x8C | 0x90 => [rc 31 0]
  | 0x94 | 0x98 | 0x9C => [rc 31 16, rc 15 0]
  | _ => []

/-- R311: FAB mask page. LOSS_MASK is W1C; the other masks are computed. -/
def fabMask (o : Nat) : List Field := if isArr o 0x140 4 32 then [w1c 31 0] else []

/-- R312: OCPEN page. -/
def ocpen (o : Nat) : List Field :=
  match o with
  | 0x48 => [st 31 31, st 20 16 8, st 6 0]
  | 0x4C | 0x50 | 0x54 | 0x58 => [st 31 0]
  | 0x64 => [rc 31 0]
  | 0x68 => [rc 31 16, rc 15 0]
  | _ => []

/-- R307: a queue slot, without its header. -/
def queueSlot (o : Nat) : List Field :=
  match o with
  | 0x08 => [st 31 30 0 (upTo 2), st 29 29, st 28 28, st 24 24, st 23 20, st 16 0]
  | 0x0C => [st 25 0 0x40 nz]
  | 0x10 => [w1c 19 16]
  | 0x18 | 0x1C => [rc 31 16, rc 15 0]
  | _ => []

/-- R426: HOST main page. -/
def host (o : Nat) : List Field := if o = 0x40 then [rw 15 0 16 nz] else []

/-- R413: the MSI-X table entry; the vector's mask bit resets to 1 (PRESUMED, PCI Express). -/
def msix (o : Nat) : List Field :=
  match o with
  | 0x0 | 0x4 | 0x8 => [rw 31 0]
  | 0xC => [rw 0 0 1]
  | _ => []

/-- R427: outlet slot. TAIL has its own operation (R417). -/
def outletSlot (o : Nat) : List Field :=
  match o with
  | 0x08 => [st 31 24 1, st 20 16 3 (rng 3 16), st 0 0]
  | 0x0C => [st 23 0]
  | 0x10 => [st 31 0 0 (fun v => v % 64 == 0)]
  | 0x14 => [st 31 0]
  | 0x18 => [st 31 0 0 (fun v => v % 4 == 0)]
  | 0x1C => [st 31 0]
  | 0x48 => [w1c 19 16]
  | _ => []

/-- R443: MGMT page. -/
def mgmt (o : Nat) : List Field :=
  match o with
  | 0x40 => [qm 28 24 31, qm 0 0]
  | 0x44 => [qm 9 0]
  | 0x48 => [qm 31 24 10 nz, qm 5 0]
  | 0x4C => [w1c 5 0]
  | 0x50 => [rc 31 16, rc 15 8, rc 7 0]
  | _ => []

/-- R463: CW page. TBL_DATA reaches the poll table. -/
def cw (o : Nat) : List Field :=
  match o with
  | 0x40 => [rw 31 31, rw 13 13, rw 9 0]
  | 0x44 => [rw 17 16 3 (rng 2 3), rw 11 0 0 (upTo 2816)]
  | 0x4C => [rw 15 0]
  | 0x5C => [rc 15 0]
  | 0x78 => [rw 31 31, rw 10 0]
  | _ =>
    if isArr o 0x80 4 8 then [rw 31 24 4 nz, rw 23 16, rw 15 8, rw 7 7, rw 6 6, rw 5 4, rw 3 3, rw 2 2]
    else if isArr o 0xA0 4 8 then [rc 31 16]
    else if isArr o 0xC0 4 4 then [rw 31 31, rw 15 8, rw 5 4]
    else if isArr o 0xD0 4 4 then [rc 31 16, rc 15 0]
    else []

/-- R481: Vierma link page. VL_CTL is retained (R479) and has its own effects. -/
def vierma (o : Nat) : List Field :=
  match o with
  | 0x40 => [rw 7 4, rw 1 1, rw 0 0]
  | 0x4C => [st 2 0]
  | 0x60 | 0x64 => [rw 17 0]
  | _ =>
    if isArr o 0x88 0x10 4 then [rc 31 16, rc 15 0]
    else if isArr o 0xC0 4 8 then [st 31 31, st 25 16, st 9 0]
    else []

/-- R482: field page. -/
def field (o : Nat) : List Field :=
  if o = 0x40 then [rw 17 0]
  else if isArr o 0x100 4 256 then [rw 31 31, rw 30 30, rw 23 8, rw 7 0]
  else []

/-- R500: HEALTH page. -/
def health (o : Nat) : List Field :=
  match o with
  | 0x40 => [st 9 0]
  | 0x44 | 0x48 | 0x4C | 0x50 | 0x54 | 0x58 => [rc 31 16, rc 15 0]
  | 0x60 => [rw 10 0 60 (rng 1 1440)]
  | 0x6C => [rw 15 0 180]
  | 0x70 => [rw 31 16 1440 (rng 60 43200), rw 15 8 24, rw 1 1 1, rw 0 0 1]
  | 0x74 => [rw 15 0 240]
  | 0x7C => [rw 7 0 50 nz]
  | 0x8C => [rw 17 16 0 (rng 1 2), rw 6 0]
  | 0x94 => [rw 15 8 3, rw 0 0 1]
  | _ => []

/-- R514: DBG page. -/
def dbg (o : Nat) : List Field :=
  match o with
  | 0x40 => [qm 31 16 60000, qm 3 2 0 (upTo 2), qm 0 0 1]
  | 0x50 => [rc 31 16, rc 15 0]
  | _ => []

end Sys2Proof.Machine.Regs
end

