-- ==== Sys2Proof/Machine/RegsMeasure.lean ====
section
/-! DEFINITION. Register tables of the channel, COMPASS, WEIR, Reedbed, Float, STOVE, zone and timer registers: offset
within the applied half, or within the slot, to the fields of the register. -/

namespace Sys2Proof.Machine.Regs
open Fields

/-- R148–R155: channel page. FLAP_STAT, AP_STAT.BUSY, WEAR and STATUS are computed. -/
def chan (o : Nat) : List Field :=
  match o with
  | 0x40 => [st 20 20, st 17 16, st 12 12, st 9 8 0 (upTo 2), st 4 4, st 2 0 0 (upTo 3)]
  | 0x44 => [st 19 0]
  | 0x48 => [st 31 16 0x0CCD (rng 0x0CCD 0xFFFF), st 15 0 0xFFFF (rng 0x0CCD 0xFFFF)]
  | 0x4C => [st 25 24 0 (upTo 1), st 23 0 0 (fun v => v == 0 || decide (10 ≤ v))]
  | 0x50 => [st 11 0 0x1F4 (rng 50 2000)]
  | 0x54 | 0x5C => [st 23 0 0x7FFFFF]
  | 0x58 | 0x60 => [st 23 0 0x800000]
  | 0x64 => [st 31 24, st 23 16, st 3 2 0 (upTo 2), st 1 0 0 (upTo 2)]
  | 0x68 => [st 29 25, st 23 16, st 15 8, st 1 0]
  | 0x6C => [st 20 0 1 (rng 1 1048576)]
  | 0x70 => [st 31 16, st 15 0]
  | 0x74 => [st 15 15, st 8 0]
  | 0x78 => [st 9 0]
  | 0x90 => [rc 31 16]
  | _ => []

/-- R179, R180: COMPASS main page. -/
def compass (o : Nat) : List Field :=
  match o with
  | 0x40 => [st 9 9, st 8 8, st 5 4 0 (upTo 1), st 2 0 0 (upTo 6)]
  | 0x44 => [st 23 0 0x2710 nz]
  | 0x48 => [st 23 0]
  | 0x4C => [st 31 0]
  | 0x50 => [st 9 0]
  | 0x54 => [st 31 0]
  | 0x78 => [rc 15 0]
  | _ => []

/-- R181: COMPASS inputs page. -/
def compassIn (o : Nat) : List Field :=
  match o with
  | 0x40 | 0x60 => [st 31 24 0x0A, st 17 16 0 (upTo 2), st 8 8, st 0 0]
  | 0x44 | 0x64 => [st 24 0 0x1000 (rng 4 16777216)]
  | 0x4C | 0x6C => [rc 31 16, rc 15 0]
  | 0x80 => [st 31 24 0x32 (rng 1 130), st 23 16 0x14, st 1 1, st 0 0]
  | 0x88 => [rc 31 16, rc 15 0]
  | 0xA0 => [st 31 24 0x0A, st 23 8 1 nz, st 1 1, st 0 0]
  | 0xA4 => [rc 15 0]
  | _ => []

/-- R182: one mark's 16 bytes. MK_STAT is held as measured state. -/
def mark (o : Nat) : List Field :=
  match o with
  | 0x0 | 0x4 => [st 31 0]
  | 0x8 => [st 31 16, st 8 8, st 5 4 0 (upTo 2), st 2 0 0 (upTo 3)]
  | _ => []

/-- R182: marks pages; page j (0–2) holds marks 96j onward. -/
def marks (j o : Nat) : List Field :=
  if 0x40 ≤ o ∧ (o - 0x40) / 16 + 96 * j < 256 ∧ (o - 0x40) / 16 < 96 then mark ((o - 0x40) % 16) else []

/-- R215, R216: WEIR main page. RUN_STAT, the run stamp, PINS and SIGMA are measured. -/
def weir (o : Nat) : List Field :=
  match o with
  | 0x40 => [st 28 28, st 25 24 0 (upTo 2), st 22 16 1 (rng 1 64), st 15 12 1, st 11 0 16 (rng 1 4064)]
  | 0x44 => [st 19 0 100000]
  | 0x48 => [st 8 0 16 (rng 1 256)]
  | 0x4C => [st 31 24, st 23 16, st 12 8, st 1 0]
  | 0x50 => [st 31 0 100000]
  | 0x54 => [st 31 0 10000000]
  | 0x58 => [st 31 0 400000]
  | 0x5C => [st 31 24 10 nz, st 19 16 5 (rng 3 15), st 15 0 4096 nz]
  | 0x60 => [st 23 0 0x1000]
  | 0x64 => [st 23 0 0x2000]
  | 0x68 => [st 1 1, st 0 0]
  | 0x6C => [st 9 0]
  | 0x70 => [st 31 31, st 6 0]
  | 0x88 => [rc 31 16]
  | 0x8C => [rc 15 0]
  | _ => []

/-- R217: WS page of a camp. -/
def ws (o : Nat) : List Field := if o = 0x40 then [st 31 0] else []

/-- R237, R238: RB page of a camp. GDELAY and PH_LAG are computed. -/
def rb (o : Nat) : List Field :=
  match o with
  | 0x40 => [st 0 0]
  | 0x44 => [st 31 0]
  | 0x48 => [rc 31 16, rc 15 0]
  | 0x4C => [rc 15 0]
  | 0x50 | 0x54 | 0x58 | 0x5C => [w1c 31 0]
  | _ =>
    if 0x80 ≤ o ∧ o < 0x480 then
      match o % 16 with
      | 0x0 => [st 30 29, st 28 28, st 27 26, st 25 25, st 23 12, st 11 8,
                st 7 4 0 (oneOf [0, 3, 5, 7, 9, 11, 13, 15]), st 3 2 0 (upTo 1), st 0 0]
      | 0x4 => [st 23 0]
      | 0x8 => [st 31 0]
      | _ => [st 31 31, st 24 16, st 9 0]
    else []

/-- R240: RBC page of a camp. CW_DATA reaches the coefficient image. -/
def rbc (o : Nat) : List Field := if o = 0x40 then [rw 31 31, rw 15 0] else []

/-- R260: Float slot. -/
def floatSlot (o : Nat) : List Field :=
  match o with
  | 0x08 => [st 30 28 0 (upTo 6), st 25 24 0 (upTo 1), st 23 22 0 (upTo 2), st 21 20, st 9 0]
  | 0x0C => [st 31 24, st 23 16, st 1 0 0 (upTo 2)]
  | 0x10 | 0x14 => [st 23 0]
  | 0x18 => [st 31 0 0x7FFFFFFF]
  | 0x1C => [st 31 0 0x80000000]
  | 0x20 => [st 30 0]
  | 0x24 => [st 23 0 1 nz]
  | 0x28 => [st 31 16, st 15 8, st 4 4, st 3 3, st 1 0 0 (upTo 2)]
  | 0x2C => [st 23 0]
  | 0x30 => [st 12 12, st 4 0 0 (upTo 16)]
  | 0x34 => [st 18 16, st 15 0 0xFFFF]
  | 0x38 | 0x3C | 0x40 | 0x44 | 0x48 | 0x4C | 0x50 | 0x54 | 0x58 => [st 31 0]
  | 0x6C => [rc 31 16, rc 15 0]
  | 0x70 => [w1c 7 0]
  | _ => []

/-- R278: STOVE main page. Temperatures are signed; the limits of PKG_TMAX and Z_TMAX bound the signed value. -/
def stove (o : Nat) : List Field :=
  match o with
  | 0x40 => [st 1 1, st 0 0]
  | 0x44 => [st 31 0 27000 (rng 1000 60000)]
  | 0x48 => [st 31 0 60000 (rng 1000 60000)]
  | 0x4C => [st 31 0 90000 (upTo 90000)]
  | 0x50 => [st 31 0 10000 (upTo 10000)]
  | 0x54 => [st 31 0 300000 (upTo 300000)]
  | 0x58 => [st 31 0 90000 (rng 90000 10000000)]
  | 0x5C => [st 31 0]
  | 0x60 => [st 15 0 1280 (fun v => decide (sext 16 v ≤ 1280))]
  | 0x64 => [st 31 0 500 (rng 1 100000)]
  | 0x68 => [st 9 0]
  | 0xB0 => [rc 31 16, rc 15 0]
  | _ => []

/-- R279: ZONE page of a camp. -/
def zone (o : Nat) : List Field :=
  match o with
  | 0x40 => [st 31 0 6000 (rng 100 12000)]
  | 0x44 => [st 31 0 9600 (upTo 19200)]
  | 0x48 => [st 15 0 1760 (fun v => decide (sext 16 v ≤ 1760))]
  | 0x4C => [st 31 0 1900 (rng 1 100000)]
  | _ => if isArr o 0x50 4 32 then [st 23 0] else []

/-- R326: TMR main page. -/
def tmr (o : Nat) : List Field :=
  if isArr o 0x40 4 4 then [st 31 24 0x0A, st 23 8, st 2 1 0 (upTo 2), st 0 0]
  else if isArr o 0x50 4 4 then [rc 15 0]
  else if o = 0x64 then [st 9 0]
  else []

/-- A selector of R317: KIND 3 and TIN numbers above 3 are invalid. -/
def selOk (v : Nat) : Bool := v / 256 != 3 && (v / 256 != 2 || decide (v % 256 ≤ 3))

/-- R327: timer slot. COUNT, the capture buffers, RUNNING, FRONT and BACK are the timer's own state. -/
def timerSlot (o : Nat) : List Field :=
  match o with
  | 0x08 => [st 12 12, st 11 11, st 10 10, st 9 8, st 5 5, st 4 4, st 3 0 0 (upTo 7)]
  | 0x0C => [st 31 0 0x10000 (fun v => decide (0x10000 ≤ v))]
  | 0x10 | 0x14 | 0x18 | 0x1C => [st 31 0 0xFFFFFFFF]
  | 0x20 | 0x24 => [st 31 0]
  | 0x28 | 0x2C => [st 25 16 0 selOk, st 9 0 0 selOk]
  | 0x30 => [st 29 28, st 27 24, st 21 20, st 17 16, st 4 0]
  | 0x34 => [st 31 0]
  | 0x58 => [w1c 2 0]
  | 0x5C => [rc 31 16, rc 15 0]
  | _ => []

/-- R386: SEQ page of a camp. -/
def seq (o : Nat) : List Field :=
  match o with
  | 0x4C | 0x50 => [rc 31 16, rc 15 0]
  | _ => []

/-- R388: CTX page, configuration. The register file is the context's own state. -/
def ctx (o : Nat) : List Field :=
  match o with
  | 0x40 => [st 15 0 0 (fun v => v % 4 == 0)]
  | 0x44 => [st 31 0]
  | 0x48 => [st 0 0]
  | _ => []

/-- R389: ESC page. -/
def esc (o : Nat) : List Field :=
  match o with
  | 0x40 => [rw 31 11]
  | 0x44 => [rw 15 0 2000 (rng 1 60000)]
  | 0x5C => [rw 3 0]
  | _ => []

end Sys2Proof.Machine.Regs
end

