-- ==== Sys2Proof/Machine/Map.lean ====
section
/-! DEFINITION. The BAR0 map (R14–R17): where every unit and page lies, what each page is, and which fields each register
has. -/

namespace Sys2Proof

/-! ### Units -/

/-- UNIT_ID (R10). -/
def Un.id : Un → Nat
  | .device => 0x2000
  | .camp c => 0x3000 + c
  | .chan n => 0x4000 + n
  | .float i => 0x5000 + i
  | .queue q => 0x6000 + q
  | .timer t => 0x7000 + t
  | .outlet o => 0xD000 + o
  | .ctx x => 0x8000 + x

/-- BAR0 offset of the unit's main page or applied slot (R14, R17, R326, R427). -/
def Un.addr : Un → Nat
  | .device => 0
  | .camp c => 0x100000 + c * 0x10000
  | .chan n => 0x200000 + n * 0x1000
  | .float i => 0x400000 + i / 16 * 0x1000 + i % 16 * 0x80
  | .queue q => 0x500000 + q / 64 * 0x1000 + q % 64 * 0x20
  | .timer t => 0xE000 + t / 16 * 0x1000 + 0x100 + t % 16 * 0x60
  | .outlet o => 0x15100 + o * 0x60
  | .ctx x => 0x100000 + x / 10 * 0x10000 + (6 + x % 10) * 0x1000

/-- Units that live in a slot (R77). -/
def Un.inSlot : Un → Bool
  | .float _ | .queue _ | .timer _ | .outlet _ => true
  | _ => false

/-- The unit that has its main page or slot at an offset. -/
def Un.ofAddr (a : Nat) : Option Un :=
  if a = 0 then some .device
  else if 0x100000 ≤ a ∧ a < 0x200000 ∧ a % 0x1000 = 0 then
    let p := a / 0x1000 % 16
    let c := (a - 0x100000) / 0x10000
    if p = 0 then some (.camp c) else if 6 ≤ p then some (.ctx (10 * c + p - 6)) else none
  else if 0x200000 ≤ a ∧ a < 0x400000 ∧ a % 0x1000 = 0 then some (.chan ((a - 0x200000) / 0x1000))
  else if 0x400000 ≤ a ∧ a < 0x480000 ∧ a % 0x80 = 0 ∧ a % 0x1000 < 0x800 then
    some (.float ((a - 0x400000) / 0x1000 * 16 + a % 0x1000 / 0x80))
  else if 0x500000 ≤ a ∧ a < 0x510000 ∧ a % 0x20 = 0 ∧ a % 0x1000 < 0x800 then
    some (.queue ((a - 0x500000) / 0x1000 * 64 + a % 0x1000 / 0x20))
  else if 0xE100 ≤ a ∧ a < 0x10000 ∧ 0x100 ≤ a % 0x1000 ∧ a % 0x1000 < 0x700 ∧ (a % 0x1000 - 0x100) % 0x60 = 0 then
    some (.timer ((a / 0x1000 - 0xE) * 16 + (a % 0x1000 - 0x100) / 0x60))
  else if 0x15100 ≤ a ∧ a < 0x15700 ∧ (a - 0x15100) % 0x60 = 0 then some (.outlet ((a - 0x15100) / 0x60))
  else none

/-- The camp a unit belongs to, if any (R9, R83). -/
def Un.camp? : Un → Option Nat
  | .camp c => some c
  | .chan n => some (n / 32)
  | .float i => some (i / 128)
  | .ctx x => some (x / 10)
  | _ => none

/-- Ancestors, nearest first (R81, R360). -/
def Un.ancestors : Un → List Un
  | .device => []
  | .camp _ | .queue _ | .timer _ | .outlet _ => [.device]
  | .chan n => [.camp (n / 32), .device]
  | .float i => [.chan (i / 4), .camp (i / 128), .device]
  | .ctx x => [.camp (x / 10), .device]

/-- Units whose RUN makes the power state RUN (R61). -/
def Un.active : Un → Bool
  | .chan _ | .float _ | .ctx _ | .timer _ => true
  | _ => false

/-- A camp, its channels, its contexts and its Floats, ancestors first (R83). -/
def Un.ofCamp (c : Nat) : List Un :=
  .camp c :: (List.range 32).map (fun j => .chan (32 * c + j)) ++ (List.range 10).map (fun k => .ctx (10 * c + k)) ++
    (List.range 128).map (fun j => .float (128 * c + j))

/-- A channel and its Floats. -/
def Un.ofChan (n : Nat) : List Un := .chan n :: (List.range 4).map (fun j => .float (4 * n + j))

/-- Every unit below the device, ancestors first. -/
def Un.all : List Un :=
  (List.range 16).map .camp ++ (List.range 512).map .chan ++ (List.range 160).map .ctx ++
    (List.range 2048).map .float ++ (List.range 1024).map .queue ++ (List.range 32).map .timer ++
    (List.range 16).map .outlet

/-- Paths by number, in the order of R301. -/
def Path.num : Path → Nat
  | .host => 0 | .mgmt => 1 | .efyonS => 2 | .ctx i => 3 + i.val

end Sys2Proof

namespace Sys2Proof.Machine

/-! ### Pages -/

/-- The device pages that exist (R16); FAB has two header-only pages (R311). -/
def devicePages : List Nat :=
  [0x0, 0x1, 0x2, 0x3, 0x4, 0x5, 0x6, 0x7, 0x8, 0x9, 0xA, 0xB, 0xC, 0xD, 0xE, 0xF, 0x10, 0x11, 0x12, 0x13, 0x14, 0x15, 0x18,
   0x19, 0x1A, 0x1B, 0x1C, 0x1D, 0x1E]

/-- PAGE_ID (R75 and the chapters' statements); 0 where no page with a header lies. -/
def pageId (base : Nat) : Nat :=
  if base < 0x100000 then
    match base / 0x1000 with
    | 0x0 => 0x02012000 | 0x1 => 0x12012000 | 0x2 => 0x22012000
    | 0x3 => 0x09019FFF | 0x4 => 0x19019FFF | 0x5 => 0x29019FFF | 0x6 => 0x39019FFF | 0x7 => 0x49019FFF
    | 0x8 => 0x0B01B010 | 0x9 => 0x1B01B010 | 0xA => 0x0A01AFFF | 0xB => 0x1A01AFFF
    | 0xC => 0xA2012000 | 0xD => 0xB2012000 | 0xE => 0x82012000 | 0xF => 0x92012000
    | 0x10 => 0x32012000 | 0x11 => 0x42012000 | 0x12 => 0x52012000 | 0x13 => 0x62012000 | 0x14 => 0x72012000
    | 0x15 => 0xC2012000 | 0x18 => 0xE2012000 | 0x19 => 0x0C01CFFF
    | 0x1A => 0x11011000 | 0x1B => 0x01011000 | 0x1C => 0xF2012000 | 0x1D => 0xD2012000 | 0x1E => 0x00010000
    | _ => 0
  else if base < 0x200000 then
    let c := (base - 0x100000) / 0x10000
    match base / 0x1000 % 16 with
    | 0 => 0x03013000 + c | 1 => 0x13013000 + c | 2 => 0x23013000 + c | 3 => 0x0A01A000 + c
    | 4 => 0x0B01B000 + c | 5 => 0x33013000 + c
    | p => 0x08018000 + 10 * c + p - 6
  else if base < 0x400000 then 0x04014000 + (base - 0x200000) / 0x1000
  else 0

/-- Pages whose 4 KiB hold a page header and registers under R74. -/
def isPage (base : Nat) : Bool := pageId base != 0 && base % 0x1000 == 0

/-- The unit whose STATE and QUAR a page shows: its own, or the one it repeats (R76). -/
def pageUnit (base : Nat) : Option Un :=
  if base < 0x100000 then
    if [0x0, 0x1, 0x2, 0xC, 0xD, 0xE, 0xF, 0x10, 0x11, 0x12, 0x13, 0x14, 0x15, 0x18, 0x1C, 0x1D].contains (base / 0x1000)
    then some .device else none
  else if base < 0x200000 then
    let c := (base - 0x100000) / 0x10000
    match base / 0x1000 % 16 with
    | 0 | 1 | 2 | 5 => some (.camp c)
    | 3 | 4 => none
    | p => some (.ctx (10 * c + p - 6))
  else if base < 0x400000 then some (.chan ((base - 0x200000) / 0x1000))
  else none

/-- A role-0 page: it carries its unit's state, QUAR and children (R76). -/
def isMain (base : Nat) : Bool :=
  match pageUnit base with
  | some u => u.addr == base
  | none => false

/-! ### Registers -/

/-- The fields of the register at an offset of the applied half, beside the common header. -/
def fieldsAt (a : Nat) : List Field :=
  let o := a % 0x1000
  if 0x800 ≤ o then []
  else if a < 0x100000 then
    match a / 0x1000 with
    | 0x0 => Regs.dev o | 0x1 => Regs.pitch o | 0x2 => Regs.clk o | 0x3 => Regs.compass o | 0x4 => Regs.compassIn o
    | 0x5 => Regs.marks 0 o | 0x6 => Regs.marks 1 o | 0x7 => Regs.marks 2 o
    | 0x8 => Regs.stove o | 0xA => Regs.weir o | 0xC => Regs.ic o | 0xD => Regs.ic2 o
    | 0xE => if 0x100 ≤ o && o < 0x700 then Regs.timerSlot ((o - 0x100) % 0x60) else Regs.tmr o
    | 0xF => if 0x100 ≤ o && o < 0x700 then Regs.timerSlot ((o - 0x100) % 0x60) else []
    | 0x10 => Regs.fab o | 0x11 => Regs.fabMask o | 0x14 => Regs.ocpen o
    | 0x15 => if 0x100 ≤ o && o < 0x700 then Regs.outletSlot ((o - 0x100) % 0x60) else Regs.host o
    | 0x16 => Regs.msix o
    | 0x18 => Regs.mgmt o | 0x19 => Regs.cw o | 0x1A => Regs.vierma o | 0x1B => Regs.field o
    | 0x1C => Regs.health o | 0x1D => Regs.esc o | 0x1E => Regs.dbg o
    | _ => []
  else if a < 0x200000 then
    match a / 0x1000 % 16 with
    | 0 => [] | 1 => Regs.rb o | 2 => Regs.rbc o | 3 => Regs.ws o | 4 => Regs.zone o | 5 => Regs.seq o
    | _ => Regs.ctx o
  else if a < 0x400000 then Regs.chan o
  else if a < 0x480000 then Regs.floatSlot (o % 0x80)
  else if 0x500000 ≤ a ∧ a < 0x510000 then Regs.queueSlot (o % 0x20)
  else []

/-- A register of the staged half belongs to the applied register 0x800 below (R74). -/
def isStaged (a : Nat) : Bool := decide (0x800 ≤ a % 0x1000)

/-- Mask of the ST fields of an applied register (R74). -/
def stMask (a : Nat) : Nat := Field.mask .st (fieldsAt a)

/-- Bits of the word that holds a unit's staged STATE (R77, R80). -/
def stateBits (u : Un) : Nat × Nat := if u.inSlot then (26, 24) else (2, 0)

/-- Offset of the word that holds a unit's staged STATE. -/
def stagedStateAt (u : Un) : Nat := if u.inSlot then u.addr + 0x800 else u.addr + 0x804

/-- What an unlisted register reads as: the reset values of its fields (R53), in the staged view those of the ST fields,
and PARKED in a staged STATE (R77, R80). -/
def resetOf (a : Nat) : Word :=
  if a < 0x510000 then
    if isStaged a then
      let b := a - 0x800
      let w := Field.resetWord ((fieldsAt b).filter (fun f => f.acc = .st))
      match Un.ofAddr b with
      | some u => if u.inSlot then setFld w 26 24 1 else w
      | none =>
        match (if b % 0x1000 = 4 then Un.ofAddr (b - 4) else none) with
        | some u => if u.inSlot then w else setFld w 2 0 1
        | none => w
    else Field.resetWord (fieldsAt a)
  else 0

end Sys2Proof.Machine
end

