-- ==== Sys2Proof/Machine/SMap.lean ====
section
/-! DEFINITION. Sparse maps from numbers to values, as plain data: a list of pairs with strictly rising keys in
which no pair holds the value that an unlisted key reads as. -/

namespace Sys2Proof.Machine

/-- A sparse map: pairs of a key and a value, keys strictly rising. -/
abbrev SMap (α : Type) := List (Nat × α)

/-- The pair's value, if the key is listed. -/
def SMap.find? {α : Type} : SMap α → Nat → Option α
  | [], _ => none
  | (k', v) :: m, k => if k' = k then some v else SMap.find? m k

/-- What key `k` reads as: the listed value, else `d`. -/
def SMap.get {α : Type} (d : α) (m : SMap α) (k : Nat) : α :=
  match SMap.find? m k with
  | some v => v
  | none => d

/-- Drop every pair of a key. -/
def SMap.erase {α : Type} : SMap α → Nat → SMap α
  | [], _ => []
  | (k', v) :: m, k => if k' = k then SMap.erase m k else (k', v) :: SMap.erase m k

/-- List a value before the first higher key. -/
def SMap.place {α : Type} : SMap α → Nat → α → SMap α
  | [], k, v => [(k, v)]
  | (k', v') :: m, k, v => if k < k' then (k, v) :: (k', v') :: m else (k', v') :: SMap.place m k v

/-- List a value for a key, in place of what it had. -/
def SMap.insert {α : Type} (m : SMap α) (k : Nat) (v : α) : SMap α := SMap.place (SMap.erase m k) k v

/-- Write a value; writing what an unlisted key reads as removes the pair. -/
def SMap.put {α : Type} [DecidableEq α] (d : α) (m : SMap α) (k : Nat) (v : α) : SMap α :=
  if v = d then SMap.erase m k else SMap.insert m k v

/-- Keys strictly rise from above `lo`, and no pair holds its key's unlisted value. -/
def SMap.wfFrom {α : Type} [DecidableEq α] (d : Nat → α) : Nat → SMap α → Bool
  | _, [] => true
  | lo, (k, v) :: m => decide (lo ≤ k) && decide (v ≠ d k) && SMap.wfFrom d (k + 1) m

/-- The canonical form of a sparse map. -/
def SMap.wf {α : Type} [DecidableEq α] (d : Nat → α) (m : SMap α) : Bool := SMap.wfFrom d 0 m

/-- The listed keys. -/
def SMap.keys {α : Type} (m : SMap α) : List Nat := m.map (·.1)

end Sys2Proof.Machine
end

