-- ==== Sys2Proof/Machine/State.lean ====
section
/-! DEFINITION. The state of the KSL-512 as plain data, the reasons a step can stop, and the state after reset.

Registers that software writes, and registers that the device only counts into, are kept in one sparse map keyed by BAR0
offset (`Dev.regs`); an unlisted register reads its reset value. What the machine computes or measures is kept in the
typed records below, and the registers that show it are views. -/

namespace Sys2Proof.Machine

/-! ### Units -/

/-- Unit states, R80. -/
inductive UState where
  | off | parked | ready | run | held | quarantine | fault
  deriving DecidableEq, Repr

/-- What the device keeps of a unit beside its registers: the state last set by a pitch, and whether the device holds
the unit (R81). -/
structure UnitDyn where
  last : UState := .parked
  held : Bool := false
  deriving DecidableEq, Repr

/-! ### Power, clocks and time (chapters 2 and 3) -/

/-- Power states. RUN is READY with an active unit in RUN or HELD (R61); `reset` is every rail present and the device
held in reset (R40). -/
inductive PwrState where
  | off | campwatch | reset | starting | standby | ready | entering | safeOff | startFailed
  deriving DecidableEq, Repr

/-- Slot header states of R59. -/
inductive SlotState where
  | new | trial | good | bad
  deriving DecidableEq, Repr

/-- A boot flash slot as the selection step sees it (R59). -/
structure Slot where
  magic : Bool := false
  seq : Word := 0
  st : SlotState := .new
  crc : Bool := false
  /-- Bytes of the slot other than 0, by their offset. -/
  image : List Host.Cell := []
  deriving DecidableEq, Repr

/-- The warm record (R58): the island count at its writing, the module temperatures, the boot slot, and whether AON_RC
has stayed clear since. -/
structure WarmRec where
  aon : BitVec 48
  temps : List (BitVec 16)
  slot : Nat
  rcClear : Bool
  /-- The calibration that it names: gain and offset corrections, and whether a full calibration had passed, by channel;
  and the RATIO words of the Weir slices by offset. -/
  coefs : SMap (Bool × List (Int × Int))
  ratios : SMap Word
  deriving DecidableEq, Repr

/-- The island's record of a rail fault (R34): the rail and LTIME. -/
structure RailLog where
  rail : Rail
  t : Time
  deriving DecidableEq, Repr

structure Pwr where
  st : PwrState := .campwatch
  /-- No unit has left OFF yet (step 6 of R57). -/
  devOff : Bool := true
  /-- No unit below the device has left OFF yet: the start-up is not complete (R53). -/
  unitsOff : Bool := true
  /-- Step 7 of R57 or step 6 of R58 is in progress: the device is in STANDBY, and the channels bias and calibrate. -/
  biasing : Bool := false
  /-- Camps within a camp reset (R51). -/
  campOff : List Nat := []
  /-- Camps whose reset waits for the last flap to open (R51). -/
  campWait : List Nat := []
  /-- VAON in tolerance; PORESET# low; a rail fault or a clock fault holds the device; REFCLK runs; factory mode; MGA. -/
  vaonOk : Bool := true
  poreset : Bool := true
  railHeld : Bool := false
  clockHeld : Bool := false
  refclk : Bool := true
  factory : Bool := false
  mga : Nat := 0
  /-- The last start-up was warm (R58). -/
  warm : Bool := false
  /-- RST_CAUSE bits of the reset and start-up in progress, until that start-up ends, and PLL_LOSS, which set when firmware
  starts (R52, R67, R68). -/
  causes : Nat := 1
  pllLoss : Bool := false
  /-- BOOT register fields (R70) and the running slot's header. -/
  startMs : Nat := 0
  markedBad : Bool := false
  slot : Nat := 0
  slotA : Slot := { magic := true, seq := 1, st := .good, crc := true }
  slotB : Slot := {}
  bootForce : Nat := 0
  fwSeq : Word := 0
  /-- Transitions of R62: stopping the clocks for STANDBY, and the request kept meanwhile. -/
  stopping : Bool := false
  kept : Nat := 0
  /-- The state to which a PWR_REQ returns the device from SAFE_OFF: 2 or 3, 0 while none does (R64). -/
  leaving : Nat := 0
  refused : Bool := false
  drainTimeout : Bool := false
  /-- READY ball, filtered ILK (R42), thermal trip of R39, and whether a sensor is still hot. -/
  ball : Bool := false
  ilk : Bool := false
  /-- The level of the ILK ball as its filter would take it, in reset too (R40, R42). -/
  ilkBall : Bool := false
  trip : Bool := false
  tripHot : Bool := false
  /-- CK_SYS and LTIME. -/
  ckSys : Bool := false
  ltime : Time := 0
  origin : Nat := 0
  /-- The island: its count, the fraction of a CK_AON period in units of 10⁻⁹ / 32,768, its source, the latest pair. -/
  aonCnt : BitVec 48 := 0
  aonFrac : Nat := 0
  /-- CK_SYS cycles until the last edge of CK_AON ticks the timers, 0 with none on its way (R49, R314). -/
  aonDue : Nat := 0
  aonRc : Bool := true
  /-- Cold restarts of LTIME (R453). -/
  colds : Nat := 0
  pair : Option (Time × BitVec 48) := none
  /-- `colds` at the latch of the pair, and the pairs before it with theirs, latest first: a stamp may lie before the latest. -/
  pairColds : Nat := 0
  pairOld : List (Time × BitVec 48 × Nat) := []
  railLog : Option RailLog := none
  warmRec : Option WarmRec := none
  /-- A start-up begins: at the end of the command Lakebed fills with zeros (step 3 of R57). -/
  fill : Bool := false
  /-- A wake event that the interrupt controller or the island has raised and the power control has yet to take. -/
  wakeReq : Bool := false
  /-- The cycle in which the device entered SAFE_OFF: a wake of that cycle abandons the entry (R461). -/
  safeAt : Option Time := none
  deriving DecidableEq, Repr

/-! ### Pitch controllers (chapter 4) -/

/-- PSTATE, R99. -/
inductive PState where
  | idle | checking | passed | failed | armed | applied | cancelled
  deriving DecidableEq, Repr

structure PitchCtl where
  ps : PState := .idle
  result : Nat := 0
  empty : Bool := false
  offender : Word := 0
  appliedAt : Time := 0
  /-- The check in progress was started by ARM. -/
  arming : Bool := false
  deriving DecidableEq, Repr

/-! ### Compass (chapter 6) -/

/-- How the phase moves after a knot of its history. -/
inductive Travel where
  | none
  /-- At `num / den` phase units per ns, at most `lim` units (R165). -/
  | track (num : Int) (den : Nat) (lim : Option Nat)
  | hold
  /-- Extrapolated at a rate for a number of ns, then held (R167). -/
  | extrap (num : Int) (den : Nat) (ns : Nat)
  /-- The virtual accumulator of R164: its value at the knot and its increment. -/
  | virtual (acc : Nat) (inc : Nat)
  deriving DecidableEq, Repr

/-- A knot of the tracked phase, at the cycle of an edge's acceptance, a jump, a stall or a source change (R165–R168). `cont` says
that the phase travelled to this knot from the one before: it is no jump (R166). `pos` is the position `since` ns before the knot:
that of the last edge, where a jump has moved the phase between two edges. -/
structure Knot where
  t : Time
  pos : BitVec 48
  cont : Bool
  src : Nat
  mv : Travel
  since : Nat := 0
  deriving DecidableEq, Repr

/-- What the phase history holds at an instant (R173, R174). An edge stands at its ball instant with its position; the interpolation
from it begins at `from_`, which lies before the entry where another source, or the end of a stall, begins within an interval
between two edges. A shift is a jump by a difference, and the cycle in which the tracked phase takes it. A cut ends the
interpolation: at a source change, or at the detection of a stall with the PH_STATE of the entries that it overtakes. -/
inductive HistKind where
  | edge (from_ : Time) (pos : BitVec 48) (jump : Bool)
  | shift (by_ : Int) (cycle : Time)
  | cut (st : Option Nat)
  deriving DecidableEq, Repr

structure HistEnt where
  t : Time
  kind : HistKind
  deriving DecidableEq, Repr

/-- An encoder input (R157–R160). -/
structure Enc where
  a : Bool := false
  b : Bool := false
  z : Bool := false
  lineA : Bool := false
  lineB : Bool := false
  lineZ : Bool := false
  count : Nat := 0
  turns : BitVec 16 := 0
  idxSeen : Bool := false
  /-- PH_IDX of the input: a quadrature error clears it until the next index (R158). -/
  idx : Bool := false
  rev : Bool := false
  zStuck : Bool := false
  /-- Counts with Z active since it became so, or, while the index is stuck, with Z inactive (R160). -/
  zRun : Nat := 0
  idxDev : Int := 0
  last : Option Time := none
  /-- The last two counted edges: ball instant and position without PH_OFS, newest first. The input counts whether or not it is
  selected (R156), so a source change finds them. -/
  edges : List (Time × BitVec 48) := []
  /-- The cycle that accepted the last of them. -/
  acc : Option Time := none
  deriving DecidableEq, Repr

/-- The mains input (R161). -/
structure Mains where
  turns : BitVec 16 := 0
  last : Option Time := none
  period : Nat := 0
  edges : List (Time × BitVec 48) := []
  acc : Option Time := none
  deriving DecidableEq, Repr

/-- The pulse input (R162). -/
structure Pulse where
  n : Nat := 0
  turns : BitVec 16 := 0
  last : Option Time := none
  stuck : Bool := false
  edges : List (Time × BitVec 48) := []
  acc : Option Time := none
  deriving DecidableEq, Repr

/-- An INPUT record's merging state: input, cause, the millisecond of the last record, and the events merged since. -/
structure InputMerge where
  input : Nat
  cause : Nat
  ms : Nat
  n : Nat
  deriving DecidableEq, Repr

structure Compass where
  enc0 : Enc := {}
  enc1 : Enc := {}
  mains : Mains := {}
  pulse : Pulse := {}
  /-- The tracked phase, newest first. -/
  hist : List Knot := []
  /-- The edges of the history and what lies between them, newest first. -/
  ents : List HistEnt := []
  /-- The last two edges, or states of a virtual phase, that PHASE frames have brought, newest first (R163, R471). -/
  rootEdges : List (Time × BitVec 48) := []
  /-- The last two accepted edges of the selected source: LTIME and position, newest first. -/
  edges : List (Time × BitVec 48) := []
  /-- PH_IDX of the selected source from an instant on, newest first (R174). -/
  idxLog : List (Time × Bool) := []
  /-- The cycle that last accepted an edge or a broadcast update of the selected source (R167). -/
  lastAcc : Option Time := none
  stalled : Bool := false
  stallT0 : Time := 0
  /-- Edges still to come before interpolation resumes (R168). -/
  resume : Nat := 0
  merge : List InputMerge := []
  /-- Phase position at the end of the cycle before: what the present cycle crosses begins there (R169, R314). -/
  seen : BitVec 48 := 0
  /-- The cycle of the last jump (R166). -/
  jumpAt : Option Time := none
  /-- Marks that have fired in the present cycle. -/
  fired : List Nat := []
  /-- Words of marks that a pitch of the present cycle has changed, as they stood before it (R170). -/
  markWas : SMap Word := []
  /-- The next broadcast update of a field's phase is a jump (R163, R166). -/
  resync : Bool := false
  /-- Entries of the fine and of the coarse history with a parity error, by LTIME in µs and in 64 µs (R173). -/
  badFine : List Nat := []
  badCoarse : List Nat := []
  deriving DecidableEq, Repr

/-! ### Interrupt controller (chapter 15) -/

structure IntCtl where
  pend : BitVec 1024 := 0
  active : BitVec 1024 := 0
  actH : BitVec 1024 := 0
  enS : BitVec 1024 := 0
  enH : BitVec 1024 := 0
  stormed : BitVec 1024 := 0
  /-- Inputs of the level sources when last sampled (R393), bit w for source 32 + w. -/
  level : BitVec 32 := 0
  /-- Messages of each source in the storm window that began at this LTIME (R400). -/
  counts : SMap Nat := []
  window : Time := 0
  owed : Bool := false
  /-- The message owed is a watched source's, which ignores the moderation interval (R399). -/
  urgent : Bool := false
  /-- The message was owed when a reset of the port took the function's configuration: it waits for its messages to be enabled
  again (R398). -/
  kept : Bool := false
  /-- ns left in the moderation interval; 0 when none runs (R397). -/
  modLeft : Nat := 0
  wake : Bool := false
  hostirq : Bool := false
  msgs : Word := 0
  deriving DecidableEq, Repr

/-! ### The queue fabric (chapter 11) -/

/-- A committed packet. -/
structure Packet where
  items : List Word
  /-- Valid bytes of the last item (R308). -/
  lastb : Nat := 4
  seq : BitVec 16 := 0
  /-- Words carrying CE, words carrying UE (R286). -/
  ce : List Nat := []
  ue : List Nat := []
  spilled : Bool := false
  /-- Place in the fabric's commit order (R296). -/
  order : Nat := 0
  /-- The source that a hardware producer's packet names (R294). -/
  src : Option Nat := none
  deriving DecidableEq, Repr

structure QueueDyn where
  /-- Committed packets in commit order. -/
  pkts : List Packet := []
  /-- Words already read of the first packet; it is READING when this is not 0. -/
  rd : Nat := 0
  nextSeq : BitVec 16 := 0
  /-- A loss since the last SOP word delivered (R286). -/
  lossTag : Bool := false
  /-- LOSS record throttle (R302): a millisecond is open; losses gathered in it; the cause of the first. -/
  lossOpen : Bool := false
  lossN : Nat := 0
  lossCause : Nat := 0
  deriving DecidableEq, Repr

/-- A path's open packet (R287). -/
structure OpenPkt where
  q : Nat
  items : List Word
  damaged : Bool := false
  /-- Words that carry CE already (R299), and the valid bytes of the final item, where OP = 2 has set them (R308). -/
  ce : List Nat := []
  lastb : Option Nat := none
  deriving DecidableEq, Repr

/-- What the device keeps for each path: its open packet, the LASTB settings of packets still to open (queue, valid bytes), the
consumer latch (queue, items 1 and 2, tag), and the latches of the 64-bit reads. -/
structure PathDyn where
  pkt : Option OpenPkt := none
  lastb : List (Nat × Nat) := []
  /-- The word of the last read of a consumer port, as a 16-byte read returns it: items 0, 1 and 2 and the tag (R289). -/
  word : Word × Word × Word × Word := (0, 0, 0, 0)
  latch : Option (Nat × Word × Word × Word) := none
  ltHi : Option Word := none
  aonHi : Option Word := none
  phTurn : Option Word := none
  phLt : Time := 0
  countHi : SMap (Option Word) := []
  ocLast : Word := 0x8000
  /-- What the path's last read returned. -/
  ans : Word := 0
  deriving DecidableEq, Repr

/-- A packet that a hardware producer keeps for want of credit (R294). -/
structure PendPkt where
  q : Nat
  items : List Word
  lastb : Nat
  src : Nat
  un : Option Un
  deriving DecidableEq, Repr

/-- The Ocpen window (R303–R305): items oldest first, and the OCPEN record throttle of R302. -/
structure Ocpen where
  fifo : List (BitVec 16) := []
  ovrOpen : Bool := false
  ovrN : Nat := 0
  deriving DecidableEq, Repr

structure Fabric where
  queues : SMap QueueDyn := []
  paths : SMap PathDyn := []
  pend : List PendPkt := []
  /-- Pairs (SOURCE × 1,024 + queue) whose next record sets FLAGS.LOSS (R13, R294). -/
  lossDue : SMap Bool := []
  nextOrder : Nat := 0
  ocpen : Ocpen := {}
  deriving DecidableEq, Repr

/-! ### Host port and outlets (chapter 16) -/

/-- An outlet's open buffer (R418): its address and length, the bytes and packets written, and what its status words need. -/
structure OutBuf where
  addr : Nat
  len : Nat
  bytes : Nat := 0
  pkts : Nat := 0
  ue : Bool := false
  ueOfs : Nat := 0xFFFFFFFF
  loss : Bool := false
  seqFirst : BitVec 16 := 0
  seqLast : BitVec 16 := 0
  /-- LTIME at which the buffer opened (R418). -/
  openAt : Time := 0
  deriving DecidableEq, Repr

structure Outlet where
  head : BitVec 16 := 0
  tail : BitVec 16 := 0
  /-- Descriptors fetched and not yet opened (R422). -/
  descs : List (Nat × Nat) := []
  buf : Option OutBuf := none
  noDesc : Bool := false
  /-- Buffers closed since source 64 + o was last raised (R419). -/
  since : Nat := 0
  bufs : Word := 0
  /-- A closure that fell due while the function could not master (R421). -/
  closeDue : Bool := false
  /-- Packets still to go before the close that a kick asked for (R418). -/
  kick : Nat := 0
  deriving DecidableEq, Repr

/-- What the host sets in configuration space beside the fields of the port (R408): sizes as powers of two of 128 bytes. -/
structure HostCfg where
  maxPayload : Nat := 0
  maxReadRequest : Nat := 2
  ecrcGen : Bool := false
  ecrcCheck : Bool := false
  aspmL1 : Bool := true
  cplTimeout : Nat := 0
  deriving DecidableEq, Repr

structure HostPort where
  perst : Bool := true
  linkUp : Bool := false
  speed : Nat := 0
  lanes : Nat := 0
  l1 : Bool := false
  d3 : Bool := false
  busMaster : Bool := false
  msixEn : Bool := false
  msixMask : Bool := false
  msiEn : Bool := false
  msiMask : Bool := false
  pmeEn : Bool := false
  pmeStatus : Bool := false
  /-- WAKE# asserted for the host port (R398, R415). -/
  wakeN : Bool := false
  /-- The exit from L1 has been started (R398). -/
  l1Exit : Bool := false
  /-- The link went down without a reset: the outlets stop until the reset that follows (R424). -/
  lost : Bool := false
  /-- PM_PME messages that the device has sent (R415). -/
  pmes : Word := 0
  cfg : HostCfg := {}
  /-- What the last configuration read returned (R408). -/
  cfgAns : Word := 0
  aer : Word := 0
  dmaBytes : Word := 0
  outlets : SMap Outlet := []
  /-- Host memory as the outlets have written it. -/
  mem : List Host.Cell := []
  /-- What the last BAR2 read returned, and whether its completion was poisoned (R411). -/
  bar2 : List Byte := []
  poisoned : Bool := false
  deriving DecidableEq, Repr

/-! ### Stove (chapter 10) -/

/-- A task of R261: its kind (1 channel, 2 Weir run, 3 calibration), the channel, the declared power in mW, its share in
each zone in nW, its duration in ns (none: open-ended), and when it was requested and admitted. -/
structure Task where
  kind : Nat
  unit : Nat
  mw : Nat
  zones : List (Nat × Nat)
  dur : Option Nat
  req : Time
  adm : Option Time := none
  /-- Its DEFER record's walk has been (R276). -/
  noted : Bool := false
  /-- The reason of the latest walk in which it did not fit. -/
  reason : Nat := 0
  deriving DecidableEq, Repr

structure Stove where
  /-- Admitted and waiting tasks, in order of request (R267). -/
  tasks : List Task := []
  /-- Recorded committed PEAK: instants of change, newest first (R263). -/
  past : List (Time × Nat) := []
  burst : Option Time := none
  burstEnd : Option Time := none
  temps : List (BitVec 16) := []
  /-- Zones and the package at their admission limit, and those whose hold has fired since (R266). -/
  zLim : List Nat := []
  pLim : Bool := false
  zFired : List Nat := []
  pFired : Bool := false
  planSus : Nat := 0
  planPeak : Nat := 0
  planBurst : Nat := 0
  /-- MEAS_BASE and the running 100 ms average (R264): samples and their sum. -/
  measBase : Nat := 0
  accN : Nat := 0
  accSum : Nat := 0
  /-- A request, release, sample or end calls for a walk (R267). -/
  walkDue : Bool := false
  /-- Channels that wait for their camp's one reference, in order of request (R144). -/
  calQ : List Nat := []
  deriving DecidableEq, Repr

/-! ### Channels (chapter 5) -/

/-- Flap phases of FLAP_STAT (R155). -/
inductive FlapPhase where
  | opened | closing | closed | opening
  deriving DecidableEq, Repr

structure FlapDyn where
  ph : FlapPhase := .opened
  /-- Class of the last operation: 0 none, 1 cold, 2 hot, 3 beyond hot. -/
  cls : Nat := 0
  /-- The opening in progress is a hard open (R130). -/
  hard : Bool := false
  /-- Wear units since manufacture (R131). -/
  wear : Nat := 0
  ron : Nat := 0
  deriving DecidableEq, Repr

/-- What a force ramp ends in (R128, R129, R137, R268): flaps to open, HELD, a flap to add, or a deferral. -/
inductive Ramp where
  | none
  | toOpen (f s : Bool)
  | toHeld
  | toAdd
  | toWait
  deriving DecidableEq, Repr

structure ChanDyn where
  fF : FlapDyn := {}
  fS : FlapDyn := {}
  /-- The amplifier acts in CFG.MODE; otherwise it holds SENSE. -/
  ampOn : Bool := false
  ramp : Ramp := .none
  /-- The channel left RUN before the ramp: its task ends with the ramp, whatever a pitch brings meanwhile (R261). -/
  relDue : Bool := false
  localSense : Bool := false
  ovlV : Bool := false
  ovlI : Bool := false
  /-- Window status bits: V high, V low, I high, I low (R133). -/
  cmp : BitVec 4 := 0
  comply : Bool := false
  /-- The compliance period's entry record has been written (R134). -/
  complyRec : Bool := false
  /-- An aperture is in progress, and its partner has left RUN (R141, R142). -/
  ap : Bool := false
  apLost : Bool := false
  /-- The aperture waits AP_TIME.DELAY: its first half starts at this instant (R141, R142). -/
  apAt : Option Time := none
  /-- The start event of AP_CTL.START = 1 is to come with Stove's admission (R268). -/
  apDue : Bool := false
  /-- Instants of the last hard open and of the last start to close (R130). -/
  hardAt : Option Time := none
  closeAt : Option Time := none
  /-- Held through Stove (HOLD_MASK, R279). -/
  stoveHeld : Bool := false
  /-- Calibration waiting or running: its KIND (R144), 0 when none. -/
  cal : Nat := 0
  calResult : Nat := 0
  calKind : Nat := 0
  calValid : Bool := false
  /-- A passed full calibration since start-up, and its LTIME. -/
  calAt : Option Time := none
  /-- LTIME of the last calibration of any kind and of the last flap test (R489). -/
  quickAt : Option Time := none
  flapAt : Option Time := none
  /-- Causes of FLAP_FAULT and CAL_FAIL that persist (R132, R145). -/
  flapBad : Bool := false
  calBad : Bool := false
  /-- Gain and offset corrections in use, by range (R144). -/
  coef : List (Int × Int) := []
  vword : Word := 0
  iword : Word := 0
  vmean : Word := 0
  imean : Word := 0
  deriving DecidableEq, Repr

/-! ### Reedbed and Floats (chapters 8 and 9) -/

/-- A word or stage output of a stream: an exact value over the fixed denominator of its stage, and the overload mark of
every input in its kernel (R230). -/
structure Smp where
  v : Int
  ovl : Bool
  deriving DecidableEq, Repr

/-- An open stream block (R231); samples newest first. -/
structure Blk where
  t0 : Time
  st : Nat
  range : Nat
  ovl : Bool
  ph0 : Word × Word
  smp : List Word
  deriving DecidableEq, Repr

/-- A phase-grid output that waits for its release (R229); `cut`: grid points after it were skipped, which ends its block
(R231). -/
structure GridOut where
  t : Time
  p : BitVec 48
  y : Word
  ovl : Bool
  cut : Bool := false
  deriving DecidableEq, Repr

/-- A stream's history since its last restart, newest first: rank window, CIC window, FIR window and resampler window
(R222–R225). -/
structure StreamDyn where
  win : List Smp := []
  rk : List Smp := []
  dec : List Smp := []
  mid : List Smp := []
  /-- Words arrive (R220, R230). -/
  recv : Bool := false
  filling : Bool := false
  /-- Instant of the last output, and the last grid point produced (R226, R227). -/
  lastOut : Option Time := none
  lastP : Option (BitVec 48) := none
  blk : Option Blk := none
  waits : List GridOut := []
  deriving DecidableEq, Repr

/-- A camp's Reedbed: the copy of R232 in progress, and the coefficients that differ from the factory image in the applied
and in the staged copy. -/
structure Reed where
  loading : Bool := false
  coefA : SMap (BitVec 20) := []
  coefS : SMap (BitVec 20) := []
  deriving DecidableEq, Repr

/-- An episode of DWELL or INTERMIT (R245, R246). -/
structure Episode where
  t0 : Time
  len : Nat
  d0 : Int
  dmax : Int
  last : Time
  ovl : Bool
  tripped : Bool := false
  recorded : Bool := false
  longSent : Bool := false
  deriving DecidableEq, Repr

/-- The turn of a PATTERN Float (R247): its number, the segments that held a checked output, whether one of its outputs carried
OVL, whether it may still be complete, and the last output's instant and phase. -/
structure PatTurn where
  turn : Nat
  segs : List Nat := []
  ovl : Bool := false
  ok : Bool := true
  last : Time
  pos : BitVec 48
  deriving DecidableEq, Repr

structure FloatDyn where
  /-- The next output is the first after a fresh start (R243). -/
  fresh : Bool := true
  c : Bool := false
  /-- 0 LOW, 1 MID, 2 HIGH (R247). -/
  lvl : Nat := 1
  ep : Option Episode := none
  /-- SLOPE: the last K outputs, newest first. -/
  hist : List Smp := []
  base : Option Int := none
  pat : Option PatTurn := none
  /-- PATTERN: turns that have had a mismatch. -/
  mism : List Nat := []
  /-- COUNT: an entry that FL_COUNT holds carried OVL. -/
  cntOvl : Bool := false
  gate : Bool := false
  openAt : Time := 0
  /-- Gate edges that no output has reached: instant, and opening or closing (R249). -/
  edges : List (Time × Bool) := []
  /-- The opening edge whose duration runs (GMODE 2), and the last opening edge, one that was ignored too (R248, R249). -/
  openEdge : Option Time := none
  lastOpen : Option Time := none
  seq : BitVec 16 := 0
  supp : Nat := 0
  latched : Bool := false
  lastTrip : Option Time := none
  count : Word := 0
  bval : Word := 0
  seg : Nat := 0
  deriving DecidableEq, Repr

/-! ### Timers (chapter 12) -/

structure TimerDyn where
  a : Nat := 0
  count : BitVec 64 := 0
  running : Bool := false
  front : Option (BitVec 64 × Time) := none
  back : Option (BitVec 64 × Time) := none
  /-- Captures lost and overflows since their last records (R325). -/
  lost : Nat := 0
  ovfs : Nat := 0
  /-- A match, an overflow whose outputs act in the next cycle (R319). -/
  outM : Bool := false
  outO : Bool := false
  /-- What the order of R318 needs of the present cycle: RUNNING at its start, a start and a stop in it, COUNT and the accumulator
  before a load in it, and the capture that ends it (LTIME, kind and number). -/
  ran : Bool := false
  started : Bool := false
  stopped : Bool := false
  loaded : Option (BitVec 64 × Nat) := none
  cap : Option (Time × Nat × Nat) := none
  deriving DecidableEq, Repr

/-- A timer input (R322). -/
structure TinDyn where
  level : Bool := false
  stuck : Bool := false
  last : Option Time := none
  deriving DecidableEq, Repr

/-! ### Weir (chapter 7) -/

/-- The configuration that a run captures (R188, R190). -/
structure WeirCfg where
  wcfg : Word
  amp : Word
  avg : Word
  rconn : Word
  rres : Word
  riso : Word
  limits : Word
  settle : Word
  dc : Word
  ref : Word
  recq : Word
  fstore : Word
  pos : Nat
  deriving DecidableEq, Repr

/-- What a run measures: the sums of each participant's chip words over the averaged frames, by chip (R192, R193), the
residues of R198 (sum and number), and the pins that saturated, dropped out or never took part. -/
structure WeirData where
  cfg : WeirCfg
  /-- Participants of step 1 with their RATIO of R_S (R185). -/
  parts : List (Nat × Word)
  drops : List Nat := []
  acc : SMap (List Int) := []
  res : SMap (Int × Nat) := []
  sat : List Nat := []
  stamp : Time := 0
  /-- V values and components from the other devices of the field, by field pin (R210), and the causes of R198 that came with
  each V value: 16 + OVL 1, UNSETTLED 2, EXTSRC 4, NOTMEAS 8 (0: no value has come). -/
  fieldV : SMap Int := []
  fieldC : List (Nat × Nat) := []
  fieldU : SMap Nat := []
  /-- The start of chip 0; the cause and the chip boundary of an abort under way (R191); WREADY has been sent (R474); the
  records of step 7 have been written, but not all committed (R188, R205). -/
  start : Time := 0
  stop : Option (Nat × Time) := none
  told : Bool := false
  sent : Bool := false
  deriving DecidableEq, Repr

/-- A run and its state (R188): RSTATE, frames completed, whether Stove has admitted it, the last completed run. -/
structure Weir where
  rstate : Nat := 0
  run : Option WeirData := none
  frames : Nat := 0
  admitted : Bool := false
  runs : Nat := 0
  last : Option WeirData := none
  /-- Exceptions written in the last run. -/
  excs : Nat := 0
  /-- SL_LOAD of each slice's last frame (R217). -/
  load : SMap Nat := []
  deriving DecidableEq, Repr

/-! ### Efyon cores (chapters 13 and 14) -/

/-- A register write that has issued and that later instructions do not see yet (R363–R365): the register (0–31 d,
32–63 the pointer registers, 64 lc, 65 FLAGS), the bits it writes, and the instruction count from which it is seen. -/
structure PendW where
  reg : Nat
  v : Word
  mask : Word
  due : Nat
  deriving DecidableEq, Repr

/-- The registers of R329 and the unit of instructions in progress: a SKIP that holds (R347), a delay slot with its
target (R348), the prefixes read (R335, R350). -/
structure Core where
  d : SMap Word := []
  x : SMap Word := []
  acc : SMap (BitVec 72) := []
  lc : Word := 0
  flags : BitVec 6 := 0
  ctrl : Word := 0
  pc : Word := 0
  skip : Bool := false
  slot : Option Word := none
  /-- Address of the unit's first prefix; its IMX value; the repetitions left; whether it repeats a restored count. -/
  pre : Option Word := none
  imx : Option (BitVec 16) := none
  rep : Option Nat := none
  again : Option Nat := none
  /-- Instructions counted under R364. -/
  n : Nat := 0
  pend : List PendW := []
  /-- The mark awaited in WAITPH, and the arm cycle (R355). -/
  wait : Option (Nat × Time) := none
  /-- On Efyon-S, the address of the waiting WAITPH with its prefix, its repetitions left, and whether it lies in a delay
  slot (R356). -/
  waitAt : Word := 0
  waitRep : Nat := 0
  waitDs : Bool := false
  /-- On Efyon-L, what keeps a context from being ready (R362): the code of STATUS.WAIT 2 to 4 with its end; a producer's result due
  at a count and the instant when it can be given (R364); and when the last write on its way takes effect (R49). -/
  busy : Option (Nat × Time) := none
  work : Option (Nat × Time) := none
  sent : Option Time := none
  deriving DecidableEq, Repr

/-- What Efyon-S runs in front of the interrupted code (R376–R380). -/
inductive Handler where
  | normal (src : Nat)
  | exc (vector : Nat)
  | fast (i : Nat)
  deriving DecidableEq, Repr

/-- A fast source's bank (R378): d24–d31, a6 and a7 in this order, FLAGS, the return PC and the remaining repetitions. -/
structure Bank where
  regs : SMap Word := []
  flags : BitVec 6 := 0
  retPc : Word := 0
  retRep : Nat := 0
  deriving DecidableEq, Repr

/-- A WAITPH that an interrupt left (R356): its address, mark and arm cycle, whether a firing has ended it, and how many handlers
were in progress where it waited. -/
structure LeftWait where
  pc : Word
  mark : Nat
  arm : Time
  fired : Bool := false
  level : Nat
  deriving DecidableEq, Repr

/-- What a takeover brings back: the core as it was before an entry in progress, and the bytes that its frame wrote over
(R379). -/
structure Undo where
  core : Core
  halted : Bool
  stack : List Handler
  banks : SMap Bank
  waits : List LeftWait
  frame : Option (Nat × List Byte) := none
  deriving DecidableEq, Repr

structure Esc where
  core : Core := {}
  /-- The core runs firmware; it waits in HALT; the debug access holds it stopped (R383). -/
  running : Bool := false
  halted : Bool := false
  monHalt : Bool := false
  /-- Handlers in progress, innermost first. -/
  stack : List Handler := []
  banks : SMap Bank := []
  /-- WAITPHs that an interrupt left, innermost first (R356). -/
  waits : List LeftWait := []
  /-- An entry is in progress: no handler instruction has issued; what a takeover of it brings back (R379). -/
  entering : Bool := false
  undo : Option Undo := none
  /-- A load through the proxy window waits for its answer: the register (as in PendW), the byte within the word, the
  size in bytes, and whether it is signed (R476). -/
  load : Option (Nat × Nat × Nat × Bool) := none
  /-- ns left of the watchdog (R383). -/
  wdog : Nat := 0
  /-- Codewords of L2 with an uncorrectable error, by the Lakebed byte address of their data / 8 (R484). -/
  l2Ue : List Nat := []
  deriving DecidableEq, Repr

/-! ### Campwatch (chapter 18) -/

/-- A sense input: its accepted level, stuck state with the edge that set it and whether it set FAULT.STUCK (R461), changes in the
island second `sec`. -/
structure SnsDyn where
  level : Bool := false
  stuck : Bool := false
  stuckAt : Option (BitVec 48 × Bool) := none
  sec : Nat := 0
  inSec : Nat := 0
  deriving DecidableEq, Repr

/-- A poll entry's recognition state (R452): 0 INSIDE, 1 ABOVE, 2 BELOW, and REF. -/
structure PollDyn where
  fresh : Bool := true
  st : Nat := 0
  ref : Int := 0
  deriving DecidableEq, Repr

/-- A batch entry (R455), with the LTIME pair latched most recently at or before it and the number of cold restarts of
LTIME until that latch (R453). -/
structure BatchEntry where
  a : BitVec 48
  ty : Nat
  src : Nat
  p5 : Word
  p6 : Word
  p7 : Word
  pair : Option (Time × BitVec 48)
  colds : Nat
  deriving DecidableEq, Repr

/-- A poll in progress: its entry, the entry's words and PORT_CFG as it started, and the edge that started it (R450, R451). -/
structure PollXfer where
  entry : Nat
  words : List Word
  start : BitVec 48
  cfg : Word
  deriving DecidableEq, Repr

structure Campwatch where
  /-- The poll table by word (R450), entries due, entries whose EN has risen and that the next edge makes due, the words that the
  writes of this edge have replaced, and the poll in progress. -/
  table : SMap Word := []
  polls : SMap PollDyn := []
  due : List Nat := []
  first : List Nat := []
  olds : SMap Word := []
  cur : Option PollXfer := none
  sns : SMap SnsDyn := []
  batch : List BatchEntry := []
  /-- Sources with an entry discarded since their last drained record (R456). -/
  lossDue : SMap Bool := []
  /-- Writes in flight (R446): offset within the page and word, oldest first. -/
  writes : List (Nat × Word) := []
  /-- WAKE# driven by Campwatch; the causes of this wake; the watch set kept (R457); the island count at the entry to
  CAMPWATCH. -/
  wakeDrv : Bool := false
  wakeCause : Nat := 0
  watch : SMap Word := []
  enter : Option (BitVec 48) := none
  merge : List InputMerge := []
  deriving DecidableEq, Repr

/-! ### Management bus (chapter 17) -/

/-- The register that a transaction fetched last (R433): where its bytes begin among those sent, how many were sent, and under
PEC the bytes on the bus before them all. -/
structure Fetch where
  start : Nat
  len : Nat
  head : Option (List Byte)
  deriving DecidableEq, Repr

structure Mgmt where
  /-- The pointer of R431, and its value at the start of the last transaction (MB_LAST). -/
  ptr : BitVec 16 := 0
  last : BitVec 16 := 0
  xfers : Word := 0
  atnPend : BitVec 6 := 0
  /-- Losses and abandonments in a row, and the backoff that runs: when it began and for how many ns (R439). -/
  inRow : Nat := 0
  backoff : Option (Time × Nat) := none
  /-- A line has been low for 35 ms (R437). -/
  stuck : Bool := false
  /-- A transaction addressed to the device is in progress; an attention request is in steps 1 to 6 of R438. -/
  busy : Bool := false
  atnActive : Bool := false
  /-- DEV SUMMARY.ANY_FAULT and ANY_HELD as last seen (R440). -/
  anyFault : Bool := false
  anyHeld : Bool := false
  /-- Bytes that the device sent in its last transaction, the register it fetched last for them, and its acknowledge of each
  byte it received. -/
  sent : List Byte := []
  fetched : Option Fetch := none
  acks : List Bool := []
  deriving DecidableEq, Repr

/-! ### Vierma (chapter 19) -/

/-- A port: LINK and ROLE of PORT_STAT, and the one-way delay in ps. -/
structure Port where
  link : Nat := 0
  role : Nat := 0
  dly : Nat := 0
  deriving DecidableEq, Repr

/-- A member as the root knows it: address, hops, DEV STATE is RUN, and its SUMMARY flags. -/
structure Member where
  addr : Nat
  hops : Nat
  running : Bool
  summary : Word
  deriving DecidableEq, Repr

/-- A field event in progress (R473): its instant T, the votes at the root, and whether the root has decided for it. -/
structure FieldEv where
  t : Time
  votes : List (Nat × Bool)
  go : Bool
  deriving DecidableEq, Repr

/-- Frames of a Weir field run that the device has put on the link (R209, R210, R474): its WREADY, the root's FSTART or its
abort, a column of V values with the causes of R198, component reports by pin, an exception record for the root. -/
inductive WeirFrame where
  | wready (cfg amp avg : Word) (pos : Nat)
  | start (t : Option Time)
  | values (pos : Nat) (v : List (Int × BitVec 4))
  | components (pos : Nat) (c : List (Nat × Nat))
  | record (items : List Word)
  deriving DecidableEq, Repr

structure Vierma where
  ports : SMap Port := []
  addr : Option Nat := none
  hops : Nat := 0
  up : Option Nat := none
  stby : Option Nat := none
  /-- Joined: LTIME follows the root (R470); its offset in ps, and the signed step of the join in ns. -/
  joined : Bool := false
  timeOk : Bool := false
  terr : Int := 0
  step : Int := 0
  formed : Bool := false
  members : List Member := []
  /-- Members that the root has lost (R478). -/
  lost : List Nat := []
  evs : SMap (Option FieldEv) := []
  /-- FD_VOTE, and the device's answers to the last QUERY of each event: 1 OK, 2 REFUSE, 3 NONE (R473). -/
  vote : Word := 0
  voted : SMap Nat := []
  /-- STATE code of the field page as last seen (R475). -/
  seen : Nat := 0
  /-- WREADYs that the root holds (R474): address, W_CFG, AMP, AVG and position. -/
  wready : List (Nat × Word × Word × Word × Nat) := []
  /-- The Weir field run's first chip S, once FSTART has named it. -/
  fstart : Option Time := none
  /-- What the device has sent in the present Weir field run, oldest first; a record leaves once the root has committed it. -/
  wout : List WeirFrame := []
  /-- Paths with a proxy read that has no answer yet (R476). -/
  proxy : List Nat := []
  /-- The instant of a field reset at the root (R479). -/
  resetAt : Option Time := none
  /-- Phase frames have arrived: LTIME and phase of the latest (R471). -/
  rootPh : Option PhaseFrame := none
  deriving DecidableEq, Repr

/-! ### Health (chapter 20) -/

structure Health where
  /-- The wear counts last saved, by 2 × channel + flap, and LTIME of the save (R487). -/
  saved : SMap Nat := []
  savedAt : Time := 0
  gaps : Nat := 0
  /-- Wear counts at the daily predictions, newest first (R488); flaps already reported; EOL_WORST. -/
  daily : List (SMap Nat) := []
  eol : List Nat := []
  eolWorst : Word := 0xFFFF
  /-- Reference check (R490): running, camps out of limits, WORST. -/
  refRun : Bool := false
  refMask : BitVec 16 := 0
  refWorst : Int := 0
  /-- Completed scrub passes (R500). -/
  scrubBasin : BitVec 16 := 0
  scrubLake : BitVec 16 := 0
  /-- FW_CMD (R491, R492): the operation in progress, FW_STAT.RESULT and PCT, a LOAD has succeeded, its slot. -/
  op : Nat := 0
  /-- The slot and the Lakebed base of the operation in progress. -/
  opImg : Nat := 0
  opBase : Nat := 0
  result : Nat := 0
  pct : Nat := 0
  loaded : Option Nat := none
  /-- Half of the firmware region that runs: 0 or 1. -/
  half : Nat := 0
  /-- Automatic camp resets by camp: their LTIMEs (R494), and the cause of one under way. -/
  restarts : SMap (List Time) := []
  /-- A slot whose image goes to a half of the firmware region with the end of the command (R57, R493). -/
  load : Option (Nat × Nat) := none
  /-- DOWN_MS, DOWN_EVT (R497), and the island count at which the present outages began. -/
  downMs : Nat := 0
  downCore : Nat := 0
  downCamp : Nat := 0
  downAt : Option (BitVec 48) := none
  campDown : SMap (BitVec 48) := []
  deriving DecidableEq, Repr

/-! ### Monitor and JTAG (chapter 21) -/

/-- What the monitor answers to a line (R504). -/
inductive MonAns where
  | ok (l : List Word)
  | err (n : Nat)
  deriving DecidableEq, Repr

/-- Instructions of the TAP (R511). -/
inductive Ir where
  | extest | idcode | sample | highz | debug | bypass
  deriving DecidableEq, Repr

structure Monitor where
  level : Nat := 0
  /-- The challenge in force: level, C, and LTIME of its start (R506). -/
  chal : Option (Nat × Word × Time) := none
  wrong : Nat := 0
  lockout : Bool := false
  baud : Nat := 115200
  /-- BAUD has changed the rate, and no valid line has come since (R505). -/
  baudNew : Bool := false
  ans : Option MonAns := none
  /-- DBG_KEY, and the DEBUG result: DONE, ERR, data (R513). -/
  key : BitVec 64 := 0
  jDone : Bool := false
  jErr : Bool := false
  jData : Word := 0
  ir : Ir := .idcode
  deriving DecidableEq, Repr

/-! ### The whole device -/

/-- Everything but the queue of commands and Lakebed. -/
structure Dev where
  regs : SMap Word := []
  units : SMap UnitDyn := []
  /-- GEN and SLOT_GEN by page or slot address (R93). -/
  gens : SMap Word := []
  /-- STATUS.SETTLING by page or slot address (R90). -/
  settling : SMap Bool := []
  pwr : Pwr := {}
  pitch : SMap PitchCtl := []
  cps : Compass := {}
  ic : IntCtl := {}
  fab : Fabric := {}
  host : HostPort := {}
  stove : Stove := {}
  chans : SMap ChanDyn := []
  /-- Streams by 64 × camp + stream, Reedbeds by camp, Floats by number. -/
  streams : SMap StreamDyn := []
  reeds : SMap Reed := []
  floats : SMap FloatDyn := []
  weir : Weir := {}
  timers : SMap TimerDyn := []
  tins : SMap TinDyn := []
  tinMerge : List InputMerge := []
  ctxs : SMap Core := []
  /-- Contexts' registers at their last stop, as reads in other states than PARKED and FAULT return them (R387). -/
  stops : SMap Core := []
  /-- Contexts with a STEP that a register write asked for (R388). -/
  steps : List Nat := []
  esc : Esc := {}
  cw : Campwatch := {}
  mgmt : Mgmt := {}
  vl : Vierma := {}
  health : Health := {}
  mon : Monitor := {}
  /-- Codewords with an uncorrectable error (R483, R484): in the sequencer memories and the Weir reference banks, by BAR0
  offset / 8, and in Lakebed outside the pool, by byte address / 8. -/
  ue : List Nat := []
  lbUe : List Nat := []
  /-- Units that enter HELD at the end of the command, for a packet that found no credit (R12, R294). -/
  holds : List Un := []
  /-- Units that a pitch took out of HELD while the cause persists: they enter HELD again in the next CK_SYS cycle (R82), those
  marked through Stove (R279). -/
  again : List (Un × Bool) := []
  deriving DecidableEq, Repr

/-! ### The machine -/

/-- The machine: the commands that wait, Lakebed as bytes, and everything else. -/
structure State where
  /-- Commands in order of arrival. -/
  pending : List Instr := []
  /-- Lakebed by byte address, in the canonical form of Machine/Memory.lean. -/
  mem : List Host.Cell := []
  dev : Dev := {}
  deriving DecidableEq, Repr

/-- Reasons for a fault. No meaning of this model ends in one: the spec gives every command an effect. -/
inductive Fault where
  /-- Raised by nothing: kept so that the type has a name for a stop that the spec would call one. Safe. -/
  | none
  deriving DecidableEq, Repr

/-- Reasons for a refusal. -/
inductive Refusal where
  /-- Raised only by an arm of `exec` whose command has no meaning yet. Safe: the run ends there. -/
  | notModelled (mnemonic : String)
  deriving DecidableEq, Repr

/-- The machine right after the island powers on with PORESET# held low (R40, R51): every register at its reset value. -/
def State.reset : State := {}

end Sys2Proof.Machine
end

