-- ==== Sys2Proof/Machine/Ops.lean ====
section
/-! DEFINITION. The named operations over registers, unit states, stamps, interrupt messages, faults and queues that
every family's meanings share. -/

namespace Sys2Proof.Machine

/-! ### Registers -/

/-- The word of a register. -/
def Dev.rd (d : Dev) (a : Nat) : Word := SMap.get (resetOf a) d.regs a

/-- Set the word of a register. -/
def Dev.wr (d : Dev) (a : Nat) (w : Word) : Dev := { d with regs := SMap.put (resetOf a) d.regs a w }

/-- Bits hi:lo of a register. -/
def Dev.rf (d : Dev) (a hi lo : Nat) : Nat := fld (d.rd a) hi lo

/-- One bit of a register. -/
def Dev.rb (d : Dev) (a i : Nat) : Bool := bit (d.rd a) i

/-- Set bits hi:lo of a register. -/
def Dev.wf (d : Dev) (a hi lo v : Nat) : Dev := d.wr a (setFld (d.rd a) hi lo v)

/-- Set or clear a bit of a register. -/
def Dev.wb (d : Dev) (a i : Nat) (b : Bool) : Dev := d.wf a i i b.toNat

/-- Add to a saturating counter in bits hi:lo. -/
def Dev.count (d : Dev) (a hi lo : Nat) (k : Nat := 1) : Dev := d.wr a (addSat (d.rd a) hi lo k)

/-- The LTIME of the present cycle (R18). -/
def Dev.now (d : Dev) : Time := d.pwr.ltime

/-! ### Unit states -/

/-- The unit's record. -/
def Dev.unit (d : Dev) (u : Un) : UnitDyn := SMap.get {} d.units u.addr

def Dev.setUnit (d : Dev) (u : Un) (x : UnitDyn) : Dev := { d with units := SMap.put {} d.units u.addr x }

def UState.code : UState → Nat
  | .off => 0 | .parked => 1 | .ready => 2 | .run => 3 | .held => 4 | .quarantine => 5 | .fault => 6

def UState.ofCode : Nat → UState
  | 1 => .parked | 2 => .ready | 3 => .run | 4 => .held | 5 => .quarantine | 6 => .fault | _ => .off

/-- OFF while a reset or its start-up reaches the unit (R51, R53, R81); PERST# reaches the outlets while it is low. -/
def Dev.isOff (d : Dev) (u : Un) : Bool :=
  d.pwr.devOff || (u != .device && d.pwr.unitsOff) ||
    (match u with
     | .outlet _ => d.host.perst
     | _ => false) ||
    (match u.camp? with
     | some c => d.pwr.campOff.contains c
     | none => false)

/-- QUAR.SELF (R77, R108). -/
def Dev.quarSelf (d : Dev) (u : Un) : Bool := if u.inSlot then d.rb u.addr 31 else d.rb (u.addr + 0x18) 0

/-- QUAR.INHERITED (R108). -/
def Dev.quarInherited (d : Dev) (u : Un) : Bool := u.ancestors.any d.quarSelf

/-- A state-changing fault of the unit itself (R84, R86, R88, R136, R367, R417, R422). -/
def Dev.scFault (d : Dev) (u : Un) : Bool :=
  match u with
  | .device => d.rb 0xC 5
  | .camp _ => d.rb (u.addr + 0xC) 28
  | .chan _ => (d.rd (u.addr + 0xC)) &&& 0x1F0 != 0
  | .ctx _ => (d.rd (u.addr + 0xC)) &&& 0x3C != 0
  | .outlet _ => (d.rd (u.addr + 0x48)) &&& 0xC0000 != 0
  | _ => false

/-- A unit's applied STATE below the device (R81). -/
def Dev.ust (d : Dev) (u : Un) : UState :=
  if d.isOff u then .off
  else if d.quarSelf u || d.quarInherited u then .quarantine
  else if d.scFault u || u.ancestors.any d.scFault then .fault
  else if (d.unit u).held then .held
  else (d.unit u).last

/-- Units with a record of their own: every other unit below the device is at its default. -/
def Dev.knownUnits (d : Dev) : List Un := (SMap.keys d.units).filterMap Un.ofAddr

/-- Some active unit is in RUN (R61, R87); `held` asks for RUN or HELD. -/
def Dev.anyActive (d : Dev) (held : Bool) : Bool :=
  d.knownUnits.any (fun u => u.active && (d.ust u == .run || (held && d.ust u == .held)))

/-- The device's applied STATE (R87). -/
def Dev.devState (d : Dev) : UState :=
  if d.pwr.devOff then .off
  else if d.quarSelf .device then .quarantine
  else if d.scFault .device then .fault
  else if d.anyActive false then .run
  else .ready

/-- Any unit's applied STATE. -/
def Dev.state (d : Dev) (u : Un) : UState := match u with | .device => d.devState | _ => d.ust u

/-- PWR_STATE.STATE (R61, R65): 0 where no path is active. -/
def Dev.pwrCode (d : Dev) : Nat :=
  match d.pwr.st with
  | .starting => 1
  | .standby => 2
  | .ready => if d.anyActive true then 4 else 3
  | .entering => 5
  | .safeOff => 6
  | .startFailed => 7
  | _ => 0

/-- CK_SYS runs and software can reach the pages. -/
def Dev.alive (d : Dev) : Bool :=
  match d.pwr.st with
  | .off | .campwatch | .reset => false
  | _ => true

/-- The staged STATE of a unit (R79, R80, R87). -/
def Dev.stagedState (d : Dev) (u : Un) : UState :=
  match u with
  | .device => d.devState
  | _ => UState.ofCode (d.rf (stagedStateAt u) (stateBits u).1 (stateBits u).2)

def Dev.setStagedState (d : Dev) (u : Un) (x : UState) : Dev :=
  d.wf (stagedStateAt u) (stateBits u).1 (stateBits u).2 x.code

/-- Count a change of GEN (R93). -/
def Dev.gen (d : Dev) (a : Nat) : Dev := { d with gens := SMap.put 0 d.gens a (SMap.get 0 d.gens a + 1) }

/-- GEN moves by at most 1 in a cycle (R93): the counts after a command, from those before it. -/
def gensOnce (old new : SMap Word) : SMap Word :=
  new.map (fun kv =>
    let b := SMap.get 0 old kv.1
    (kv.1, if kv.2 != b && (kv.2 - b).toNat < 2 ^ 31 then b + 1 else kv.2))

/-! ### Phase stamps -/

/-- The PHASE part of a stamp (R21): PH_STATE, PH_SRC, PH_IDX and the 48-bit phase. -/
structure PhStamp where
  st : Nat
  src : Nat
  idx : Bool
  pos : BitVec 48
  deriving DecidableEq, Repr

/-- The signed distance from one 48-bit phase to another, the short way round (R169). -/
def phDiff (p q : BitVec 48) : Int := sext 48 (q - p).toNat

/-- A 48-bit phase moved by a signed number of phase units. -/
def phMove (p : BitVec 48) (i : Int) : BitVec 48 := p + BitVec.ofInt 48 i

/-- A signed number limited in magnitude. -/
def limitAbs (i : Int) (m : Nat) : Int := if i > m then m else if i < -(m : Int) then -(m : Int) else i

/-- Where the phase is `dt` ns after a knot, and its PH_STATE (R164, R165, R167). -/
def Knot.at (k : Knot) (dt : Nat) : BitVec 48 × Nat :=
  let dt := dt + k.since
  match k.mv with
  | .none => (0, 3)
  | .track num den lim =>
    let adv := Int.tdiv (num * dt) den
    (phMove k.pos (match lim with | some m => limitAbs adv m | none => adv), 0)
  | .hold => (k.pos, 1)
  | .extrap num den ns => (phMove k.pos (Int.tdiv (num * (min dt ns : Nat)) den), if dt < ns then 2 else 1)
  | .virtual acc inc => (BitVec.ofNat 48 ((acc + inc * dt) / 2 ^ 16), 0)

/-- The tracked phase at an instant, from its knots, newest first (R165–R167); PH_IDX has a log of its own. -/
def trackIn : List Knot → Time → PhStamp
  | [], _ => ⟨3, 0, false, 0⟩
  | k :: rest, t =>
    if k.t ≤ t then ⟨(k.at (t - k.t).toNat).2, k.src, false, (k.at (t - k.t).toNat).1⟩ else trackIn rest t

/-- What the history says of an instant: the position, where two edges bracket it; else the PH_STATE with which a stall overtook
its entry, and the jumps at or before it that the tracked phase takes only after it (R173, R174). -/
structure HistAt where
  pos : Option (BitVec 48)
  st : Option Nat
  lead : Int
  deriving DecidableEq, Repr

/-- The history at an instant (R173, R174): entries newest first, with the edge after the instant, as a position in the count that
holds before the jumps between them, and the stall that ends the interval. The fraction is truncated toward the position of the
earlier edge. -/
def histIn : Option (Time × BitVec 48) → Option Nat → List HistEnt → Time → HistAt
  | _, st, [], _ => ⟨none, st, 0⟩
  | newer, st, e :: rest, t =>
    if t < e.t then
      match e.kind with
      | .edge _ p _ => histIn (some (e.t, p)) none rest t
      | .shift n _ => histIn (newer.map (fun x => (x.1, phMove x.2 (-n)))) st rest t
      | .cut s => histIn none s rest t
    else
      match e.kind with
      | .edge f p _ =>
        if e.t = t ∧ f = t then ⟨some p, none, 0⟩
        else match newer with
          | some (t2, p2) => ⟨some (phMove p (Int.tdiv (phDiff p p2 * (t - f).toNat) (t2 - f).toNat)), none, 0⟩
          | none => ⟨none, st, 0⟩
      | .shift n c =>
        let r := histIn (newer.map (fun x => (x.1, phMove x.2 (-n)))) st rest t
        { r with pos := r.pos.map (fun p => phMove p n), lead := if t < c then r.lead + n else r.lead }
      | .cut _ => ⟨none, st, 0⟩

/-- An edge enters the history at its ball instant: below the jumps that came after it, and as the start of the interval where its
source was selected, or a stall detected, between that instant and its acceptance. -/
def histEdge (t : Time) (jump : Bool) : BitVec 48 → List HistEnt → List HistEnt
  | p, [] => [⟨t, .edge t p jump⟩]
  | p, e :: rest =>
    if e.t ≤ t then ⟨t, .edge t p jump⟩ :: e :: rest
    else match e.kind with
      | .shift n _ => e :: histEdge t jump (phMove p (-n)) rest
      | .edge f _ j => if f < e.t then ⟨e.t, .edge t p j⟩ :: rest else e :: rest
      | .cut _ => ⟨e.t, .edge t p false⟩ :: e :: rest

/-- A jump by a difference enters the history: what follows it moves with it. -/
def histShift (t : Time) (n : Int) (cycle : Time) : List HistEnt → List HistEnt
  | [] => []
  | e :: rest =>
    if e.t ≤ t then ⟨t, .shift n cycle⟩ :: e :: rest
    else (match e.kind with | .edge f p j => ⟨e.t, .edge f (phMove p n) j⟩ | _ => e) :: histShift t n cycle rest

/-- PH_IDX at an instant (R174). -/
def idxAt : List (Time × Bool) → Time → Bool
  | [], _ => false
  | (t0, b) :: l, t => if t0 ≤ t then b else idxAt l t

/-- The tracked phase at an instant. -/
def Dev.trackAt (d : Dev) (t : Time) : PhStamp := { trackIn d.cps.hist t with idx := idxAt d.cps.idxLog t }

/-- The tracked phase of the present cycle, which marks, timers and releases follow (R169, R229, R314). -/
def Dev.tracked (d : Dev) : PhStamp := d.trackAt d.now

/-- The PHASE of a stamp within the fine history (cases 1 and 2 of R174), and whether an entry of the history gives it. -/
def Dev.phaseFine (d : Dev) (t : Time) : PhStamp × Bool :=
  let k := trackIn d.cps.hist t
  let h := histIn none none d.cps.ents t
  match h.pos, h.st with
  | some p, _ => ({ k with st := 0, pos := p }, true)
  | none, some s => ({ k with st := if k.st = 3 then 3 else s, pos := phMove k.pos h.lead }, true)
  | none, none => ({ k with pos := phMove k.pos h.lead }, false)

/-- The PHASE of a stamp at an instant, by the fine or the coarse history; an entry with a parity error gives none (R173,
R174). -/
def Dev.phaseAt (d : Dev) (t : Time) : PhStamp :=
  let age := (d.now - t).toNat
  let p :=
    if d.now ≤ t ∨ age ≤ 65536000 then
      let p := d.phaseFine t
      if p.2 && d.cps.badFine.contains (t.toNat / 1000) then ⟨3, p.1.src, false, 0⟩ else p.1
    else if 4194304000 < age then ⟨3, 0, false, 0⟩
    else
      let t0 := t - BitVec.ofNat 64 (t.toNat % 64000)
      let p0 := (d.phaseFine t0).1
      let p1 := (d.phaseFine (t0 + 64000)).1
      if p0.st = 3 ∨ p1.st = 3 ∨ d.cps.badCoarse.contains (t.toNat / 64000) ∨ d.cps.badCoarse.contains (t.toNat / 64000 + 1) then
        ⟨3, p0.src, false, 0⟩
      else { p0 with pos := phMove p0.pos (Int.tdiv (phDiff p0.pos p1.pos * (t - t0).toNat) 64000) }
  if p.st = 3 then { p with pos := 0, idx := idxAt d.cps.idxLog t } else { p with idx := idxAt d.cps.idxLog t }

/-- A jump of the phase lies between two instants (R166): the history has it at the instant of its cause. -/
def Dev.jumped (d : Dev) (t0 t1 : Time) : Bool :=
  let within := fun (t : Time) => decide (t0 < t) && decide (t ≤ t1)
  d.cps.hist.any (fun k => !k.cont && within k.t) ||
    d.cps.ents.any (fun e => within e.t && (match e.kind with | .edge _ _ j => j | .shift _ _ => true | .cut _ => false))

/-- Items 3 and 4 of a record (R21). -/
def PhStamp.items (p : PhStamp) : Word × Word :=
  (w32 (p.pos.toNat % 2 ^ 32),
   w32 (p.src * 2 ^ 28 + p.st * 2 ^ 26 + p.idx.toNat * 2 ^ 25 + p.pos.toNat / 2 ^ 32))

/-! ### Interrupt messages -/

/-- Sources 32–63 are level sources, one for each queue group (R390). -/
def isLevel (i : Nat) : Bool := decide (32 ≤ i ∧ i < 64)

def bset {n : Nat} (v : BitVec n) (i : Nat) (b : Bool) : BitVec n :=
  if b then v ||| BitVec.ofNat n (2 ^ i) else v &&& ~~~(BitVec.ofNat n (2 ^ i))

/-- Claimable for the host; for Efyon-S (R392). -/
def IntCtl.claimH (c : IntCtl) : BitVec 1024 := c.pend &&& ~~~c.active &&& c.enH
def IntCtl.claimS (c : IntCtl) : BitVec 1024 := c.pend &&& ~~~c.active &&& c.enS

/-- The sources watched by CW_WATCH (R399). -/
def Dev.watched (d : Dev) : List Nat :=
  (List.range 32).filterMap (fun i => if d.rb (0xC080 + 4 * i) 31 then some (d.rf (0xC080 + 4 * i) 9 0) else none)

/-- The function can send host messages (R412). While PERST# is low it cannot, and what was owed before a reset of the port is not
counted as sent without a TLP (R398; DEDUCED, notes/assumptions/48). -/
def Dev.canSend (d : Dev) : Bool :=
  let h := d.host
  if !h.msixEn && !h.msiEn then !h.d3 && !h.perst && !d.ic.kept
  else !h.d3 && h.linkUp && !h.l1 && h.busMaster &&
    (if h.msixEn then !h.msixMask && !d.rb 0x1600C 0 else !h.msiMask)

/-- PME_Status sets, with PM_PME from D3hot over a link that is up (R415). -/
def HostPort.pme (h : HostPort) : HostPort :=
  if h.pmeEn && !h.pmeStatus then { h with pmeStatus := true, pmes := if h.d3 && h.linkUp then h.pmes + 1 else h.pmes } else h

/-- An owed message wakes a function in D3hot (R398, R399, R415): WAKE#, STATUS.WAKE and PME_Status. -/
def Dev.hostWake (d : Dev) : Dev :=
  { d with ic := { d.ic with wake := true }, host := { d.host.pme with wakeN := true } }

/-- Send the owed host message when nothing prevents it; a watched source's ignores the moderation interval (R397, R399). -/
def Dev.trySend (d : Dev) : Dev :=
  if d.ic.owed && (d.ic.urgent || d.ic.modLeft == 0) then
    if d.canSend then
      { d with
        ic := { d.ic with owed := false, urgent := false, kept := false, msgs := d.ic.msgs + 1, hostirq := true,
                          modLeft := d.rf 0xC064 23 0 * 1000, wake := false }
        host := if d.ic.wake then { d.host with wakeN := false } else d.host }
    else if d.host.d3 then d.hostWake
    else if d.host.l1 then { d with host := { d.host with l1Exit := true } }
    else d
  else d

/-- A change of the controller, with OWED, HOSTIRQ# and the watch set following it (R397–R399). The message leaves at the end
of the cycle, one for all the sources that became claimable in it. -/
def Dev.icUpd (d : Dev) (f : IntCtl → IntCtl) : Dev :=
  let c := f d.ic
  let rise := c.claimH &&& ~~~d.ic.claimH
  let c := if rise != 0 then { c with owed := true, kept := d.host.perst } else c
  let c := if c.claimH = 0 then { c with owed := false, urgent := false, hostirq := false } else c
  if rise != 0 && d.watched.any (fun i => rise.getLsbD i) then
    let d := { d with ic := { c with urgent := true } }
    if d.host.d3 then d.hostWake else d
  else { d with ic := c }

/-- Set a FAULT bit of a page without its event. -/
def Dev.faultBit (d : Dev) (page b : Nat) : Dev := d.wb (page + 0xC) b true

/-- The storm window of the present LTIME: its start (R400). -/
def Dev.stormWindow (d : Dev) : Time := d.now - BitVec.ofNat 64 (d.now.toNat % (d.rf 0xC05C 15 0 * 1000))

/-- The messages that each source has had in the present storm window. -/
def Dev.stormCounts (d : Dev) : SMap Nat := if d.ic.window = d.stormWindow then d.ic.counts else []

/-- An entry to CAMPWATCH that a wake abandons: in ENTERING, and in the cycle of its last step (R64, R461). -/
def Dev.inEntry (d : Dev) : Bool := d.pwr.st == .entering || (d.pwr.st == .safeOff && d.pwr.safeAt == some d.now)

/-- A message of a watched source wakes the device on its way to SAFE_OFF and in it, where it also asserts WAKE# (R64, R399). -/
def Dev.watchWake (d : Dev) (i : Nat) : Dev :=
  if (d.pwr.st == .safeOff || d.pwr.st == .entering) && d.watched.contains i then
    { d with pwr := { d.pwr with wakeReq := true }, cw := { d.cw with wakeDrv := d.cw.wakeDrv || !d.inEntry } }
  else d

/-- A message of a source passes the storm limiter and sets PEND (R391, R393, R400). The rise of a level input counts as one, but
leaves PEND of an ACTIVE source. -/
def Dev.msgRaw (d : Dev) (i : Nat) (rise : Bool := false) : Dev :=
  let c := { d.ic with counts := d.stormCounts, window := d.stormWindow }
  let n := SMap.get 0 c.counts i + 1
  let limit := d.rf 0xC05C 31 16
  if c.stormed.getLsbD i then d.count 0xC060 15 0
  else if i ≠ 30 ∧ limit ≠ 0 ∧ n > limit then
    (({ d with ic := { c with stormed := bset c.stormed i true, counts := SMap.put 0 c.counts i n } } : Dev).count
      0xC060 15 0).faultBit 0xC000 1
  else
    (d.watchWake i).icUpd (fun _ =>
      { c with counts := SMap.put 0 c.counts i n, pend := if rise && c.active.getLsbD i then c.pend else bset c.pend i true })

/-- The source that carries a page's event (R390). -/
def pageSource (page : Nat) : Nat :=
  if page < 0x100000 then
    match page / 0x1000 with
    | 0x0 => 0 | 0x1 => 1 | 0x2 => 16 | 0x3 | 0x4 | 0x5 | 0x6 | 0x7 => 17 | 0x8 | 0x9 => 18 | 0xA | 0xB => 19
    | 0xC | 0xD => 30 | 0xE | 0xF => 29 | 0x10 | 0x11 | 0x12 | 0x13 => 20 | 0x14 => 21 | 0x15 => 22 | 0x18 => 23
    | 0x19 => 24 | 0x1A | 0x1B => 25 | 0x1C => 26 | 0x1D => 27 | _ => 28
  else if page < 0x200000 then
    let c := (page - 0x100000) / 0x10000
    match page / 0x1000 % 16 with
    | 0 => 128 + c | 1 | 2 => 144 + c | 3 => 160 + c | 4 => 176 + c | 5 => 192 + c
    | p => 208 + 10 * c + p - 6
  else 512 + (page - 0x200000) / 0x1000

/-- A message, with the IC page's own storm event (source 30 is never limited, R400). -/
def Dev.msg (d : Dev) (i : Nat) (rise : Bool := false) : Dev :=
  let was := d.rb 0xC00C 1
  let d := d.msgRaw i rise
  if !was && d.rb 0xC00C 1 && d.rb 0xC010 1 then d.msgRaw 30 else d

/-- Record a fault in a page: the bit sets, and its rise raises the page's event if enabled (R91, R92). -/
def Dev.fault (d : Dev) (page b : Nat) : Dev :=
  if d.rb (page + 0xC) b then d
  else
    let d := d.faultBit page b
    if d.rb (page + 0x10) b then d.msg (pageSource page) else d

/-- A change of a unit's STATE without a pitch raises STATE_CHG of its page (R92). -/
def Dev.stateEvent (d : Dev) (page : Nat) : Dev := if d.rb (page + 0x10) 24 then d.msg (pageSource page) else d

/-! ### Queues -/

def Dev.queue (d : Dev) (q : Nat) : QueueDyn := SMap.get {} d.fab.queues q
def Dev.qAddr (q : Nat) : Nat := (Un.queue q).addr
def Dev.qState (d : Dev) (q : Nat) : UState := d.ust (.queue q)
def Dev.qClass (d : Dev) (q : Nat) : Nat := d.rf (Dev.qAddr q + 8) 31 30
def Dev.qOen (d : Dev) (q : Nat) : Bool := d.rb (Dev.qAddr q + 8) 24

/-- Cells of a packet of k items (R282). -/
def cellsOf (k : Nat) : Nat := cdiv (cdiv k 3) 4

def Packet.cells (p : Packet) : Nat := cellsOf p.items.length

def Dev.path (d : Dev) (p : Path) : PathDyn := SMap.get {} d.fab.paths p.num

def Dev.setPath (d : Dev) (p : Path) (x : PathDyn) : Dev :=
  { d with fab := { d.fab with paths := SMap.put {} d.fab.paths p.num x } }

/-- Cells that the paths' open packets hold in a queue. -/
def Dev.openCells (d : Dev) (q : Nat) : Nat :=
  (d.fab.paths.map (fun kv => match kv.2.pkt with
    | some o => if o.q = q then cellsOf o.items.length else 0
    | none => 0)).sum

/-- Cells that a queue holds in its own pool, and in its spill segment. A cell of the READING packet frees once its four
words are read. -/
def Dev.ownCells (d : Dev) (q : Nat) : Nat :=
  (((d.queue q).pkts.filter (fun p => !p.spilled)).map Packet.cells).sum - (d.queue q).rd / 4 + d.openCells q
def Dev.spillCells (d : Dev) (q : Nat) : Nat := (((d.queue q).pkts.filter (·.spilled)).map Packet.cells).sum

/-- Cells held under R291: Q_FILL.CELLS. -/
def Dev.qFill (d : Dev) (q : Nat) : Nat := d.ownCells q + d.spillCells q

/-- A queue keeps its reservation while READY, RUN or QUARANTINE, and while it holds cells (R283). -/
def Dev.reserved (d : Dev) (q : Nat) : Nat :=
  let st := d.qState q
  if st == .ready || st == .run || st == .quarantine || d.qFill q != 0 then d.rf (Dev.qAddr q + 8) 16 0 else 0

/-- Queues that can hold cells or reservations. -/
def Dev.liveQueues (d : Dev) : List Nat :=
  let ks := SMap.keys d.fab.queues ++ d.knownUnits.filterMap (fun u => match u with | .queue q => some q | _ => none) ++
    d.fab.paths.filterMap (fun kv => kv.2.pkt.map (·.q))
  ks.dedup

/-- Cells of a pool (R280); pool 0 is Basin, pool 1 Lakebed. -/
def Dev.poolCells (d : Dev) (pool : Nat) : Nat := if pool = 0 then 131072 else d.rf 0x10040 22 16 * 524288

/-- The floor of a class in a pool (R310): MUST_DELIVER, BEST_EFFORT and STREAM lie in this order. -/
def Dev.floorOf (d : Dev) (pool k : Nat) : Nat :=
  if pool = 0 then d.rf (0x10044 + 4 * (2 - k)) 17 0 else d.rf (0x10050 + 4 * (2 - k)) 25 0

def Dev.qPool (d : Dev) (q : Nat) : Nat := d.rf (Dev.qAddr q + 8) 29 29

/-- Cells of queue q that lie in a pool and are covered by its reservation, and those beyond it. -/
def Dev.inPool (d : Dev) (pool q : Nat) : Nat :=
  (if d.qPool q = pool then d.ownCells q else 0) + (if pool = 1 then d.spillCells q else 0)

/-- Cells of class k in a pool that no reservation covers. -/
def Dev.beyond (d : Dev) (pool k : Nat) : Nat :=
  ((d.liveQueues.filter (fun q => d.qClass q = k)).map (fun q =>
    if d.qPool q = pool then
      (d.ownCells q - d.reserved q) + (if pool = 1 then d.spillCells q else 0)
    else if pool = 1 then d.spillCells q else 0)).sum

/-- Cells of a pool that no reservation and no floor covers (R291). -/
def Dev.sharedCells (d : Dev) (pool : Nat) : Nat :=
  d.poolCells pool - (d.floorOf pool 0 + d.floorOf pool 1 + d.floorOf pool 2) -
    ((d.liveQueues.filter (fun q => d.qPool q = pool)).map d.reserved).sum

/-- Free floor cells of class k, and free shared cells, of a pool. -/
def Dev.freeFor (d : Dev) (pool k : Nat) : Nat :=
  let used := fun j => d.beyond pool j - d.floorOf pool j
  (d.floorOf pool k - d.beyond pool k) + (d.sharedCells pool - (used 0 + used 1 + used 2))

/-- A queue's credit (R291, R292). Its reservation counts the cells of its spill segment as held. -/
def Dev.credit (d : Dev) (q : Nat) : Nat :=
  let pool := d.qPool q
  min (d.rf (Dev.qAddr q + 0xC) 25 0 - d.qFill q)
    ((d.reserved q - d.qFill q) + d.freeFor pool (d.qClass q))

/-- The input of queue group w (R393). -/
def Dev.groupLevel (d : Dev) (w : Nat) : Bool :=
  (List.range 32).any (fun b => d.rb (0xD040 + 4 * w) b && !d.qOen (32 * w + b) && (d.queue (32 * w + b)).pkts != [])

/-- Sample a queue group's input: a rise is a message of its level source, unless it is STORMED (R393, R400). -/
def Dev.sampleGroup (d : Dev) (w : Nat) : Dev :=
  let hi := d.groupLevel w
  if d.ic.stormed.getLsbD (32 + w) then d
  else if hi && !d.ic.level.getLsbD w then
    ({ d with ic := { d.ic with level := bset d.ic.level w true } } : Dev).msg (32 + w) true
  else if hi then d
  else { d with ic := { d.ic with level := bset d.ic.level w false } }

def Dev.setQueue (d : Dev) (q : Nat) (x : QueueDyn) : Dev :=
  (({ d with fab := { d.fab with queues := SMap.put {} d.fab.queues q x } } : Dev)).sampleGroup (q / 32)

/-- Count a loss of n packets of a queue, without a LOSS record (R298, R311). -/
def Dev.loseQuiet (d : Dev) (q : Nat) (removed : Bool) (n : Nat) : Dev :=
  let d := if removed then d.count (Dev.qAddr q + 0x18) 15 0 n else d.count (Dev.qAddr q + 0x18) 31 16 n
  let d := d.count (0x10080 + 4 * (2 - d.qClass q)) 31 0 n
  let d := d.wb (0x11140 + 4 * (q / 32)) (q % 32) true
  let x := d.queue q
  { d with fab := { d.fab with queues := SMap.put {} d.fab.queues q { x with lossTag := true } } }

/-- LTIME of a record. -/
def Packet.stamp (p : Packet) : Nat := (p.items.getD 1 0).toNat + (p.items.getD 2 0).toNat * 2 ^ 32

/-- A record lies behind one of the same SOURCE with a later stamp (R25). Records that Campwatch reconstructs keep the order of the
batch (R456). -/
def Packet.after (p e : Packet) : Bool :=
  (match p.src with | some s => e.src == some s && decide (s / 0x1000 ≠ 0xC) | none => false) &&
    p.items.length == 8 && e.items.length == 8 && decide (p.stamp < e.stamp)

/-- What a packet holds, in the place of another. -/
def Packet.into (p slot : Packet) : Packet := { slot with items := p.items, lastb := p.lastb, ce := p.ce, ue := p.ue, src := p.src }

/-- A packet joins the tail; records of its SOURCE that nobody has read yet stand in order of LTIME, each in a place of that SOURCE
(R25). -/
def joinTail (p : Packet) : List Packet → List Packet
  | [] => [p]
  | e :: rest => if p.after e then p.into e :: joinTail (e.into p) rest else e :: joinTail p rest

/-- Commit a packet at the tail of its queue (R287). -/
def Dev.commit (d : Dev) (q : Nat) (items : List Word) (lastb : Nat) (src : Option Nat := none) (ce : List Nat := []) : Dev :=
  let x := d.queue q
  let p : Packet := { items := items, lastb := lastb, seq := x.nextSeq, order := d.fab.nextOrder, src := src, ce := ce }
  let d := { d with fab := { d.fab with nextOrder := d.fab.nextOrder + 1 } }
  let ps := if x.rd = 0 then joinTail p x.pkts else x.pkts.take 1 ++ joinTail p (x.pkts.drop 1)
  d.setQueue q { x with pkts := ps, nextSeq := x.nextSeq + 1 }

/-- A source's next record to a queue sets FLAGS.LOSS, or no longer does (R13). -/
def Dev.setLossDue (d : Dev) (source q : Nat) (b : Bool) : Dev :=
  { d with fab := { d.fab with lossDue := SMap.put false d.fab.lossDue (source * 1024 + q) b } }

/-- Addresses of the queue fields of a SOURCE (R21): channel, Float, stream (with its channel as SOURCE, R231), the fabric's queues,
timers, Compass, Weir, Stove, Campwatch, a camp, and the device, whose records come from the fabric, the timers and the HEALTH page. -/
def queueFields (source : Nat) : List Nat :=
  let n := source % 0x1000
  if 0x10000 ≤ source then [0x10108C + n / 32 * 0x10000 + (2 * (n % 32) + source / 0x10000 - 1) * 0x10]
  else match source / 0x1000 with
    | 4 => [0x200078 + n * 0x1000, 0x1C040]
    | 5 => [(Un.float n).addr + 8]
    | 6 => [0x1005C]
    | 7 => [0xE064]
    | 9 => [0x3050]
    | 10 => [0xA06C]
    | 11 => [0x8068]
    | 12 => [0x19040]
    | 3 => [0x1C040]
    | _ => [0x1005C, 0xE064, 0x1C040]

/-- The loss notice of a discard, taken while a queue field of the source still names the queue (R294). -/
def Dev.noteLoss (d : Dev) (source q : Nat) : Dev :=
  if (queueFields source).any (fun a => d.rf a 9 0 == q) then d.setLossDue source q true else d

def Dev.isLossDue (d : Dev) (source q : Nat) : Bool := SMap.get false d.fab.lossDue (source * 1024 + q)

/-- A fabric record goes to FAB.REC_Q; without space it is discarded and counted, and no LOSS record is written (R302). Its
source's next record says so (R13). -/
def Dev.fabCommit (d : Dev) (source : Nat) (items : List Word) : Dev :=
  let q := d.rf 0x1005C 9 0
  match d.qState q with
  | .off => d.setLossDue source q true
  | .run =>
    if cellsOf items.length ≤ d.credit q then (d.setLossDue source q false).commit q items 4 (some source)
    else (d.loseQuiet q false 1).setLossDue source q true
  | _ => (d.loseQuiet q false 1).setLossDue source q true

/-- The eight items of a record (R21). -/
def Dev.recItems (d : Dev) (type flags source : Nat) (t : Time) (p5 p6 p7 : Word) : List Word :=
  let ph := (d.phaseAt t).items
  [w32 (type * 2 ^ 24 + flags * 2 ^ 16 + source), lo32 t, hi32 t, ph.1, ph.2, p5, p6, p7]

/-- A record of the fabric itself, stamped with the present cycle (R13, R302). -/
def Dev.fabRec (d : Dev) (type source : Nat) (p5 p6 p7 : Word) : Dev :=
  d.fabCommit source (d.recItems type ((d.isLossDue source (d.rf 0x1005C 9 0)).toNat * 16) source d.now p5 p6 p7)

/-- Count a loss and write or gather its LOSS record (R302). -/
def Dev.lose (d : Dev) (q cause : Nat) (removed : Bool) (n : Nat := 1) : Dev :=
  if n = 0 then d
  else
    let d := d.loseQuiet q removed n
    let x := d.queue q
    let put := fun (d : Dev) (x : QueueDyn) =>
      ({ d with fab := { d.fab with queues := SMap.put {} d.fab.queues q x } } : Dev)
    if x.lossOpen then
      put d { x with lossN := satU 16 (x.lossN + n), lossCause := if x.lossN = 0 then cause else x.lossCause }
    else
      (put d { x with lossOpen := true, lossN := 0 }).fabRec 0x82 (0x6000 + q)
        (w32 (cause * 2 ^ 28 + satU 16 n)) (w32 x.nextSeq.toNat) (w32 (d.qFill q))

/-- A discard of a hardware producer's packet: counted, with the loss notice to its source (R294). -/
def Dev.discardHw (d : Dev) (q source cause : Nat) : Dev :=
  (d.noteLoss source q).lose q cause false

/-- A hardware producer's packet is committed, discarded or kept by the queue's state, credit and class (R283, R287, R294). Another
producer's packet that waits for more cells holds none back that fits; one of the same source does (R25, R292). -/
def Dev.hwCommit (d : Dev) (q : Nat) (items : List Word) (lastb source : Nat) (u : Option Un) : Dev :=
  match d.qState q with
  | .off => d.setLossDue source q true
  | .run =>
    if d.fab.pend.all (fun p => p.q != q || p.src != source) && decide (cellsOf items.length ≤ d.credit q) then
      d.commit q items lastb (some source)
    else if d.qClass q = 2 then
      let d := { d with fab := { d.fab with pend := d.fab.pend ++ [⟨q, items, lastb, source, u⟩] } }
      match u with
      | some x => ({ d with holds := d.holds ++ [x] } : Dev).count 0x10090 31 0 (!(d.ust x == .held || d.holds.contains x)).toNat
      | none => d
    else d.discardHw q source 1
  | .quarantine => d.discardHw q source 4
  | _ => d.discardHw q source 2

/-- A standard record of a unit, with FLAGS.LOSS if its earlier records to this queue were discarded (R13, R21, R24). It is
committed with the command that causes it: where that command carries an earlier instant (the first word of an aperture, the
edge of a capture), it takes a place before the later records of the same SOURCE that still lie unread in the queue (R25); behind
one that has been read already it cannot (DESIGN CHOICE, notes/assumptions/84). -/
def Dev.record (d : Dev) (q : Nat) (u : Option Un) (type flags source : Nat) (t : Time) (p5 p6 p7 : Word) : Dev :=
  (d.setLossDue source q false).hwCommit q
    (d.recItems type (flags + (d.isLossDue source q).toNat * 16) source t p5 p6 p7) 4 source u

end Sys2Proof.Machine
end

