-- ==== Sys2Proof/Machine/Change.lean ====
section
/-! DEFINITION. Changes of applied STATE that the device makes without a pitch: the staged overwrite of R82, GEN, events,
and the return to PARKED from OFF, FAULT and QUARANTINE. -/

namespace Sys2Proof.Machine

/-- The pages that show a unit's STATE and QUAR (R76), or its slot. -/
def unitPages (u : Un) : List Nat :=
  match u with
  | .device => (devicePages.map (· * 0x1000)).filter (fun p => pageUnit p == some .device)
  | .camp _ => [u.addr, u.addr + 0x1000, u.addr + 0x2000, u.addr + 0x5000]
  | _ => [u.addr]

/-- The units below a unit (R81, R95, R360). -/
def descendants : Un → List Un
  | .device => Un.all
  | .camp c => (Un.ofCamp c).tail
  | .chan n => (Un.ofChan n).tail
  | _ => []

/-- The controllers whose scope has a unit or page (R98): 0, and the camp's own. -/
def scopeCtls (camp : Option Nat) : List Nat :=
  match camp with
  | some c => [0, 1 + c]
  | none => [0]

def Dev.ctl (d : Dev) (k : Nat) : PitchCtl := SMap.get {} d.pitch k
def Dev.setCtl (d : Dev) (k : Nat) (c : PitchCtl) : Dev := { d with pitch := SMap.put {} d.pitch k c }

/-- A staged value in scope has changed: PASSED controllers return to IDLE (R99). -/
def Dev.stagedChanged (d : Dev) (camp : Option Nat) : Dev :=
  forEach (scopeCtls camp) (fun k (d : Dev) =>
    if (d.ctl k).ps == .passed then d.setCtl k { d.ctl k with ps := .idle } else d) d

/-- Set LOST for an overwritten staging (R82). -/
def Dev.setLost (d : Dev) (u : Un) : Dev := if u.inSlot then d.wb u.addr 29 true else d.wb (u.addr + 0x808) 2 true

/-- A unit's STATE went from `b` to `a` without a pitch: staged overwrite, GEN and event (R82, R92, R93). At the exit from
OFF, GEN moves to 1 by `Dev.genView`, and a staged STATE that still has its reset value is no staging that could be lost
(R53; DEDUCED, notes/assumptions/91). -/
def Dev.noteChange (d : Dev) (u : Un) (b a : UState) : Dev :=
  if b = a then d
  else
    let d :=
      match u with
      | .device => d
      | _ =>
        let sv := d.stagedState u
        let d := if sv ≠ b ∧ sv ≠ a ∧ ¬(b = .off ∧ sv = .parked) then d.setLost u else d
        if sv = a then d else (d.setStagedState u a).stagedChanged u.camp?
    let d := if b = .off then d else forEach (unitPages u) (fun p (d : Dev) => d.gen p) d
    if u.inSlot then d else forEach (unitPages u) (fun p (d : Dev) => d.stateEvent p) d

/-- States from which a unit returns to PARKED (R81, R82). -/
def UState.resets : UState → Bool
  | .off | .quarantine | .fault => true
  | _ => false

/-- Make a change that may move the STATE of the listed units (ancestors first), and account for each move. -/
def Dev.change (d : Dev) (us : List Un) (f : Dev → Dev) : Dev × List (Un × UState × UState) :=
  let before := us.map (fun u => (u, d.ust u))
  let devBefore := d.devState
  let d := f d
  let r := before.foldl (fun (r : Dev × List (Un × UState × UState)) ub =>
    let (d, out) := r
    let (u, b) := ub
    let a := d.ust u
    if a = b then (d, out)
    else
      let d := if b.resets && !a.resets then d.setUnit u {} else d
      let a := d.ust u
      (d.noteChange u b a, out ++ [(u, b, a)])) (d, [])
  (r.1.noteChange .device devBefore r.1.devState, r.2)

/-- The device holds a unit (R81, R82): only a unit that is PARKED, READY or RUN is moved by it. -/
def Dev.markHeld (d : Dev) (u : Un) : Dev := d.setUnit u { d.unit u with held := true }

end Sys2Proof.Machine
end

