-- ==== Sys2Proof/Machine/FabricOps.lean ====
section
/-! DEFINITION. The queue fabric: path packets, consumer reads, spill, eviction, retries and discards (R280–R302). -/

namespace Sys2Proof.Machine

def fabPage : Nat := 0x10000

/-- Set a bit of Q_STAT 19–16 (R307). -/
def Dev.qErr (d : Dev) (q b : Nat) : Dev := d.wb (Dev.qAddr q + 0x10) b true

/-- Set a queue record without sampling its group (for changes that leave its emptiness alone). -/
def Dev.putQueue (d : Dev) (q : Nat) (x : QueueDyn) : Dev :=
  { d with fab := { d.fab with queues := SMap.put {} d.fab.queues q x } }

/-- Packets discarded after their commit: counted, and their sources noticed (R294, R298). -/
def Dev.removed (d : Dev) (q cause : Nat) (ps : List Packet) : Dev :=
  let d := forEach (ps.filterMap (·.src)) (fun src (d : Dev) => d.noteLoss src q) d
  d.lose q cause true ps.length

/-! ### Path packets (R287, R288, R293, R308) -/

/-- The path's open packet ends without a commit. -/
def Dev.abortOpen (d : Dev) (p : Path) (cause : Option Nat) (portErr : Bool) : Dev :=
  match (d.path p).pkt with
  | none => d
  | some o =>
    let d := d.setPath p { d.path p with pkt := none }
    let d := if portErr then d.qErr o.q 17 else d
    match cause with
    | some c => d.lose o.q c false
    | none => d

/-- Loss of a packet that a path writes to a queue not in RUN, counted with its first item (R283). -/
def Dev.closedQueue (d : Dev) (q : Nat) : Dev :=
  match d.qState q with
  | .off => d
  | .quarantine => d.lose q 4 false
  | _ => d.lose q 2 false

/-- A path writes an item (R287, R288, R293). -/
def Dev.pushItem (d : Dev) (p : Path) (q : Nat) (v : Word) (eop : Bool) : Dev :=
  -- an item for another queue ends the open packet
  let d := match (d.path p).pkt with
    | some o => if o.q = q then d else d.abortOpen p (some 8) true
    | none => d
  let x := d.path p
  -- settings for other queues end with this item; that for this queue goes with the packet it opens (R308)
  let own := x.lastb.filter (fun s => s.1 == q)
  if x.pkt.isNone && d.qState q != .run then
    -- the packet is discarded whole: one loss, at its final item
    let d := d.setPath p { x with lastb := if eop then [] else own }
    if eop then d.closedQueue q else d
  else
    let o : OpenPkt := x.pkt.getD { q := q, items := [], lastb := own.head?.map (·.2) }
    let x := { x with pkt := some o, lastb := [] }
    if 4096 ≤ o.items.length then (d.setPath p x).abortOpen p (some 8) true
    else
      let needs := o.items.length % 12 == 0
      let full := needs && d.credit q == 0
      let o := if full then { o with damaged := true } else { o with items := o.items ++ [v] }
      let d := d.setPath p { x with pkt := some o }
      let d := if full then d.qErr q 16 else d
      if !eop then d
      else if o.damaged then d.abortOpen p (some 3) false
      else (d.setPath p { d.path p with pkt := none }).commit q o.items (o.lastb.getD 4) none o.ce

/-- PCMD.OP = 1 (R288). -/
def Dev.pcmdAbort (d : Dev) (p : Path) (q : Nat) : Dev :=
  match (d.path p).pkt with
  | some o =>
    if o.q = q then d.abortOpen p none false else d
  | none => d

/-- PCMD.OP = 2: the valid bytes of the final item of the path's packet on this queue, the open one or the next (R308). -/
def Dev.pcmdLastb (d : Dev) (p : Path) (q lastb : Nat) : Dev :=
  let x := d.path p
  match x.pkt with
  | some o =>
    if o.q = q then d.setPath p { x with pkt := some { o with lastb := some (lastb + 1) } }
    else d.setPath p { x with lastb := (q, lastb + 1) :: x.lastb.filter (fun s => s.1 != q) }
  | none => d.setPath p { x with lastb := (q, lastb + 1) :: x.lastb.filter (fun s => s.1 != q) }

/-- A queue leaves RUN: every open packet on it is aborted (R283). -/
def Dev.abortQueue (d : Dev) (q : Nat) : Dev :=
  let hit := d.fab.paths.filter (fun kv => match kv.2.pkt with | some o => o.q == q | none => false)
  let d := forEach (hit.map (·.1)) (fun k (d : Dev) =>
    let x := SMap.get {} d.fab.paths k
    { d with fab := { d.fab with paths := SMap.put {} d.fab.paths k { x with pkt := none } } }) d
  d.lose q 2 false hit.length

/-! ### Consumers (R286, R289, R290) -/

/-- The words of a packet. -/
def Packet.words (p : Packet) : Nat := cdiv p.items.length 3

/-- Item i of a packet; absent bytes of the final item read 0. -/
def Packet.item (p : Packet) (i : Nat) : Word :=
  let w := p.items.getD i 0
  if i + 1 = p.items.length ∧ p.lastb < 4 then w &&& BitVec.ofNat 32 (2 ^ (8 * p.lastb) - 1) else w

/-- Valid bytes of word w (R285). -/
def Packet.vbytes (p : Packet) (w : Nat) : Nat :=
  if w + 1 < p.words then 12 else 4 * (p.items.length - 3 * w) - (4 - p.lastb)

/-- The tag of word w (R286). -/
def Packet.tag (p : Packet) (w : Nat) (loss : Bool) : Word :=
  w32 (2 ^ 31 + (decide (w = 0)).toNat * 2 ^ 30 + (decide (w + 1 = p.words)).toNat * 2 ^ 29 +
    (p.ce.contains w).toNat * 2 ^ 28 + (p.ue.contains w).toNat * 2 ^ 27 + (w == 0 && loss).toNat * 2 ^ 26 +
    p.vbytes w * 2 ^ 20 + p.seq.toNat)

/-- The next packet comes to the head, which lies in Basin (R295). -/
def headIn : List Packet → List Packet
  | [] => []
  | p :: ps => { p with spilled := false } :: ps

/-- Take the next word of a queue: items 0 to 2 and the tag, all 0 when it is empty. -/
def Dev.takeWord (d : Dev) (q : Nat) : Dev × Word × Word × Word × Word :=
  let x := d.queue q
  match x.pkts with
  | [] => (d, 0, 0, 0, 0)
  | p :: ps =>
    let w := x.rd
    let out := (p.item (3 * w), p.item (3 * w + 1), p.item (3 * w + 2), p.tag w x.lossTag)
    let last := decide (p.words ≤ w + 1)
    let x := { x with pkts := if last then headIn ps else p :: ps, rd := if last then 0 else w + 1,
                      lossTag := x.lossTag && w != 0 }
    (d.setQueue q x, out)

/-- A path's read of byte +0x0 of a consumer port (R289): item 0, and the whole word for a 16-byte read. An empty queue leaves the
latch as it is. -/
def Dev.portRead (d : Dev) (p : Path) (q : Nat) : Dev × Word :=
  let none_ := (0, 0, 0, 0)
  if d.qOen q then ((d.qErr q 17).setPath p { d.path p with latch := some (q, 0, 0, 0), word := none_ }, 0)
  else if (d.queue q).pkts = [] then (d.setPath p { d.path p with word := none_ }, 0)
  else
    let (d, i0, i1, i2, tag) := d.takeWord q
    (d.setPath p { d.path p with latch := some (q, i1, i2, tag), word := (i0, i1, i2, tag) }, i0)

/-- DROP (R290). -/
def Dev.drop (d : Dev) (q : Nat) : Dev :=
  let x := d.queue q
  if x.rd = 0 then d else d.setQueue q { x with pkts := headIn x.pkts.tail, rd := 0 }

/-- FLUSH of a queue that is not in RUN (R301, R310). -/
def Dev.flush (d : Dev) (q : Nat) : Dev :=
  if d.qState q == .run then d.fault fabPage 31
  else
    let ps := (d.queue q).pkts
    (d.setQueue q { d.queue q with pkts := [], rd := 0 }).removed q 10 ps

/-- QCMD.OP = 2 (R310). -/
def Dev.clearQueue (d : Dev) (q : Nat) : Dev :=
  let a := Dev.qAddr q
  ((d.wr (a + 0x18) 0).wr (a + 0x1C) 0).wf (a + 0x10) 19 16 0

/-! ### Pending packets of hardware producers (R294) -/

/-- The oldest packet that can go, none of a source before an older one of it. -/
def nextPend (fits : PendPkt → Bool) : List Nat → List PendPkt → Option PendPkt
  | _, [] => none
  | held, p :: ps => if fits p && !held.contains p.src then some p else nextPend fits (p.src :: held) ps

/-- Retry the packets that wait for a queue: the oldest that its credit allows goes. -/
def Dev.retry (d : Dev) (q : Nat) : Dev :=
  match nextPend (fun p => d.qState q != .run || decide (cellsOf p.items.length ≤ d.credit q)) []
      (d.fab.pend.filter (fun p => p.q == q)) with
  | none => d
  | some p =>
    let rest := d.fab.pend.erase p
    let d' : Dev := { d with fab := { d.fab with pend := rest } }
    match d.qState q with
    | .off => d'.noteLoss p.src q
    | .run => if cellsOf p.items.length ≤ d.credit q then d'.commit q p.items p.lastb (some p.src) else d
    | .quarantine => d'.discardHw q p.src 4
    | _ => d'.discardHw q p.src 2

/-- Every packet that waits, retried once (R294: in every cycle in which a cell frees). -/
def Dev.retryAll (d : Dev) : Dev := forEach (d.fab.pend.map (·.q)) (fun q (d : Dev) => d.retry q) d

/-- A reset reaches a producer's unit but not the queue (R288): its pending packets are discarded with cause 11. -/
def Dev.dropPend (d : Dev) (us : List Un) : Dev :=
  let hit := d.fab.pend.filter (fun p => match p.un with | some u => us.contains u | none => false)
  let d := { d with fab := { d.fab with pend := d.fab.pend.filter (fun p => !hit.contains p) } }
  forEach hit (fun p (d : Dev) => d.discardHw p.q p.src 11) d

/-! ### Spill and eviction (R295, R296) -/

/-- The packet to evict: from spill segments, STREAM before BEST_EFFORT, oldest commit first. -/
def Dev.evictee (d : Dev) : Option (Nat × Packet) :=
  let cand := fun (k : Nat) => (d.fab.queues.filter (fun kv => d.qClass kv.1 = k)).flatMap (fun kv =>
    (kv.2.pkts.filter (·.spilled)).map (fun p => (kv.1, p)))
  let oldest := fun (l : List (Nat × Packet)) => l.foldl (fun (m : Option (Nat × Packet)) x =>
    match m with
    | some y => if y.2.order ≤ x.2.order then some y else some x
    | none => some x) none
  match oldest (cand 0) with
  | some x => some x
  | none => oldest (cand 1)

def Dev.evict (d : Dev) (q : Nat) (p : Packet) : Dev :=
  let x := d.queue q
  (((d.setQueue q { x with pkts := x.pkts.filter (fun y => y.order != p.order) }).removed q 5 [p]).count 0x1008C 31 0).fault
    fabPage 0

/-- Evict until a class can take k more Lakebed cells; none if it never can. -/
def Dev.makeRoom (k n : Nat) : Nat → Dev → Dev × Bool
  | 0, d => (d, decide (n ≤ d.freeFor 1 k))
  | fuel + 1, d =>
    if n ≤ d.freeFor 1 k then (d, true)
    else match d.evictee with
      | some (q, p) => Dev.makeRoom k n fuel (d.evict q p)
      | none => (d, false)

/-- Whether the spill engine has a move to make (R295). -/
def Dev.spillDue (d : Dev) (q : Nat) : Bool :=
  d.rb (Dev.qAddr q + 8) 28 && d.qPool q == 0 && decide (d.rf (Dev.qAddr q + 8) 16 0 < d.ownCells q)

/-- The oldest packet behind the head and behind the spill segment. -/
def spillPick (ps : List Packet) : Option Packet :=
  ((ps.drop 1).reverse.takeWhile (fun p => !p.spilled)).reverse.head?

/-- One move into the spill segment. -/
def Dev.spillMove (d : Dev) (q : Nat) : Dev :=
  match (if d.spillDue q then spillPick (d.queue q).pkts else none) with
  | none => d
  | some p =>
    let (d, ok) := Dev.makeRoom (d.qClass q) p.cells (d.fab.nextOrder + 1) d
    if !ok then d
    else
      let x := d.queue q
      d.putQueue q { x with pkts := x.pkts.map (fun y => if y.order = p.order then { y with spilled := true } else y) }

/-- One refill from the oldest spilled packet, while the Basin part keeps within RESERVE. -/
def Dev.spillRefill (d : Dev) (q : Nat) : Dev :=
  let x := d.queue q
  match x.pkts.find? (·.spilled) with
  | none => d
  | some p =>
    if d.ownCells q + p.cells ≤ d.rf (Dev.qAddr q + 8) 16 0 then
      d.putQueue q { x with pkts := x.pkts.map (fun y => if y.order = p.order then { y with spilled := false } else y) }
    else d

/-- A link entry broke beyond the first `keep` packets, and the sweep has returned the cells (R300). The record names the pool of the
cell that the entry belongs to: Lakebed for one of the spill segment (R302). -/
def Dev.linkBreak (d : Dev) (q keep : Nat) : Dev :=
  let x := d.queue q
  let gone := x.pkts.drop keep
  let d := d.setQueue q { x with pkts := x.pkts.take keep, rd := if keep = 0 then 0 else x.rd }
  let d := ((d.removed q 7 gone).qErr q 19).fault fabPage 2
  let pool := (d.qPool q == 1 || (match x.pkts[keep - 1]? with | some p => p.spilled | none => false)).toNat
  (d.count 0x1009C 15 0).fabRec 0x83 (0x6000 + q) (w32 (pool * 2 ^ 31 + 2 ^ 30)) (Config.linkCell q) (w32 gone.length)

/-! ### The millisecond of LOSS and OCPEN records (R302) -/

/-- A millisecond ends: gathered losses are recorded, and a quiet queue may record at once again. -/
def Dev.lossTick (d : Dev) : Dev :=
  let d := forEach (SMap.keys d.fab.queues) (fun q (d : Dev) =>
    let x := d.queue q
    if !x.lossOpen then d
    else if x.lossN = 0 then d.putQueue q { x with lossOpen := false }
    else
      (d.putQueue q { x with lossN := 0 }).fabRec 0x82 (0x6000 + q) (w32 (x.lossCause * 2 ^ 28 + x.lossN))
        (w32 x.nextSeq.toNat) (w32 (d.qFill q))) d
  let o := d.fab.ocpen
  if !o.ovrOpen then d
  else if o.ovrN = 0 then { d with fab := { d.fab with ocpen := { o with ovrOpen := false } } }
  else
    ({ d with fab := { d.fab with ocpen := { o with ovrN := 0 } } } : Dev).fabRec 0x84 0x2000 (w32 o.ovrN) (w32 o.fifo.length) 0

end Sys2Proof.Machine
end

