-- ==== Sys2Proof/Machine/StoveOps.lean ====
section
/-! DEFINITION. Stove's accounts, admission conditions and walk (R261–R276, R516). -/

namespace Sys2Proof.Machine

def stovePage : Nat := 0x8000
/-- Zone c's page (R279). -/
def zonePage (c : Nat) : Nat := 0x104000 + c * 0x10000

def Dev.setStove (d : Dev) (x : Stove) : Dev := { d with stove := x }

/-- Limits of R278, in mW, ns and µJ. -/
def Dev.baseDecl (d : Dev) : Nat := (d.rd 0x8044).toNat
def Dev.pkgSus (d : Dev) : Nat := (d.rd 0x8048).toNat
def Dev.pkgPeak (d : Dev) : Nat := (d.rd 0x804C).toNat
def Dev.burstT (d : Dev) : Nat := (d.rd 0x8050).toNat * 1000
def Dev.burstE (d : Dev) : Nat := (d.rd 0x8054).toNat
def Dev.stoveDet (d : Dev) : Bool := d.rb 0x8040 0

/-- A task is short when its duration is finite and at most BURST_T (R262). -/
def Task.short (t : Task) (burstT : Nat) : Bool := match t.dur with | some x => decide (x ≤ burstT) | none => false

/-- A task's declared power in a zone, in nW. -/
def Task.inZone (t : Task) (z : Nat) : Nat := ((t.zones.filter (fun p => p.1 = z)).map (·.2)).sum

/-- Admitted, unreleased tasks. -/
def Dev.admitted (d : Dev) : List Task := d.stove.tasks.filter (fun t => t.adm.isSome)

/-- Committed sums of R263: SUS and PEAK in mW, Z_SUS and Z_PEAK in nW. -/
def susOf (base burstT : Nat) (ts : List Task) : Nat := base + ((ts.filter (fun t => !t.short burstT)).map (·.mw)).sum
def peakOf (base : Nat) (ts : List Task) : Nat := base + (ts.map (·.mw)).sum
def zSusOf (burstT z : Nat) (ts : List Task) : Nat :=
  ((ts.filter (fun t => !t.short burstT)).map (fun t => t.inZone z)).sum
def zPeakOf (z : Nat) (ts : List Task) : Nat := (ts.map (fun t => t.inZone z)).sum

def Dev.sus (d : Dev) : Nat := susOf d.baseDecl d.burstT d.admitted
def Dev.peak (d : Dev) : Nat := peakOf d.baseDecl d.admitted

/-- When an admitted task ends, if it does. -/
def Task.endAt (t : Task) : Option Nat :=
  match t.adm, t.dur with
  | some a, some x => some (a.toNat + x)
  | _, _ => none

/-- Committed PEAK at an instant at or after the present (R263). -/
def peakFrom (base : Nat) (ts : List Task) (x : Nat) : Nat :=
  base + ((ts.filter (fun t => match t.endAt with | some e => decide (x < e) | none => true)).map (·.mw)).sum

/-- The projected course of PEAK: instants of change from the present on, with the value from each. -/
def profile (base now : Nat) (ts : List Task) : List (Nat × Nat) :=
  let ends := ((ts.filterMap Task.endAt).filter (fun e => decide (now < e))).insertionSort (· ≤ ·)
  (now :: ends.dedup).map (fun x => (x, peakFrom base ts x))

/-- The integral of a course over [a, b), optionally only what exceeds a level. -/
def integrate (lvl : Nat) : List (Nat × Nat) → Nat → Nat → Nat
  | [], _, _ => 0
  | [(x, v)], a, b => (b - max x a) * (v - lvl)
  | (x, v) :: (y, w) :: rest, a, b =>
    (min y b - max x a) * (v - lvl) + integrate lvl ((y, w) :: rest) a b

/-- The past of PEAK, oldest first. -/
def Dev.pastPeak (d : Dev) : List (Nat × Nat) := (d.stove.past.map (fun p => (p.1.toNat, p.2))).reverse

/-- The highest reading of the sensors in a list, signed, in 1/16 °C. -/
def Dev.tempMax (d : Dev) (ix : List Nat) : Int :=
  let v := ix.map (fun i => ((d.stove.temps.getD i 0).toInt))
  v.foldl max (v.headD 0)

/-- T_z and T_p of R265. -/
def Dev.tz (d : Dev) (z : Nat) : Int := d.tempMax [2 * z, 2 * z + 1]
def Dev.tp (d : Dev) : Int := d.tempMax [32, 33, 34, 35]
def Dev.zTmax (d : Dev) (z : Nat) : Int := sext 16 (d.rf (zonePage z + 0x48) 15 0)
def Dev.pTmax (d : Dev) : Int := sext 16 (d.rf 0x8060 15 0)

/-- A temperature after a power rise: nW times m°C/W, in 1/16 °C (R265), rounded toward the reading. -/
def heated (t : Int) (nw r : Nat) : Int := t + (nw * r * 16 / (1000 * 1000000000) : Nat)

/-- Exact form of the comparison of R265. -/
def tooHot (t : Int) (nw r : Nat) (limit : Int) : Bool :=
  decide (t * (1000 * 1000000000) + (nw * r * 16 : Nat) > limit * (1000 * 1000000000))

/-- Why a task cannot be admitted beside the admitted tasks, by the REASON codes of R276 in ascending order, each with
the item 7 of its record. `plan` raises SUS and PEAK to those of the last passed plan for a calibration (R270). -/
def Dev.blocks (d : Dev) (t : Task) (plan : Bool) : List (Nat × Word) :=
  let now := d.now.toNat
  -- a raised declaration replaces the channel's earlier one
  let ts := d.admitted.filter (fun x => !(x.kind == t.kind && x.unit == t.unit))
  let cand := { t with adm := some d.now }
  let psus := d.pkgSus
  let susNow := susOf d.baseDecl d.burstT ts
  let peakNow := peakOf d.baseDecl ts
  let sus0 := if plan then max susNow d.stove.planSus else susNow
  let peak0 := if plan then max peakNow d.stove.planPeak else peakNow
  let sus := sus0 + (if t.short d.burstT then 0 else t.mw)
  let peak := peak0 + t.mw
  let all := ts ++ [cand]
  -- a plan's reservation stands in the projection as an open-ended amount
  let extra := peak0 - peakNow
  let prof := (profile d.baseDecl now all).map (fun p => (p.1, p.2 + extra))
  let zs := t.zones.map (·.1)
  let r1 := if sus > psus then [(1, w32 (sus - psus))] else []
  let r2 := if peak > d.pkgPeak then [(2, w32 (peak - d.pkgPeak))] else []
  -- condition 4: every 1 s window that contains the present
  let course := d.pastPeak ++ prof
  let s1 := 1000000000
  let marks := course.map (·.1)
  let starts := (marks ++ marks.map (· - s1) ++ [now, now - s1]).filter (fun x => decide (x ≤ now ∧ now ≤ x + s1))
  let worst := (starts.map (fun a => integrate 0 course a (a + s1))).foldl max 0
  let r3 := if worst > psus * s1 then [(3, w32 (cdiv (worst - psus * s1) s1))] else []
  -- condition 3: the burst
  let isOver := decide (peak > psus)
  let running := decide (peak0 > psus) || (d.stove.burst.isSome)
  let b0 := match d.stove.burst with | some x => x.toNat | none => now
  let bEnd := (prof.find? (fun p => decide (p.2 ≤ psus))).map (·.1)
  let used := integrate psus d.pastPeak b0 now
  let r4 :=
    if !isOver then []
    else match bEnd with
      | none => [(4, Config.shortfall 4 t.mw now)]
      | some e =>
        if e - b0 > d.burstT ∨ used + integrate psus prof now e > d.burstE * 1000000 then
          [(4, Config.shortfall 4 t.mw now)]
        else []
  let r5 :=
    if isOver && !running then
      match d.stove.burstEnd with
      | some e => if now - e.toNat < (d.rd 0x8058).toNat * 1000 then [(5, Config.shortfall 5 t.mw now)] else []
      | none => []
    else []
  let nw := 1000000
  let zOver := fun (lim : Nat → Nat) (v : Nat → Nat) (code : Nat) =>
    (zs.filterMap (fun z => if v z > lim z * nw then some (code, w32 (cdiv (v z - lim z * nw) nw)) else none)).take 1
  let r6 := zOver (fun z => (d.rd (zonePage z + 0x40)).toNat)
    (fun z => zSusOf d.burstT z ts + (if t.short d.burstT then 0 else t.inZone z)) 6
  let r7 := zOver (fun z => (d.rd (zonePage z + 0x44)).toNat) (fun z => zPeakOf z ts + t.inZone z) 7
  let r8 := (zs.filterMap (fun z =>
    let r := (d.rd (zonePage z + 0x4C)).toNat
    if d.stove.zLim.contains z || tooHot (d.tz z) (t.inZone z) r (d.zTmax z) then
      some (8, wInt (heated (d.tz z) (t.inZone z) r)) else none)).take 1
  let rp := (d.rd 0x8064).toNat
  let r9 := if d.stove.pLim || tooHot d.tp (t.mw * nw) rp d.pTmax then [(9, wInt (heated d.tp (t.mw * nw) rp))] else []
  r1 ++ r2 ++ r3 ++ r4 ++ r5 ++ r6 ++ r7 ++ r8 ++ r9

/-- Package conditions end the walk (R267). -/
def reasonOfPackage (r : Nat) : Bool := [1, 2, 3, 4, 5, 9].contains r

/-- What still blocks a planned task in deterministic mode (R271). -/
def reasonInPlan (r : Nat) : Bool := [3, 5, 8, 9].contains r

/-- UNIT_ID and SOURCE of a task's records (R276). -/
def Task.unitId (t : Task) : Nat := if t.kind = 2 then 0xAFFF else 0x4000 + t.unit
def Task.source (t : Task) : Nat := if t.kind = 2 then 0xB010 else 0xB000 + t.unit / 32

/-- A Stove record (R276). -/
def Dev.stoveRec (d : Dev) (type source : Nat) (p5 p6 p7 : Word) : Dev :=
  d.record (d.rf 0x8068 9 0) none type 0 source d.now p5 p6 p7

def Dev.waitUs (d : Dev) (t : Task) : Nat := satU 32 ((d.now - t.req).toNat / 1000)

/-- MISSED, with its count (R276, R278). -/
def Dev.missed (d : Dev) (t : Task) (cause : Nat) : Dev :=
  (d.stoveRec 0x52 t.source (w32 (t.unitId * 2 ^ 16 + cause * 2 ^ 12 + t.reason * 2 ^ 4 + t.kind)) (w32 t.mw)
    (w32 (d.waitUs t))).count 0x80B0 31 16

/-- The first walk in which a task does not fit: DEFERRED counts, and a DEFER record if enabled (R276). -/
def Dev.deferred (d : Dev) (t : Task) (r : Nat) (w : Word) : Dev :=
  let d := d.count 0x80B0 15 0
  if d.rb 0x8040 1 then
    d.stoveRec 0x50 t.source (w32 (t.unitId * 2 ^ 16 + r * 2 ^ 8 + t.kind)) (w32 t.mw) w
  else d

/-- An admission, with its ADMIT record if enabled (R276). -/
def Dev.admitRec (d : Dev) (t : Task) : Dev :=
  if d.rb 0x8040 1 then d.stoveRec 0x51 t.source (w32 (t.unitId * 2 ^ 16 + t.kind)) (w32 t.mw) (w32 (d.waitUs t)) else d

/-- Replace the i-th task. -/
def Dev.setTask (d : Dev) (i : Nat) (t : Task) : Dev :=
  d.setStove { d.stove with tasks := d.stove.tasks.set i t }

/-- One walk of the deferred queue (R267, R271): the tasks admitted, and the channel tasks refused in deterministic
mode. Tasks stand in order of request, and within one cycle channels stand before the Weir run. -/
def walkFrom : Nat → List Nat → Bool → Dev × List Task × List Task → Dev × List Task × List Task
  | 0, _, _, r => r
  | _, [], _, r => r
  | fuel + 1, i :: rest, ended, (d, adm, ref) =>
    match d.stove.tasks[i]? with
    | none => walkFrom fuel rest ended (d, adm, ref)
    | some t =>
      let det := d.stoveDet
      let why := d.blocks t (det && t.kind == 3)
      let why := if det && t.kind != 3 then why.filter (fun p => reasonInPlan p.1) else why
      let refuse := det && t.kind == 1
      let why := if ended && !refuse && !(det && t.kind == 2) then [(10, Config.shortfall 10 t.mw d.now.toNat)] else why
      match why with
      | [] =>
        let t' := { t with adm := some d.now }
        let old := d.stove.tasks.filter (fun x => x.kind == t.kind && x.unit == t.unit && x.adm.isSome)
        let d := if old = [] then d else
          d.setStove { d.stove with tasks := d.stove.tasks.map (fun x => if old.contains x then { x with mw := 0, zones := [], dur := some 0 } else x) }
        walkFrom fuel rest ended (((d.setTask i t').admitRec t), adm ++ [t'], ref)
      | (r, w) :: _ =>
        let t' := { t with noted := true, reason := r }
        let stop := ended || why.any (fun p => reasonOfPackage p.1)
        if refuse then
          walkFrom fuel rest ended (d.setTask i t', adm, ref ++ [t'])
        else
          let d := d.setTask i t'
          let d := if t.noted then d else d.deferred t r w
          walkFrom fuel rest stop (d, adm, ref)

/-- The waiting tasks by index, in the order of R267. -/
def Dev.waiting (d : Dev) : List Nat :=
  (List.range d.stove.tasks.length).filter (fun i => match d.stove.tasks[i]? with
    | some t => t.adm.isNone
    | none => false)

/-- Record the committed PEAK and follow the burst (R263): a burst starts when PEAK rises above PKG_PSUS and ends when it
falls back. -/
def Dev.notePeak (d : Dev) : Dev :=
  let p := d.peak
  let s := d.stove
  let last := (s.past.head?).map (·.2)
  let s := if last = some p then s
    else
      let keep := (d.now.toNat - 1100000000)
      let old := s.past.takeWhile (fun x => decide (x.1.toNat ≥ keep))
      let older := (s.past.drop old.length).take 1
      { s with past := (d.now, p) :: (old ++ older) }
  let s :=
    if p > d.pkgSus then { s with burst := match s.burst with | some b => some b | none => some d.now }
    else if s.burst.isSome then { s with burst := none, burstEnd := some d.now }
    else s
  d.setStove s

/-- A walk, then the record of PEAK. -/
def Dev.walk (d : Dev) : Dev × List Task × List Task :=
  let (d, adm, ref) := walkFrom (d.stove.tasks.length + 1) d.waiting false (d.notePeak, [], [])
  let d := d.setStove { d.stove with
    tasks := d.stove.tasks.filter (fun t => !ref.contains t && !(t.adm.isSome && t.mw == 0)), walkDue := false }
  (d.notePeak, adm, ref)

/-- Request a task's admission (R261): it joins the queue after the tasks of earlier cycles, channels in ascending order
before the Weir run of the same cycle (R267). -/
def Dev.request (d : Dev) (kind unit mw : Nat) (zones : List (Nat × Nat)) (dur : Option Nat) : Dev :=
  let t : Task := { kind := kind, unit := unit, mw := mw, zones := zones, dur := dur, req := d.now }
  let key := fun (x : Task) => if x.kind = 2 then 512 else x.unit
  let before := d.stove.tasks.filter (fun x => x.adm.isSome || x.req != d.now || decide (key x ≤ key t))
  let after := d.stove.tasks.filter (fun x => !(x.adm.isSome || x.req != d.now || decide (key x ≤ key t)))
  d.setStove { d.stove with tasks := before ++ [t] ++ after, walkDue := true }

/-- Release or withdraw the tasks of a kind and unit (R261, R273). -/
def Dev.release (d : Dev) (kind unit : Nat) : Dev :=
  if d.stove.tasks.any (fun t => t.kind == kind && t.unit == unit) then
    (d.setStove { d.stove with
      tasks := d.stove.tasks.filter (fun t => !(t.kind == kind && t.unit == unit)), walkDue := true }).notePeak
  else d

/-- Release only the admitted task of a unit (R261, R268). -/
def Dev.releaseAdm (d : Dev) (kind unit : Nat) : Dev :=
  if (d.admitted).any (fun t => t.kind == kind && t.unit == unit) then
    (d.setStove { d.stove with
      tasks := d.stove.tasks.filter (fun t => !(t.kind == kind && t.unit == unit && t.adm.isSome)),
      walkDue := true }).notePeak
  else d

/-- Withdraw only the waiting request of a unit (R273). -/
def Dev.withdraw (d : Dev) (kind unit : Nat) : Dev :=
  d.setStove { d.stove with
    tasks := d.stove.tasks.filter (fun t => !(t.kind == kind && t.unit == unit && t.adm.isNone)) }

def Dev.taskOf (d : Dev) (kind unit : Nat) (adm : Bool) : Option Task :=
  d.stove.tasks.find? (fun t => t.kind == kind && t.unit == unit && t.adm.isSome == adm)

end Sys2Proof.Machine
end

