-- ==== Sys2Proof/Machine/ChannelOps.lean ====
section
/-! DEFINITION. Channel operations that other families share: declarations, flap sequences, apertures, comparators and
calibrations (R115–R146). -/

namespace Sys2Proof.Machine

def chanPage (n : Nat) : Nat := 0x200000 + n * 0x1000

def Dev.ch (d : Dev) (n : Nat) : ChanDyn := SMap.get {} d.chans n
def Dev.setCh (d : Dev) (n : Nat) (x : ChanDyn) : Dev := { d with chans := SMap.put {} d.chans n x }
def Dev.updCh (d : Dev) (n : Nat) (f : ChanDyn → ChanDyn) : Dev := d.setCh n (f (d.ch n))

/-- Applied CFG fields (R148). -/
def Dev.chMode (d : Dev) (n : Nat) : Nat := d.rf (chanPage n + 0x40) 2 0
def Dev.chFlaps (d : Dev) (n : Nat) : Nat := d.rf (chanPage n + 0x40) 17 16
def Dev.chWire (d : Dev) (n : Nat) : Bool := d.rb (chanPage n + 0x40) 12

/-- Full scale of the current ranges in µA and of the voltage ranges in µV (R116). -/
def iFs (r : Nat) : Nat := if r = 0 then 10 else if r = 1 then 1000 else 50000
def vFs (r : Nat) : Nat := if r = 0 then 1100000 else 11000000

/-- The force power a configuration declares, in mW rounded up (R138, R261): CFG, FORCE and CLAMP words. -/
def declOf (cfg force clamp : Word) : Nat :=
  let fs := iFs (fld cfg 9 8)
  match fld cfg 2 0 with
  | 1 => cdiv (fld clamp 31 16 * fs * 12) (65536 * 1000)
  | 2 => cdiv ((sext 20 (fld force 19 0)).natAbs * fs * 12) (524288 * 1000)
  | _ => 0

def Dev.decl (d : Dev) (n : Nat) : Nat :=
  declOf (d.rd (chanPage n + 0x40)) (d.rd (chanPage n + 0x44)) (d.rd (chanPage n + 0x48))

/-- LEASE of a channel in µs (R279), and its task's duration in ns (R516). -/
def Dev.lease (d : Dev) (n : Nat) : Nat := d.rf (zonePage (n / 32) + 0x50 + 4 * (n % 32)) 23 0
def Dev.leaseDur (d : Dev) (n : Nat) : Option Nat := if d.lease n = 0 then none else some ((d.lease n + 20) * 1000)

/-- Request a channel task with the applied declaration. -/
def Dev.requestChan (d : Dev) (n : Nat) : Dev :=
  d.request 1 n (d.decl n) [(n / 32, d.decl n * 1000000)] (d.leaseDur n)

/-- A channel's record to its REC_Q (R146). -/
def Dev.chanRec (d : Dev) (n type flags : Nat) (t : Time) (p5 p6 p7 : Word) : Dev :=
  d.record (d.rf (chanPage n + 0x78) 9 0) (some (.chan n)) type flags (0x4000 + n) t p5 p6 p7

/-! ### Flaps -/

def ChanDyn.flap (x : ChanDyn) : Flap → FlapDyn
  | .force => x.fF
  | .sense => x.fS

def ChanDyn.setFlap (x : ChanDyn) : Flap → FlapDyn → ChanDyn
  | .force, y => { x with fF := y }
  | .sense, y => { x with fS := y }

/-- CFG.FLAPS selects the flap (R127). -/
def flapSel (sel : Nat) : Flap → Bool
  | .force => sel % 2 == 1
  | .sense => sel / 2 == 1

def FlapDyn.shut (f : FlapDyn) : Bool := f.ph == .closed || f.ph == .closing

/-- The selected flaps are closed and settled (step 3 of R128). -/
def Dev.flapsSettled (d : Dev) (n : Nat) : Bool :=
  [Flap.force, Flap.sense].all (fun f => !flapSel (d.chFlaps n) f || ((d.ch n).flap f).ph == .closed)

/-- A word's limits (R116): a 24-bit value, saturated. -/
def satWord (w : Word) : Word := wInt (satS 24 w.toInt)

/-- The flaps of a channel may close: it is in RUN, no camp reset waits for it (R51), the module is not in the factory mode
(R30), and no hard open has come in this cycle (R130). -/
def Dev.mayClose (d : Dev) (n : Nat) : Bool :=
  d.ust (.chan n) == .run && !d.pwr.campWait.contains (n / 32) && !d.pwr.factory && (d.ch n).hardAt != some d.now

/-- The force amplifier enables in CFG.MODE once the flaps have settled and the task, if there is one, is admitted
(step 4 of R128, R268). -/
def Dev.tryForce (d : Dev) (n : Nat) : Dev :=
  if d.mayClose n && d.flapsSettled n && (d.ch n).ramp == .none && (d.taskOf 1 n false).isNone &&
      (d.ch n).fF.ph != .opening && (d.ch n).fS.ph != .opening then
    d.updCh n (fun x => { x with ampOn := d.chMode n != 0 })
  else d

/-- Steps 2 and 3 of R128: selected flaps that are open start to close. A flap that still opens closes behind its isolation. -/
def Dev.startClose (d : Dev) (n : Nat) : Dev :=
  if d.mayClose n && (d.ch n).ramp == .none && (d.taskOf 1 n false).isNone then
    let hit := fun (f : Flap) => flapSel (d.chFlaps n) f && ((d.ch n).flap f).ph == .opened
    let one := fun (f : Flap) (x : ChanDyn) =>
      if hit f then x.setFlap f { x.flap f with ph := .closing, hard := false } else x
    (d.updCh n (fun x => { one .sense (one .force x) with
      closeAt := if hit .force || hit .sense then some d.now else x.closeAt })).tryForce n
  else d

/-- The ramp in progress is that of a soft open of the flap. -/
def Ramp.opens : Ramp → Flap → Bool
  | .toOpen f _, .force => f
  | .toOpen _ s, .sense => s
  | _, _ => false

/-- A soft open of flaps (R129): the force first ramps to zero current. It joins one that the channel has not finished. -/
def Dev.softOpen (d : Dev) (n : Nat) (f s : Bool) : Dev :=
  let x := d.ch n
  let f := (f || x.ramp.opens .force) && x.fF.shut
  let s := (s || x.ramp.opens .sense) && x.fS.shut
  d.setCh n { x with ramp := if f || s || x.ampOn then .toOpen f s else .none }

/-- A soft open of both flaps of a channel that stops: its task ends with the ramp, or at once where there is none (R261). -/
def Dev.softStop (d : Dev) (n : Nat) : Dev :=
  let d := d.softOpen n true true
  if (d.ch n).ramp == .none then d.release 1 n else d

/-- A hard open of both flaps (R130): the drive is removed at once, and with it the channel's task ends (R261). A flap that
starts to close in the same cycle does not. -/
def Dev.hardOpen (d : Dev) (n : Nat) : Dev :=
  let fresh := (d.ch n).closeAt == some d.now
  let one := fun (f : Flap) (x : ChanDyn) =>
    match (x.flap f).ph with
    | .closed => x.setFlap f { x.flap f with ph := .opening, hard := true }
    | .closing => x.setFlap f { x.flap f with ph := if fresh then .opened else .opening, hard := true }
    | _ => x
  (d.updCh n (fun x => { one .sense (one .force x) with ampOn := false, ramp := .none, relDue := false, hardAt := some d.now })).release 1 n

/-- Hard-open every flap of the device. -/
def Dev.hardOpenAll (d : Dev) : Dev := forEach (SMap.keys d.chans) (fun n (d : Dev) => d.hardOpen n) d

/-- The cycle of a hard open is over: a channel in RUN whose flaps may close again closes them (R130). -/
def Dev.hardOver (d : Dev) : Dev :=
  forEach ((d.chans.filter (fun kv => kv.2.hardAt.isSome && kv.2.hardAt != some d.now)).map (·.1)) (fun n (d : Dev) =>
    (d.updCh n (fun x => { x with hardAt := none })).startClose n) d

/-- Class of a flap operation by its current in nA and voltage in µV (R131): 1 cold, 2 hot, 3 beyond hot. -/
def flapClass (iNa vUv : Nat) : Nat :=
  if iNa ≤ 1000 then 1 else if iNa ≤ 10000000 ∧ vUv ≤ 5000000 then 2 else 3

def wearUnits (cls : Nat) : Nat := if cls = 1 then 1 else if cls = 2 then 10 else 1000

/-- The drive that rules a channel in WEIR mode: a run's captured one, or the applied one (R184). -/
def Dev.weirDriveSel (d : Dev) : Nat :=
  match d.weir.run with
  | some w => fld w.cfg.wcfg 25 24
  | none => d.rf 0xA040 25 24

/-- The current and the voltage range that a channel's words have: in WEIR mode DRIVE's and ±1.1 V, whatever CFG holds (R148,
R184). -/
def Dev.chIr (d : Dev) (n : Nat) : Nat := if d.chMode n = 3 then d.weirDriveSel else d.rf (chanPage n + 0x40) 9 8
def Dev.chVr (d : Dev) (n : Nat) : Nat := if d.chMode n = 3 then 0 else d.rf (chanPage n + 0x40) 4 4

/-- Current and voltage as the channel's words show them, in nA and µV: at most the full scales of the ranges, and whether one of
them saturates (R116, R131). -/
def Dev.seen (d : Dev) (n iNa vUv : Nat) : Nat × Nat × Bool :=
  let i := iFs (d.chIr n) * 1000
  let v := vFs (d.chVr n)
  (min iNa i, min vUv v, decide (i * 8388607 ≤ iNa * 8388608 ∨ v * 8388607 ≤ vUv * 8388608))

/-- The last words of a channel as magnitudes in nA and µV (R131). -/
def Dev.lastWords (d : Dev) (n : Nat) : Nat × Nat :=
  ((d.ch n).iword.toInt.natAbs * iFs (d.chIr n) * 1000 / 8388608, (d.ch n).vword.toInt.natAbs * vFs (d.chVr n) / 8388608)

/-- A flap operation is classed, its wear counted, and a hot one recorded (R131, R146). The record's current is cut down to whole
µA: R146 gives its unit and no rounding (DESIGN CHOICE, notes/assumptions/84). -/
def Dev.flapOp (d : Dev) (n : Nat) (f : Flap) (op iNa vUv : Nat) (ph : FlapPhase) : Dev :=
  let (i, v, ovl) := d.seen n iNa vUv
  let cls := flapClass i v
  let y := (d.ch n).flap f
  let wear := satU 32 (y.wear + wearUnits cls)
  let d := d.updCh n (fun x => x.setFlap f { y with ph := ph, cls := cls, wear := wear })
  if cls = 1 then d
  else
    (d.fault (chanPage n) 0).chanRec n 0x43 (ovl.toNat * 0x20) d.now
      (w32 ((cls - 1) * 8 + op * 2 + (if f = .force then 0 else 1))) (w32 wear) (w32 (i / 1000))

/-- Flaps that a reset of the channel opens: each counts as an operation with the last words (R131). -/
def Dev.resetWear (d : Dev) (n : Nat) : ChanDyn :=
  let x := d.ch n
  let w := d.lastWords n
  let one := fun (f : Flap) (x : ChanDyn) =>
    match (x.flap f).ph with
    | .closed | .closing => x.setFlap f { x.flap f with wear := satU 32 ((x.flap f).wear + wearUnits (flapClass w.1 w.2)) }
    | .opening => x.setFlap f { x.flap f with wear := satU 32 ((x.flap f).wear + wearUnits (flapClass w.1 w.2)) }
    | .opened => x
  one .sense (one .force x)

/-! ### Leaving RUN -/

/-- Channels whose partner is n and whose aperture runs lose it (R142). -/
def Dev.losePartner (d : Dev) (n : Nat) : Dev :=
  forEach (SMap.keys d.chans) (fun m (d : Dev) =>
    if (d.ch m).ap && (d.ch m).apAt.isNone && d.rb (chanPage m + 0x74) 15 && d.rf (chanPage m + 0x74) 8 0 == n then
      d.updCh m (fun x => { x with apLost := true })
    else d) d

/-- A channel out of RUN ramps to SENSE: its task ends with the ramp (R261). -/
def Dev.ramps (d : Dev) (n : Nat) : Dev := d.updCh n (fun x => { x with relDue := x.ramp != .none })

/-- What a channel does when its applied STATE goes from `b` to `a` (R129, R133, R137, R141, R273). No limit acts on a channel out
of RUN, and a recorded compliance period still has its exit record to come (R134). A soft open in progress goes on (R129). -/
def Dev.chanLeave (d : Dev) (n : Nat) (b a : UState) : Dev :=
  let d := if b == .run && a != .run then
      (d.updCh n (fun x => { x with ap := false, apLost := false, apAt := none, apDue := false, cmp := 0, comply := false })
        ).losePartner n
    else d
  if b == .run || b == .held then
    match a with
    | .run => d
    | .held =>
      let d := d.withdraw 1 n
      let x := d.ch n
      -- a flap closes only in RUN (R127)
      let one := fun (f : Flap) (x : ChanDyn) =>
        if (x.flap f).ph == .closing then x.setFlap f { x.flap f with ph := .opening } else x
      let x := one .sense (one .force x)
      if x.ramp.opens .force || x.ramp.opens .sense then (d.setCh n x).ramps n
      else if x.ampOn then (d.setCh n { x with ramp := .toHeld }).ramps n
      else (d.setCh n { x with ramp := .none }).release 1 n
    | .off => d
    | _ => ((d.withdraw 1 n).softStop n).ramps n
  else d

/-! ### Apertures -/

/-- A start event of an averager (R141): the aperture begins with its delay. A HELD channel's event could not run: it counts as
missed (R12, R155). -/
def Dev.apStart (d : Dev) (n : Nat) : Dev :=
  if d.ust (.chan n) == .held || (d.ust (.chan n) == .run && (d.ch n).ap) then d.count (chanPage n + 0x90) 31 16
  else if d.ust (.chan n) == .run then
    let t := d.now + BitVec.ofNat 64 (d.rf (chanPage n + 0x70) 31 16 * 1000)
    d.updCh n (fun x => { x with ap := true, apLost := false, apAt := some t })
  else d

/-- The first half of an aperture starts: its partner must be in RUN, in FV or FI (R142). -/
def Dev.apFirst (d : Dev) (n : Nat) : Dev :=
  let pw := d.rd (chanPage n + 0x74)
  let m := fld pw 8 0
  let ok := d.ust (.chan m) == .run && (d.chMode m == 1 || d.chMode m == 2)
  if bit pw 15 && !ok then (d.updCh n (fun x => { x with ap := false, apAt := none })).fault (chanPage n) 2
  else d.updCh n (fun x => { x with apAt := none })

/-- Channels whose aperture's delay is over. -/
def Dev.apsDue (d : Dev) : List Nat :=
  (d.chans.filter (fun kv => match kv.2.apAt with | some t => decide (t ≤ d.now) | none => false)).map (·.1)

def Dev.apSource (d : Dev) (n : Nat) : Nat := d.rf (chanPage n + 0x68) 1 0

/-- Apertures that start on a phase mark or on a timer's trigger (R141, R171). -/
def Dev.apOn (d : Dev) (start k : Nat) : Dev :=
  forEach (List.range 512) (fun n (d : Dev) =>
    let w := d.rd (chanPage n + 0x68)
    if fld w 1 0 == start && (if start = 2 then fld w 15 8 else fld w 29 25) == k then d.apStart n else d) d

/-- A pitch puts a channel into RUN, where it acts on its configuration: closed flaps that FLAPS does not select open (R127), and
with a declaration it asks Stove first (R139, R268). A ramp that the pitch meets ends in the same way. -/
def Dev.chanStart (d : Dev) (n : Nat) : Dev :=
  let x := d.ch n
  let gone := fun (f : Flap) => (x.flap f).shut && !flapSel (d.chFlaps n) f
  let d := d.setCh n { x with apDue := d.apSource n == 1 }
  let d := if gone .force || gone .sense || x.ramp != .none || x.ampOn then d.softOpen n (gone .force) (gone .sense) else d
  if d.decl n = 0 then
    let due := (d.ch n).apDue
    let d := (d.updCh n (fun x => { x with apDue := false })).startClose n
    if due then d.apStart n else d
  else d.requestChan n

/-- Stove admits a channel's task (R268): step 2 of R128, and the start event of an entry to RUN. -/
def Dev.chanAdmitted (d : Dev) (n : Nat) : Dev :=
  if d.ust (.chan n) != .run then d
  else
    let due := (d.ch n).apDue
    let d := (d.updCh n (fun x => { x with apDue := false, relDue := false })).startClose n
    if due then d.apStart n else d

/-! ### Comparators -/

/-- Threshold of a window (R133): 0 V high, 1 V low, 2 I high, 3 I low. -/
def Dev.cmpThr (d : Dev) (n which : Nat) : Int := sext 24 (d.rf (chanPage n + 0x54 + 4 * which) 23 0)

def Dev.cmpHyst (d : Dev) (n which : Nat) : Int :=
  256 * (if which < 2 then d.rf (chanPage n + 0x64) 23 16 else d.rf (chanPage n + 0x64) 31 24 : Nat)

/-- A calibrated word is stored with its overload status, and window statuses that it ends clear (R116, R133). -/
def Dev.chanWord (d : Dev) (n : Nat) (isV : Bool) (w : Word) : Dev :=
  let w := satWord w
  let v := w.toInt
  let sat := decide (v ≥ 8388607) || decide (v ≤ -8388608)
  let hi := if isV then 0 else 2
  let x := d.ch n
  let c := x.cmp
  let c := if v < d.cmpThr n hi - d.cmpHyst n hi then bset c hi false else c
  let c := if v > d.cmpThr n (hi + 1) + d.cmpHyst n (hi + 1) then bset c (hi + 1) false else c
  d.setCh n (if isV then { x with vword := w, ovlV := sat, cmp := c } else { x with iword := w, ovlI := sat, cmp := c })

/-- A word lies beyond the threshold of a window. -/
def Dev.cmpBeyond (d : Dev) (n which : Nat) (w : Word) : Bool :=
  if which % 2 = 0 then decide (d.cmpThr n which < w.toInt) else decide (w.toInt < d.cmpThr n which)

/-- Windows that a word newly enters while the channel is in RUN (R133). -/
def Dev.cmpEnters (d : Dev) (n : Nat) (isV : Bool) (w : Word) : List Nat :=
  if d.ust (.chan n) != .run then []
  else (if isV then [0, 1] else [2, 3]).filter (fun k => !(d.ch n).cmp.getLsbD k && d.cmpBeyond n k (satWord w))

/-- VACT or IACT (R152). -/
def Dev.cmpAct (d : Dev) (n which : Nat) : Nat :=
  if which < 2 then d.rf (chanPage n + 0x64) 1 0 else d.rf (chanPage n + 0x64) 3 2

/-- A saturated word sets FLAGS.OVL in a record that uses it (R116). -/
def ovlFlag (ws : List Word) : Nat :=
  if ws.any (fun w => decide (8388607 ≤ w.toInt) || decide (w.toInt ≤ -8388608)) then 0x20 else 0

/-! ### Calibration -/

/-- The duration of a calibration in ns (R144). -/
def calDur (kind : Nat) : Nat := if kind = 1 then 8800000 else if kind = 2 then 700000 else 400000

/-- A CAL record (R146). -/
def Dev.calRec (d : Dev) (n failing result kind : Nat) (gain off : Int) : Dev :=
  d.chanRec n 0x44 0 d.now (w32 (failing * 2 ^ 8 + result * 4 + kind)) (wInt gain) (wInt off)

/-- A calibration may run: READY, or FAULT with only FLAP_FAULT or CAL_FAIL (R145). -/
def Dev.calAllowed (d : Dev) (n : Nat) : Bool :=
  match d.ust (.chan n) with
  | .ready => true
  | .fault => (d.rd (chanPage n + 0xC)) &&& 0x70 = 0 && !((Un.chan n).ancestors.any d.scFault)
  | _ => false

/-- Some channel of camp c uses the camp's one reference: its task has been requested (R144). -/
def Dev.refBusy (d : Dev) (c : Nat) : Bool := d.stove.tasks.any (fun t => t.kind == 3 && t.unit / 32 == c)

/-- The calibration of a channel asks Stove for its task (R144, R261). -/
def Dev.calAsk (d : Dev) (n : Nat) : Dev := d.request 3 n 600 [(n / 32, 600000000)] (some (calDur (d.ch n).cal))

/-- A calibration is to be made: it takes the camp's reference if that is free, and otherwise its turn (R144). CAL_STAT.RESULT
reads 1 from here on, also while the calibration only waits (DESIGN CHOICE, notes/assumptions/82). -/
def Dev.calQueue (d : Dev) (n kind : Nat) : Dev :=
  let d := d.updCh n (fun x => { x with cal := kind, calKind := kind, calResult := 1 })
  if d.refBusy (n / 32) then d.setStove { d.stove with calQ := d.stove.calQ ++ [n] } else d.calAsk n

/-- A calibration is over: its task ends, and the camp's reference goes to the next channel that waits for it. -/
def Dev.calFree (d : Dev) (n : Nat) : Dev :=
  let d := d.release 3 n
  let d := d.setStove { d.stove with calQ := d.stove.calQ.erase n }
  if d.refBusy (n / 32) then d
  else match d.stove.calQ.find? (fun m => m / 32 == n / 32) with
    | some m => (d.setStove { d.stove with calQ := d.stove.calQ.erase m }).calAsk m
    | none => d

/-- Start a calibration, refused or ignored as R145 says. -/
def Dev.calStart (d : Dev) (n kind : Nat) : Dev :=
  if kind = 0 ∨ (d.ch n).cal ≠ 0 then d
  else if d.calAllowed n then d.calQueue n kind
  else
    (d.updCh n (fun x => { x with calKind := kind, calResult := 5 })).calRec n 0 5 kind 0 0

/-- A pitch that touches a calibrating channel aborts the calibration (R145). -/
def Dev.calAbort (d : Dev) (n : Nat) : Dev :=
  let k := (d.ch n).cal
  if k = 0 then d
  else
    (((d.updCh n (fun x => { x with cal := 0, calResult := 4 })).calFree n).fault (chanPage n) 1).calRec n 0 4 k 0 0

/-- The element of the largest magnitude. -/
def largest (l : List Int) : Int := l.foldl (fun m x => if x.natAbs > m.natAbs then x else m) 0

/-- The flap test's verdict and records (R131, R132, R146). -/
def Dev.flapTest (d : Dev) (n : Nat) (o : CalOutcome) : Dev :=
  let one := fun (f : Flap) (ron leak : Nat) (d : Dev) =>
    let bad := decide (5000 < ron) || decide (100 < leak)
    let y := (d.ch n).flap f
    let d := d.updCh n (fun x => x.setFlap f { x.flap f with ron := ron })
    d.chanRec n 0x43 0 d.now (w32 ((if bad then 3 else 0) * 8 + 3 * 2 + (if f = .force then 0 else 1))) (w32 y.wear)
      (w32 ron)
  let bad := decide (5000 < o.ronF ∨ 100 < o.leakF ∨ 5000 < o.ronS ∨ 100 < o.leakS)
  let d := one .sense o.ronS o.leakS (one .force o.ronF o.leakF d)
  let d := d.updCh n (fun x => { x with flapBad := bad, flapAt := some d.now })
  if bad then d.fault (chanPage n) 7 else d

/-- A calibration of a kind ends with measured outcomes (R145). A full calibration that fails leaves STATUS.CAL_VALID as it was:
the coefficients of the earlier passed one stay in use where R145 keeps them (DESIGN CHOICE, notes/assumptions/84). The quick
calibration of a camp reset is judged as well. The state changes that FLAP_FAULT and CAL_FAIL bring are the caller's. -/
def Dev.calEnd (d : Dev) (n kind : Nat) (o : CalOutcome) : Dev :=
  let bad := fun (c : Int × Int) => decide (10000 < c.1.natAbs ∨ 10000 < c.2.natAbs)
  let corr := (List.range 5).map (fun i => o.corr.getD i (0, 0))
  let corr := if kind = 2 then corr.map (fun c => (0, c.2)) else corr
  let judged := kind == 1 || kind == 2 && d.pwr.campOff.contains (n / 32)
  let failing : Nat := if judged then ((List.range 5).map (fun i => if bad (corr.getD i (0, 0)) then 2 ^ i else 0)).sum else 0
  let d := if kind = 2 then d else d.flapTest n o
  let flapBad := (d.ch n).flapBad
  let failed := if kind = 3 then flapBad else decide (failing ≠ 0)
  let result := if failed then 3 else 2
  let d := d.updCh n (fun x =>
    let old := fun i => x.coef.getD i (0, 0)
    let coef := (List.range 5).map (fun i =>
      if kind = 3 ∨ (judged ∧ bad (corr.getD i (0, 0))) then old i
      else if kind = 2 then ((old i).1, (corr.getD i (0, 0)).2) else corr.getD i (0, 0))
    { x with
      cal := 0, calResult := result, coef := if coef.all (· == (0, 0)) then [] else coef,
      calBad := if judged then failed else x.calBad,
      calValid := x.calValid || (kind == 1 && !failed),
      calAt := if kind = 1 ∧ !failed then some d.now else x.calAt,
      quickAt := if kind = 3 then x.quickAt else some d.now })
  let d := if judged && failed then d.fault (chanPage n) 8 else d
  let d := if kind = 1 && !failed then
      forRange 3 (fun k (d : Dev) => d.wr (0x103080 + n / 32 * 0x10000 + (32 * k + n % 32) * 4) (o.rs.getD k 0)) d
    else d
  (d.calFree n).calRec n failing result kind
    (if kind = 3 then 0 else largest (corr.map (·.1))) (if kind = 3 then 0 else largest (corr.map (·.2)))

end Sys2Proof.Machine
end

