-- ==== Sys2Proof/Machine/TimerOps.lean ====
section
/-! DEFINITION. Timers: ticks, steps, captures, events and inputs (R313–R327). -/

namespace Sys2Proof.Machine

def Dev.tm (d : Dev) (t : Nat) : TimerDyn := SMap.get {} d.timers t
def Dev.setTm (d : Dev) (t : Nat) (x : TimerDyn) : Dev := { d with timers := SMap.put {} d.timers t x }
def Dev.updTm (d : Dev) (t : Nat) (f : TimerDyn → TimerDyn) : Dev := d.setTm t (f (d.tm t))
def Dev.tin (d : Dev) (n : Nat) : TinDyn := SMap.get {} d.tins n
def Dev.setTin (d : Dev) (n : Nat) (x : TinDyn) : Dev := { d with tins := SMap.put {} d.tins n x }

/-- The timer's slot (R313). -/
def tmAt (t : Nat) : Nat := (Un.timer t).addr

def Dev.tmSrc (d : Dev) (t : Nat) : Nat := d.rf (tmAt t + 8) 3 0
def Dev.tmPre (d : Dev) (t : Nat) : Nat := (d.rd (tmAt t + 0xC)).toNat
/-- A 64-bit register of the slot, low word first. -/
def Dev.tm64 (d : Dev) (t o : Nat) : BitVec 64 := join64 (d.rd (tmAt t + o + 4)) (d.rd (tmAt t + o))
def Dev.tmTop (d : Dev) (t : Nat) : BitVec 64 := d.tm64 t 0x10
def Dev.tmMatch (d : Dev) (t : Nat) : BitVec 64 := d.tm64 t 0x18

/-- The timer's interrupt source (R390). -/
def tmSource (t : Nat) : Nat := if t < 4 then 2 + t else 80 + (t - 4)

/-- A timer's record to TMR.REC_Q (R325). -/
def Dev.tmRec (d : Dev) (type source : Nat) (t : Time) (p5 p6 p7 : Word) : Dev :=
  d.record (d.rf 0xE064 9 0) none type 0 source t p5 p6 p7

/-- A match (R316, R319, R325). -/
def Dev.tmMatched (d : Dev) (t : Nat) : Dev :=
  let c := (d.tm t).count
  let d := ((d.updTm t (fun x => { x with outM := true })).wb (tmAt t + 0x58) 0 true).msg (tmSource t)
  if d.rb (tmAt t + 8) 10 then d.tmRec 0x69 (0x7000 + t) d.now (lo32 c) (hi32 c) 0 else d

/-- An overflow (R316, R319, R325). -/
def Dev.tmOverflowed (d : Dev) (t : Nat) : Dev :=
  let d := ((d.updTm t (fun x => { x with outO := true, ovfs := satU 32 (x.ovfs + 1),
                                          running := if d.rb (tmAt t + 8) 5 then x.started && !x.stopped else x.running
                                          ran := x.ran && !d.rb (tmAt t + 8) 5 })).wb (tmAt t + 0x58) 1 true
    ).msg (tmSource t)
  if d.rb (tmAt t + 8) 11 then
    (d.tmRec 0x6A (0x7000 + t) d.now 0 0 (w32 (d.tm t).ovfs)).updTm t (fun x => { x with ovfs := 0 })
  else d

/-- A step of COUNT (R316). -/
def Dev.tmStep (d : Dev) (t : Nat) : Dev :=
  let c := (d.tm t).count
  let wraps := decide ((d.tmTop t).toNat ≤ c.toNat)
  let c' := if wraps then 0 else c + 1
  let d := d.updTm t (fun x => { x with count := c' })
  let d := if c' = d.tmMatch t then d.tmMatched t else d
  if wraps then d.tmOverflowed t else d

/-- A tick reaches the prescaler (R315). -/
def Dev.tmAdvance (d : Dev) (t : Nat) : Dev :=
  let x := d.tm t
  let a := x.a + 65536
  if d.tmPre t ≤ a then (d.setTm t { x with a := a - d.tmPre t }).tmStep t else d.setTm t { x with a := a }

/-- A tick of the source of a timer that ran at the start of the cycle. It comes before a load of the same cycle, which leaves COUNT at
TM_LOAD (R315, R318). -/
def Dev.tmTick (d : Dev) (t : Nat) : Dev :=
  let x := d.tm t
  if d.ust (.timer t) == .run && x.ran then
    match x.loaded with
    | none => d.tmAdvance t
    | some (c, a) =>
      (({ x with count := c, a := a } |> d.setTm t).tmAdvance t).updTm t (fun y =>
        { y with loaded := some (y.count, y.a), count := x.count, a := x.a })
  else d

/-- Steps still to come before COUNT equals `c`, through the step from TOP to 0 (R316). -/
def stepsTo (count top c : Nat) : Nat :=
  if count < c then c - count else if top < count then 1 + c else top - count + 1 + c

/-- As many ticks pass as bring COUNT to the value `c` with its last step, where no match and no overflow lies on the way (R315, R316);
the accumulator follows. -/
def Dev.tmLeg (d : Dev) (t c : Nat) : Dev :=
  let x := d.tm t
  let k := stepsTo x.count.toNat (d.tmTop t).toNat c
  let p := d.tmPre t
  let ticks := cdiv (k * p - x.a) 65536
  let before := if c = 0 then d.tmTop t else BitVec.ofNat 64 (c - 1)
  let before := if (d.tmTop t).toNat < x.count.toNat && k == 1 then x.count else before
  (d.setTm t { x with a := x.a + ticks * 65536 - k * p, count := before }).tmStep t

/-- COUNT of a running timer reaches the value `c`. A match or an overflow on the way acts as it comes, and one that stops the timer
ends the way (R316). -/
def Dev.tmRunTo (d : Dev) (t c : Nat) : Dev :=
  let top := (d.tmTop t).toNat
  let m := (d.tmMatch t).toNat
  let n := (d.tm t).count.toNat
  let near := if m ≤ top ∧ stepsTo n top m < stepsTo n top 0 then m else 0
  if near = c then d.tmLeg t c
  else
    let d := d.tmLeg t near
    if (d.tm t).running then d.tmLeg t c else d

/-- A capture of COUNT with an LTIME is due at the end of the cycle (R318, R321): kind 0 command, 1 mark, 2 TIN. Several of one cycle
take place once, as the first of them (R319). -/
def Dev.tmCapture (d : Dev) (t : Nat) (lt : Time) (kind num : Nat) : Dev :=
  d.updTm t (fun x => { x with cap := some (x.cap.getD (lt, kind, num)) })

/-- A capture goes to FRONT, then to BACK, then replaces BACK (R321). -/
def TimerDyn.store (x : TimerDyn) (lt : Time) : TimerDyn :=
  let c := (x.count, lt)
  match x.front, x.back with
  | none, _ => { x with front := some c }
  | some _, none => { x with back := some c }
  | some _, some _ => { x with back := some c, lost := satU 16 (x.lost + 1) }

/-- The capture of a cycle takes place, with its record (R321, R325). -/
def Dev.tmTake (d : Dev) (t : Nat) (lt : Time) (kind num : Nat) : Dev :=
  let x := d.tm t
  let d := d.setTm t { x.store lt with cap := none }
  let d := if x.front.isSome && x.back.isSome then (d.count (tmAt t + 0x5C) 31 16).wb (tmAt t + 0x58) 2 true else d
  if d.rb (tmAt t + 8) 12 then
    (d.tmRec 0x68 (0x7000 + t) lt (lo32 x.count) (hi32 x.count)
      (w32 ((d.tm t).lost * 2 ^ 16 + kind * 2 ^ 8 + num))).updTm t (fun x => { x with lost := 0 })
  else d

/-- The end of a cycle: captures take place, and what follows counts as the next one (R318). -/
def Dev.tmClose (d : Dev) : Dev :=
  forEach (SMap.keys d.timers) (fun t (d : Dev) =>
    let d := match (d.tm t).cap with | some (lt, k, n) => d.tmTake t lt k n | none => d
    d.updTm t (fun x => { x with ran := x.running, started := false, stopped := false, loaded := none })) d

/-- FRONT is released and BACK moves into it (R321). -/
def Dev.tmRelease (d : Dev) (t : Nat) : Dev := d.updTm t (fun x => { x with front := x.back, back := none })

/-- Load, start and stop act in this order within a cycle, behind its step and before its capture (R318). -/
def Dev.tmLoad (d : Dev) (t : Nat) : Dev :=
  d.updTm t (fun x => { x with count := d.tm64 t 0x20, a := 0, loaded := some (x.loaded.getD (x.count, x.a)) })
def Dev.tmStart (d : Dev) (t : Nat) : Dev :=
  if d.ust (.timer t) == .run then d.updTm t (fun x => { x with running := !x.stopped, started := true }) else d
def Dev.tmStop (d : Dev) (t : Nat) : Dev := d.updTm t (fun x => { x with running := false, stopped := true })

/-- A selector of R317 names an event. -/
def selIs (w : Word) (hi lo kind num : Nat) : Bool := fld w hi lo == kind * 256 + num

/-- A mark (kind 1) or an input's edge (kind 2) acts on a timer in RUN, in the order of R318. -/
def Dev.tmEvent (d : Dev) (t kind num : Nat) (lt : Time) : Dev :=
  if d.ust (.timer t) != .run then d
  else
    let e0 := d.rd (tmAt t + 0x28)
    let e1 := d.rd (tmAt t + 0x2C)
    let d := if selIs e1 9 0 kind num then d.tmLoad t else d
    let d := if selIs e0 9 0 kind num then d.tmStart t else d
    let d := if selIs e0 25 16 kind num then d.tmStop t else d
    if selIs e1 25 16 kind num then d.tmCapture t lt kind num else d

def Dev.tmEventAll (d : Dev) (kind num : Nat) (lt : Time) : Dev := forRange 32 (fun t (d : Dev) => d.tmEvent t kind num lt) d

/-- A timer enters or leaves RUN (R313). An event's capture of the cycle in which it leaves is ignored (R324). -/
def Dev.tmLeave (d : Dev) (t : Nat) (a : UState) : Dev :=
  d.updTm t (fun x => { x with
    running := a == .run && d.rb (tmAt t + 8) 4
    cap := x.cap.filter (fun c => a == .run || c.2.1 == 0) })

/-- A pitch changed SRC or PRE (R315). -/
def Dev.tmClearA (d : Dev) (t : Nat) : Dev := d.updTm t (fun x => { x with a := 0 })

/-! ### Records merged within a millisecond -/

/-- An event of an input and cause: whether a record is due, with the number of events it merges (R177, R322). -/
def inputMerge (l : List InputMerge) (input cause : Nat) (t : Time) : List InputMerge × Option Nat :=
  let ms := t.toNat / 1000000
  match l.find? (fun m => m.input == input && m.cause == cause) with
  | none => (l ++ [⟨input, cause, ms, 0⟩], some 1)
  | some m =>
    let put := fun (x : InputMerge) => l.map (fun y => if y.input = input ∧ y.cause = cause then x else y)
    if m.ms = ms then (put { m with n := m.n + 1 }, none) else (put { m with ms := ms, n := 0 }, some (m.n + 1))

/-- A TIN's INPUT record (R325). -/
def Dev.tinRec (d : Dev) (n cause : Nat) (t : Time) : Dev :=
  match inputMerge d.tinMerge n cause d.now with
  | (l, some k) => ({ d with tinMerge := l } : Dev).tmRec 0x6B 0x2000 t (w32 (n * 16 + cause)) (w32 k) 0
  | (l, none) => { d with tinMerge := l }

def Dev.tinEn (d : Dev) (n : Nat) : Bool := d.rb (0xE040 + 4 * n) 0

/-- An accepted edge of a TIN has the polarity of TIN_CTL.EDGE. -/
def Dev.tinPol (d : Dev) (n : Nat) (level : Bool) : Bool :=
  match d.rf (0xE040 + 4 * n) 2 1 with
  | 0 => level
  | 1 => !level
  | _ => true

/-- An accepted edge of a TIN at the ball instant `t` (R314, R317, R322). -/
def Dev.tinEdge (d : Dev) (n : Nat) (level : Bool) (t : Time) : Dev :=
  let x := d.tin n
  if x.level == level then d
  else if !d.tinEn n then d.setTin n { x with level := level }
  else
    let fast := match x.last with | some t0 => decide ((t - t0).toNat < 20) | none => false
    let d := d.setTin n { level := level, stuck := false, last := some t }
    let d := if fast then ((d.count (0xE050 + 4 * n) 15 0).fault 0xE000 (4 + n)).tinRec n 1 t else d
    if d.tinPol n level then
      let d := forRange 32 (fun k (d : Dev) => if d.tmSrc k = 4 + n then d.tmTick k else d) d
      d.tmEventAll 2 n t
    else d

/-- TIN_CTL.STUCK ms have passed since the last accepted edge, if there was one (R322). -/
def Dev.tinQuiet (d : Dev) (n : Nat) : Bool :=
  match (d.tin n).last with
  | some t => decide (d.rf (0xE040 + 4 * n) 23 8 * 1000000 ≤ (d.now - t).toNat)
  | none => true

/-- No accepted edge for STUCK ms (R322). -/
def Dev.tinStuck (d : Dev) (n : Nat) : Dev :=
  if d.tinEn n && d.rf (0xE040 + 4 * n) 23 8 != 0 && !(d.tin n).stuck && d.tinQuiet n then
    ((d.setTin n { d.tin n with stuck := true }).fault 0xE000 n).tinRec n 2 d.now
  else d

/-- Multiples of a phase step that a forward move crosses (R314). -/
def multiples (step : Nat) (p q : BitVec 48) : Nat :=
  if step = 0 then 0
  else if p.toNat ≤ q.toNat then q.toNat / step - p.toNat / step
  else (2 ^ 48 - 1) / step - p.toNat / step + q.toNat / step + 1

/-- The phase travelled from p to q in one cycle: phase ticks of the timers with SRC = 3. -/
def Dev.phaseTicks (d : Dev) (p q : BitVec 48) : Dev :=
  if phDiff p q ≤ 0 then d
  else
    forRange 32 (fun t (d : Dev) =>
      if d.tmSrc t = 3 && d.ust (.timer t) == .run && (d.tm t).ran then
        let n := multiples (d.rd (tmAt t + 0x34)).toNat p q
        if n = 0 then d else (d.count (tmAt t + 0x5C) 15 0 (n - 1)).tmTick t
      else d) d

end Sys2Proof.Machine
end

