-- ==== Sys2Proof/Machine/CampOps.lean ====
section
/-! DEFINITION. Campwatch: sense inputs, polls, the batch and its drain, writes in flight, wakes (R444–R463). -/

namespace Sys2Proof.Machine

def cwPage : Nat := 0x19000

def Dev.setCw (d : Dev) (c : Campwatch) : Dev := { d with cw := c }

/-- The module is in CAMPWATCH: only the island has power. -/
def Dev.asleep (d : Dev) : Bool := d.pwr.st == .campwatch || d.pwr.st == .reset

/-! ### The batch (R455) -/

/-- A discarded entry counts, and its source's next record says so (R455, R456). -/
def Dev.cwDiscard (d : Dev) (e : BatchEntry) : Dev :=
  (d.setCw { d.cw with lossDue := SMap.put false d.cw.lossDue e.src true }).count (cwPage + 0x5C) 15 0

/-- The pair of R55 latched most recently at or before an island count, with the cold restarts of LTIME until its latch (R453). -/
def Dev.pairAt (d : Dev) (a : BitVec 48) : Option (Time × BitVec 48) × Nat :=
  match d.pwr.pair with
  | none => (none, 0)
  | some (l, p) =>
    match ((l, p, d.pwr.pairColds) :: d.pwr.pairOld).find? (fun x => decide (x.2.1.toNat ≤ a.toNat)) with
    | some (l, p, c) => (some (l, p), c)
    | none => (none, 0)

/-- The ring is full. -/
def Dev.cwFull (d : Dev) : Bool := decide (2816 ≤ d.cw.batch.length)

/-- An entry joins the ring. A full one discards it, or with BMODE = 1 its oldest. -/
def Dev.cwJoin (d : Dev) (a : BitVec 48) (ty src : Nat) (p5 p6 p7 : Word) : Dev :=
  let e : BatchEntry := ⟨a, ty, src, p5, p6, p7, (d.pairAt a).1, (d.pairAt a).2⟩
  if !d.cwFull then d.setCw { d.cw with batch := d.cw.batch ++ [e] }
  else if d.rb (cwPage + 0x40) 13 then
    match d.cw.batch with
    | old :: rest => (d.setCw { d.cw with batch := rest ++ [e] }).cwDiscard old
    | [] => d
  else d.cwDiscard e

/-- An INPUT event of an island second: the merges it leaves, and the events that a record now due stands for (R448, R459). -/
def Dev.cwMerge (d : Dev) (input cause : Nat) (a : BitVec 48) : Dev × Option Nat :=
  let r := inputMerge d.cw.merge input cause (BitVec.ofNat 64 (a.toNat / 32768 * 1000000))
  (d.setCw { d.cw with merge := r.1 }, r.2)

/-- A discard by the full ring is an INPUT event of its own (cause 5); a record of it that meets the full ring is another. -/
def Dev.cwLost (d : Dev) : Dev :=
  match d.cwMerge 15 5 d.pwr.aonCnt with
  | (d, some k) =>
    let full := d.cwFull
    let d := d.cwJoin d.pwr.aonCnt 0x75 0xFFF (w32 (15 * 16 + 5)) (w32 k) 0
    if full then (d.cwMerge 15 5 d.pwr.aonCnt).1 else d
  | (d, none) => d

/-- Add causes to the WAKE record of the wake in progress. -/
def mergeWake (cause : Nat) : List BatchEntry → List BatchEntry
  | [] => []
  | e :: l => if e.ty = 0x74 ∧ !l.any (fun x => x.ty == 0x74) then { e with p5 := e.p5 ||| w32 (2 ^ cause) } :: l
      else e :: mergeWake cause l

def Dev.addCause (d : Dev) (cause : Nat) : Dev :=
  d.setCw { d.cw with wakeCause := d.cw.wakeCause ||| 2 ^ cause, batch := mergeWake cause d.cw.batch }

/-- A fault of the CW page, and whether it is a wake action: in CAMPWATCH, where EVENT_EN enables it and source 24 stands in the
watch set (R457). Elsewhere its event goes to the controller. -/
def Dev.cwRaise (d : Dev) (b : Nat) : Dev × Bool :=
  if d.asleep then
    (d.faultBit cwPage b, !d.rb (cwPage + 0xC) b && d.rb (cwPage + 0x10) b &&
      d.cw.watch.any (fun kv => bit kv.2 31 && fld kv.2 9 0 == 24))
  else (d.fault cwPage b, false)

/-- The batch now holds WM entries (R455): whether this entry made it so. -/
def Dev.atMark (d : Dev) (full : Bool) : Bool :=
  let wm := d.rf (cwPage + 0x44) 11 0
  wm != 0 && !full && d.cw.batch.length == wm

/-- The WAKE record of a new wake joins the batch (R458). What it brings about, an overflow or the watermark, is a cause of the
same wake. -/
def Dev.wakeRecord (d : Dev) (cause : Nat) : Dev :=
  let ms := match d.cw.enter with
    | some a => if d.pwr.st == PwrState.campwatch then (d.pwr.aonCnt - a).toNat * 1000 / 32768 else 0
    | none => 0
  let full := d.cwFull
  let n := d.cw.batch.length
  let d := (d.setCw { d.cw with wakeDrv := true, wakeCause := 2 ^ cause }).cwJoin d.pwr.aonCnt 0x74 0xFFF
    (w32 (d.rf (cwPage + 0x44) 17 16 * 2 ^ 16 + 2 ^ cause)) (w32 n) (w32 (satU 32 ms))
  if full then
    match d.cwRaise 4 with
    | (d, true) => (d.addCause 5).cwLost
    | (d, false) => d.cwLost
  else if d.atMark full then d.addCause 4 else d

/-- A wake action (R458), by its cause bit in the WAKE record. While WAKE# is low it belongs to the same wake. -/
def Dev.wakeAction (d : Dev) (cause : Nat) : Dev :=
  let add := fun (d : Dev) => if d.cw.wakeDrv then d.addCause cause else d
  let drive := fun (d : Dev) =>
    -- in D3hot or D3cold, PME_Status (R415)
    let h := d.host
    let d := if h.d3 || d.pwr.st == PwrState.campwatch then { d with host := h.pme } else d
    if d.cw.wakeDrv then d.addCause cause else d.wakeRecord cause
  match d.pwr.st with
  | .off | .reset => d
  | .campwatch => drive d
  | .entering => ({ add d with pwr := { d.pwr with wakeReq := true } } : Dev).fault cwPage 8
  | .safeOff =>
    -- in the cycle of its last step the entry is abandoned (R461)
    if d.inEntry then ({ add d with pwr := { d.pwr with wakeReq := true } } : Dev).fault cwPage 8
    else drive { d with pwr := { d.pwr with wakeReq := true } }
  | _ => (add d).fault cwPage 8

/-- A fault of the CW page, with the wake that it may be. -/
def Dev.cwFault (d : Dev) (b : Nat) : Dev :=
  match d.cwRaise b with
  | (d, true) => d.wakeAction 5
  | (d, false) => d

/-- An entry joins the batch, with the overflow's fault and record and the watermark's wake (R455, R459). -/
def Dev.cwPush (d : Dev) (a : BitVec 48) (ty src : Nat) (p5 p6 p7 : Word) : Dev :=
  let full := d.cwFull
  let d := d.cwJoin a ty src p5 p6 p7
  let d := if full then (d.cwFault 4).cwLost else d
  if d.atMark full then d.wakeAction 4 else d

/-- An INPUT record, stamped with the island count of its event, at most one per input and cause per island second (R448, R459). -/
def Dev.cwInput (d : Dev) (input cause src : Nat) (a : BitVec 48 := d.pwr.aonCnt) : Dev :=
  match d.cwMerge input cause a with
  | (d, some k) => d.cwPush a 0x75 src (w32 (input * 16 + cause)) (w32 k) 0
  | (d, none) => d

/-! ### Sense inputs (R447, R448) -/

def snsCfg (n : Nat) : Nat := cwPage + 0x80 + 4 * n

def Dev.sns (d : Dev) (n : Nat) : SnsDyn := SMap.get {} d.cw.sns n
def Dev.setSns (d : Dev) (n : Nat) (x : SnsDyn) : Dev := d.setCw { d.cw with sns := SMap.put {} d.cw.sns n x }

/-- DEB samples from the edge `a` on have been taken (R447). -/
def Dev.debounced (d : Dev) (n : Nat) (a : BitVec 48) : Bool :=
  let k := (d.pwr.aonCnt - a).toNat + 1
  decide (fld (d.rd (snsCfg n)) 31 24 ≤ k ∧ k ≤ 2 ^ 47)

/-- A stuck timeout of this edge does not stand where a change of the level meets it: the flag, the FAULT bit that it set and its
record go (R461). -/
def Dev.unstuck (d : Dev) (n : Nat) : Dev :=
  let x := d.sns n
  match x.stuckAt with
  | some (t, rose) =>
    if t = d.pwr.aonCnt then
      let d := d.setSns n { x with stuck := false, stuckAt := none }
      let d := if rose then d.wb (cwPage + 0xC) 1 false else d
      d.setCw { d.cw with batch := d.cw.batch.filter (fun e => !(e.ty == 0x75 && e.a == t && e.p5 == w32 (n * 16 + 2))) }
    else d
  | none => d

/-- DEB samples of an input's ball agree on a new level (R447): after INV the accepted level changes, stamped with the island
count of the first of them. -/
def Dev.senseChange (d : Dev) (n : Nat) (ball : Bool) (a : BitVec 48) : Dev :=
  let cfg := d.rd (snsCfg n)
  let level := ball != bit cfg 6
  if !bit cfg 7 || (d.sns n).level == level || !d.debounced n a then d
  else
    let d := d.unstuck n
    let x := d.sns n
    let sec := a.toNat / 32768
    let k := if x.sec = sec then x.inSec + 1 else 1
    let d := d.setSns n { x with level := level, stuck := x.stuck && level, sec := sec, inSec := k }
    let changes := (d.rf (cwPage + 0xA0 + 4 * n) 15 0 + 1) % 65536
    let d := d.wf (cwPage + 0xA0 + 4 * n) 15 0 changes
    let rate := fld cfg 23 16
    if rate ≠ 0 ∧ rate < k then
      ((d.count (cwPage + 0xA0 + 4 * n) 31 16).cwFault 0).cwInput n 1 (0x100 + n) a
    else if (level && bit cfg 4) || (!level && bit cfg 5) then
      let d := if bit cfg 2 then
          d.cwPush a 0x70 (0x100 + n) (w32 (level.toNat * 2 ^ 8)) (w32 changes) 0
        else d
      if bit cfg 3 then d.wakeAction 1 else d
    else d

/-- The accepted level has been active for STUCK seconds. -/
def Dev.senseStuck (d : Dev) (n : Nat) : Dev :=
  let cfg := d.rd (snsCfg n)
  let x := d.sns n
  if bit cfg 7 && fld cfg 15 8 != 0 && x.level && !x.stuck then
    ((d.setSns n { x with stuck := true, stuckAt := some (d.pwr.aonCnt, !d.rb (cwPage + 0xC) 1) }).cwFault 1).cwInput n 2 (0x100 + n)
  else d

/-! ### Polls (R449–R452) -/

def Dev.poll (d : Dev) (e : Nat) : PollDyn := SMap.get {} d.cw.polls e
def Dev.setPoll (d : Dev) (e : Nat) (x : PollDyn) : Dev := d.setCw { d.cw with polls := SMap.put {} d.cw.polls e x }
def Dev.tblWord (d : Dev) (i : Nat) : Word := SMap.get 0 d.cw.table i

/-- A table word as a poll of this edge takes it: a write of the same edge acts after it (R461). -/
def Dev.pollWord (d : Dev) (i : Nat) : Word := (SMap.find? d.cw.olds i).getD (d.tblWord i)

def Dev.entryWords (d : Dev) (e : Nat) : List Word := (List.range 8).map (fun w => d.pollWord (8 * e + w))

/-- The poll engine takes the lowest entry that waits. -/
def Dev.pollNext (d : Dev) : Dev :=
  match d.cw.cur, d.cw.due with
  | none, e :: rest =>
    d.setCw { d.cw with cur := some ⟨e, d.entryWords e, d.pwr.aonCnt, d.rd (cwPage + 0xC0 + 4 * (e / 64))⟩, due := rest }
  | _, _ => d

/-- The entry polls: EN, and the port's. The pins of a port with PORT_CFG.EN = 0 rest, so its entries do not poll (R449; DEDUCED,
notes/assumptions/98). -/
def Dev.polls? (d : Dev) (e : Nat) : Bool := bit (d.pollWord (8 * e)) 31 && d.rb (cwPage + 0xC0 + 4 * (e / 64)) 31

/-- An entry falls due (R451). -/
def Dev.pollArm (d : Dev) (e : Nat) : Dev :=
  if !d.polls? e then d
  else if d.cw.due.contains e then
    ((d.count (cwPage + 0xD0 + 4 * (e / 64)) 31 16).cwFault 2).cwInput (8 + e / 64) 4 0xFFF
  else (d.setCw { d.cw with due := (e :: d.cw.due).insertionSort (· ≤ ·) }).pollNext

/-- An edge of CK_AON: the entries whose EN rose at the one before are due, all at once, and the writes of that one have acted
(R450, R451). -/
def Dev.cwEdge (d : Dev) : Dev :=
  let es := d.cw.first
  let d := d.setCw { d.cw with first := [], olds := [] }
  (d.setCw { d.cw with due := (es.filter d.polls? ++ d.cw.due).insertionSort (· ≤ ·) }).pollNext

/-- POLL_DUE of an entry; of one that has yet to poll first, the next edge has come. -/
def Dev.pollDue (d : Dev) (e : Nat) : Dev := if d.cw.first.contains e then d.cwEdge else d.pollArm e

/-- The extracted value of a response (R452). -/
def pollValue (w2 : Word) (r : Nat) : Int :=
  let width := fld w2 20 16 + 1
  let v := (r >>> fld w2 28 24) % 2 ^ width
  if bit w2 31 then sext width v else v

/-- State of a threshold after a value, from the state before. -/
def threshNext (hi lo hyst : Int) (st : Nat) (v : Int) : Nat :=
  if hi < v then 1
  else if v < lo then 2
  else if st = 1 ∧ ¬v < hi - hyst then 1
  else if st = 2 ∧ ¬lo + hyst < v then 2
  else 0

/-- A response is tested and recorded. -/
def Dev.pollValueIn (d : Dev) (e : Nat) (ws : List Word) (a : BitVec 48) (r : Nat) : Dev :=
  let w := fun (i : Nat) => ws.getD i 0
  let v := pollValue (w 2) r
  let hi := (w 3).toInt
  let lo := (w 4).toInt
  let x := d.poll e
  let d := d.setCw { d.cw with table := SMap.put 0 d.cw.table (8 * e + 7) (wInt v) }
  let d := if bit (w 2) 3 then d.cwPush a 0x71 e 0 (wInt v) (w32 r) else d
  let st := threshNext hi lo (w 5).toNat (if x.fresh then 0 else x.st) v
  let d := d.setPoll e { x with fresh := false, st := st, ref := if x.fresh then v else x.ref }
  let d :=
    if !x.fresh && st != x.st then
      let thr := if st = 1 then w 3 else if st = 2 then w 4 else if x.st = 1 then w 3 else w 4
      let code := if st = 1 then 0 else if st = 2 then 1 else 2
      let d := if bit (w 2) 5 then d.cwPush a 0x72 e (w32 code) (wInt v) thr else d
      if bit (w 2) 7 then d.wakeAction 2 else d
    else d
  let delta := (w 6).toNat
  if !x.fresh && delta != 0 && decide (delta ≤ (v - x.ref).natAbs) then
    let d := d.setPoll e { d.poll e with ref := v }
    let d := if bit (w 2) 4 then d.cwPush a 0x73 e 0 (wInt v) (wInt x.ref) else d
    if bit (w 2) 6 then d.wakeAction 3 else d
  else d

/-- The transfer in progress ends with the bytes that SDI returned (R449, R451). -/
def Dev.pollDone (d : Dev) (bytes : List Byte) : Dev :=
  match d.cw.cur with
  | none => d
  | some x =>
    let n := fld (x.words.getD 0 0) 24 22
    let r := ((List.range n).map (fun i => bytes.getD i 0)).foldl (fun acc b => acc * 256 + b.toNat) 0
    let q := x.entry / 64
    let d := d.setCw { d.cw with cur := none }
    let d :=
      if bit (x.words.getD 0 0) 30 && r == 0 then
        ((d.count (cwPage + 0xD0 + 4 * q) 15 0).cwFault 3).cwInput (8 + q) 3 0xFFF x.start
      else d.pollValueIn x.entry x.words x.start r
    d.pollNext

/-- Duration of an entry's transfer in µs, and its power in µW (R449, R460). -/
def pollUw (w0 cfg : Word) : Rat :=
  let n := fld w0 27 25 + fld w0 24 22
  let us := 2 + mkRat (8 * n * (fld cfg 15 8 + 1)) 10
  (mkRat 1 5 + us / 400) * 1024 / (fld w0 15 0 : Nat)

/-- POLL_LOAD in µW, rounded up. -/
def Dev.pollLoad (d : Dev) : Nat :=
  let es := (SMap.keys d.cw.table).filter (fun i => i % 8 == 0 && bit (d.tblWord i) 31)
  ((es.map (fun i => pollUw (d.tblWord i) (d.rd (cwPage + 0xC0 + 4 * (i / 512))))).sum).ceil.toNat

/-- A poll word that R450 allows. -/
def tblOk (w : Nat) (v : Word) : Bool :=
  if w = 0 then decide (fld v 27 25 ≤ 4) && decide (1 ≤ fld v 24 22 ∧ fld v 24 22 ≤ 4) && fld v 15 0 != 0 else true

/-- The fields of a poll word: reserved bits ignore writes (R5, R450). -/
def tblMask (w : Nat) : Word := if w = 0 then 0xFFC0FFFF else if w = 2 then 0x9F1F00F8 else 0xFFFFFFFF

/-- A write of the word at TBL_ADDR (R450, R460). -/
def Dev.tblWrite (d : Dev) (i : Nat) (v : Word) : Dev :=
  let w := i % 8
  let v := v &&& tblMask w
  if w = 7 then d
  else if !tblOk w v then (d.cwFault 9).cwFault 31
  else
    let old := d.tblWord i
    let olds := if (SMap.find? d.cw.olds i).isSome then d.cw.olds else SMap.insert d.cw.olds i old
    let d' := d.setCw { d.cw with table := SMap.put 0 d.cw.table i v, olds := olds }
    if w = 0 ∧ 12500 < d'.pollLoad ∧ d.pollLoad < d'.pollLoad then d.cwFault 6
    else if w = 0 then
      let fresh := (bit v 31 && !bit old 31) || fld old 29 22 != fld v 29 22
      let d' := if fresh then d'.setPoll (i / 8) {} else d'
      -- an entry that polls no more waits no more; one whose EN rises is due at the next edge
      let first := d'.cw.first.filter (· != i / 8)
      if !bit v 31 then d'.setCw { d'.cw with due := d'.cw.due.filter (· != i / 8), first := first }
      else if !bit old 31 then d'.setCw { d'.cw with first := first ++ [i / 8] }
      else d'
    else d'

/-- INC advances after each TBL_DATA access. -/
def Dev.tblNext (d : Dev) : Dev :=
  let a := d.rd (cwPage + 0x78)
  if bit a 31 then d.wf (cwPage + 0x78) 10 0 ((fld a 10 0 + 1) % 2048) else d

/-! ### Writes in flight (R446) -/

/-- A path's write enters the crossing, or finds it full. -/
def Dev.cwPost (d : Dev) (o : Nat) (v : Word) : Dev :=
  if d.cw.writes.length < 16 then d.setCw { d.cw with writes := d.cw.writes ++ [(o, v)] } else d.cwFault 5

/-! ### Drain and wake -/

/-- The record of a batch entry (R21, R453). -/
def Dev.cwRecord (d : Dev) (e : BatchEntry) (loss : Bool) : List Word :=
  let lt : Option Time := match e.pair with
    | some (l, ap) => if e.colds = d.pwr.colds then
        some (l + BitVec.ofNat 64 ((e.a - ap).toNat * 1000000000 / 32768)) else none
    | none => none
  let flags := 0x40 + loss.toNat * 0x10 + (if lt.isNone then 8 else 0)
  let (i1, i2) := match lt with
    | some t => (lo32 t, hi32 t)
    | none => (w32 (e.a.toNat % 2 ^ 32), w32 (e.a.toNat / 2 ^ 32))
  [w32 (e.ty * 2 ^ 24 + flags * 2 ^ 16 + 0xC000 + e.src), i1, i2, 0, 0x0C000000, e.p5, e.p6, e.p7]

/-- The drain engine commits one record (R456). -/
def Dev.drainRecord (d : Dev) : Dev :=
  let q := d.rf (cwPage + 0x40) 9 0
  match d.cw.batch with
  | e :: rest =>
    if d.alive && d.pwr.ckSys && d.rb (cwPage + 0x40) 31 && d.qState q == .run && decide (1 ≤ d.credit q) then
      -- entries that the batch lost, and records that the queue lost (R13, R456)
      let loss := SMap.get false d.cw.lossDue e.src || d.isLossDue (0xC000 + e.src) q
      let d := d.setCw { d.cw with batch := rest, lossDue := SMap.put false d.cw.lossDue e.src false }
      (d.setLossDue (0xC000 + e.src) q false).commit q (d.cwRecord e loss) 4 (some (0xC000 + e.src))
    else d
  | [] => d

/-- The island releases WAKE#. -/
def Dev.releaseWake (d : Dev) : Dev := d.setCw { d.cw with wakeDrv := false, wakeCause := 0 }

end Sys2Proof.Machine
end

