-- ==== Sys2Proof/Machine/CompassOps.lean ====
section
/-! DEFINITION. Compass: inputs, the tracked phase, jumps, stalls and records (R156–R182). -/

namespace Sys2Proof.Machine

def cpsPage : Nat := 0x3000
def cpsIn : Nat := 0x4000

def Dev.setCps (d : Dev) (x : Compass) : Dev := { d with cps := x }

/-- Applied SRC_CTL fields (R179). -/
def Dev.phSrc (d : Dev) : Nat := d.rf 0x3040 2 0
def Dev.phInterp (d : Dev) : Bool := d.rb 0x3040 9
def Dev.stallMode (d : Dev) : Nat := d.rf 0x3040 5 4

def Dev.enc (d : Dev) (x : Nat) : Enc := if x = 0 then d.cps.enc0 else d.cps.enc1
def Dev.setEnc (d : Dev) (x : Nat) (e : Enc) : Dev :=
  d.setCps (if x = 0 then { d.cps with enc0 := e } else { d.cps with enc1 := e })

/-- An encoder's block on the inputs page (R181). -/
def encAt (x : Nat) : Nat := 0x4040 + 0x20 * x
def Dev.encCpt (d : Dev) (x : Nat) : Nat := d.rf (encAt x + 4) 24 0
def Dev.encZmode (d : Dev) (x : Nat) : Nat := d.rf (encAt x) 17 16

/-- A Compass record (R177). -/
def Dev.cpsRec (d : Dev) (type source : Nat) (t : Time) (p5 p6 p7 : Word) : Dev :=
  d.record (d.rf 0x3050 9 0) none type 0 source t p5 p6 p7

/-- An INPUT record, at most one per input and cause per millisecond (R177). -/
def Dev.inputRec (d : Dev) (input cause : Nat) (t : Time) : Dev :=
  match inputMerge d.cps.merge input cause t with
  | (l, some k) => (d.setCps { d.cps with merge := l }).cpsRec 0x64 0x9FFF t (w32 (input * 16 + cause)) (w32 k) 0
  | (l, none) => d.setCps { d.cps with merge := l }

/-! ### Positions (R161, R162, R165) -/

/-- A turn count and a fraction, with its carry. -/
def rawPos (turns : BitVec 16) (frac : Nat) : BitVec 48 := BitVec.ofNat 48 (turns.toNat * 2 ^ 32 + frac)

/-- The same, with PH_OFS and its carry. -/
def Dev.withOfs (d : Dev) (turns : BitVec 16) (frac : Nat) : BitVec 48 := rawPos turns (frac + (d.rd 0x3054).toNat)

/-- The fraction of count c, and of a pulse. -/
def encFrac (c cpt : Nat) : Nat := c * 2 ^ 32 / cpt
def encPos (turns : BitVec 16) (c cpt : Nat) : BitVec 48 := rawPos turns (encFrac c cpt)
def Dev.plsFrac (d : Dev) (n : Nat) : Nat := n * (2 ^ 32 / d.rf 0x40A0 23 8)

/-- The position that an input shows now. -/
def Dev.inputPos (d : Dev) (src : Nat) : BitVec 48 :=
  match src with
  | 1 => d.withOfs d.cps.enc0.turns (encFrac d.cps.enc0.count (d.encCpt 0))
  | 2 => d.withOfs d.cps.enc1.turns (encFrac d.cps.enc1.count (d.encCpt 1))
  | 3 => d.withOfs d.cps.mains.turns 0
  | 4 => d.withOfs d.cps.pulse.turns (d.plsFrac d.cps.pulse.n)
  | 5 => match d.vl.rootPh with | some f => f.pos | none => 0
  | _ => 0

/-- How far the phase may move before the next edge (R165). -/
def Dev.nextStep (d : Dev) (src : Nat) (rev : Bool) : Nat :=
  match src with
  | 3 => 2 ^ 32
  | 4 => if d.cps.pulse.n + 1 = d.rf 0x40A0 23 8 then 2 ^ 32 - d.plsFrac d.cps.pulse.n else 2 ^ 32 / d.rf 0x40A0 23 8
  | _ =>
    let e := d.enc (src - 1)
    let cpt := d.encCpt (src - 1)
    if rev then encFrac e.count cpt - encFrac (e.count - 1) cpt + (if e.count = 0 then 2 ^ 32 - encFrac (cpt - 1) cpt else 0)
    else encFrac (e.count + 1) cpt - encFrac e.count cpt

/-- PH_IDX of the selected source (R159, R161, R164). -/
def Dev.srcIdx (d : Dev) (src : Nat) : Bool :=
  match src with
  | 1 => d.cps.enc0.idx && d.encZmode 0 != 0
  | 2 => d.cps.enc1.idx && d.encZmode 1 != 0
  | 5 => match d.vl.rootPh with | some f => f.idx | none => false
  | _ => false

/-- PH_SRC of stamps under a source: with SRC = 5 that of the field's root (R163). -/
def Dev.stampSrc (d : Dev) : Nat :=
  if d.phSrc = 5 then (match d.vl.rootPh with | some f => f.src.val | none => 5) else d.phSrc

/-- What a history, newest first, keeps: the span of the coarse history and the one entry before it (R173). -/
def Dev.recent {α : Type} (d : Dev) (at_ : α → Time) (l : List α) : List α :=
  let keep := l.takeWhile (fun x => decide ((d.now - at_ x).toNat ≤ 4194304000))
  keep ++ (l.drop keep.length).take 1

/-- PH_IDX of the selected source is what it is from an instant on. -/
def Dev.idxNote (d : Dev) (t : Time) : Dev :=
  let b := d.srcIdx d.phSrc
  match d.cps.idxLog with
  | (_, b0) :: _ => if b0 = b then d else d.setCps { d.cps with idxLog := (t, b) :: d.recent (·.1) d.cps.idxLog }
  | [] => if b then d.setCps { d.cps with idxLog := [(t, b)] } else d

/-- A knot of the tracked phase. -/
def Dev.knot (d : Dev) (k : Knot) : Dev := d.setCps { d.cps with hist := k :: d.recent (·.t) d.cps.hist }

/-- The history takes an entry. -/
def Dev.ents (d : Dev) (f : List HistEnt → List HistEnt) : Dev :=
  d.setCps { d.cps with ents := f (d.recent (·.t) d.cps.ents) }

/-- The interpolation of the history ends in this cycle: no edge before it brackets an instant after it, unless `from_` names the
last edge of the source that is now selected (R173, R174). -/
def Dev.histCut (d : Dev) (st : Option Nat) (from_ : Option (Time × BitVec 48)) : Dev :=
  d.ents (fun l => (match from_ with | some (t, p) => [⟨d.now, .edge t p false⟩] | none => []) ++ ⟨d.now, .cut st⟩ :: l)

/-- The rate of the last two edges (R165): units and ns. -/
def Dev.rate (d : Dev) : Int × Nat :=
  match d.cps.edges with
  | (t1, p1) :: (t0, p0) :: _ => (phDiff p0 p1, (t1 - t0).toNat)
  | _ => (0, 1)

/-- RATE in phase units per µs (R180). -/
def Dev.rateWord (d : Dev) : Word :=
  if d.phSrc = 6 then w32 (satU 31 ((d.rd 0x304C).toNat * 1000 / 2 ^ 16))
  else
    let r := d.rate
    if r.2 = 0 then 0 else wInt (satS 32 (Int.tdiv (r.1 * 1000) r.2))

/-- A jump counts, and no mark or phase tick comes in its cycle (R166, R314). -/
def Dev.jumpTo (d : Dev) (k : Knot) : Dev :=
  let d := ((d.wr 0x307C (d.rd 0x307C + 1)).knot { k with cont := false }).idxNote k.t
  d.setCps { d.cps with seen := d.tracked.pos, jumpAt := some d.now }

/-- A jump of the tracked phase to a position, in this cycle (R166). The travel began `since` ns ago. -/
def Dev.jump (d : Dev) (pos : BitVec 48) (mv : Travel) (since : Nat := 0) : Dev :=
  d.jumpTo { t := d.now, pos := pos, cont := false, src := d.stampSrc, mv := mv, since := since }

/-- Edge positions move with a jump. -/
def moveEdges (by_ : Int) (l : List (Time × BitVec 48)) : List (Time × BitVec 48) := l.map (fun e => (e.1, phMove e.2 by_))

/-- A jump by a difference in this cycle: the phase keeps its travel, its rate and its stall (R165–R167). In the history it lies at
the ball instant `t` of what causes it. -/
def Dev.shift (d : Dev) (t : Time) (by_ : Int) : Dev :=
  match d.cps.hist with
  | [] => d
  | k :: _ =>
    let d := d.setCps { d.cps with edges := moveEdges by_ d.cps.edges }
    (d.ents (histShift (if d.now < t then d.now else t) by_ d.now)).jumpTo
      { k with t := d.now, pos := phMove k.pos by_, since := k.since + (d.now.toNat - k.t.toNat) }

/-- The travel of the tracked phase after an edge (R165, R168). -/
def Dev.travel (d : Dev) (src : Nat) (rev : Bool) : Travel :=
  let (num, den) := d.rate
  if d.phInterp && d.cps.resume == 0 && den != 0 && num != 0 then .track num den (some (d.nextStep src rev))
  else .track 0 1 (some 0)

/-- The selected source accepts in this cycle an edge with the ball instant t (R165, R168): an advance, or the exit from a stall. The
tracked phase takes the edge's position now, the history has it at its ball instant (R172, R173). -/
def Dev.srcEdge (d : Dev) (src : Nat) (t : Time) (rev : Bool) : Dev :=
  if d.phSrc != src then d
  else
    let pos := d.inputPos src
    let c := d.cps
    let t := if d.now < t then d.now else t
    let was := d.tracked
    let diff := phDiff was.pos pos
    let ahead := if rev then decide (diff < 0) else decide (0 < diff)
    let jumps := c.stalled && d.stallMode == 1 && !ahead
    let c' := { c with edges := (t, pos) :: c.edges.take 1, lastAcc := some d.now, stalled := false,
                       resume := if c.stalled then 2 else c.resume - 1 }
    let d' := (d.setCps c').ents (histEdge t jumps pos)
    let d' :=
      if jumps then d'.jump pos (d'.travel src rev)
      else d'.knot { t := d.now, pos := pos, cont := true, src := src, mv := d'.travel src rev }
    if c.stalled then
      -- an edge that reached the ball before the detection ended no stall of any length
      d'.cpsRec 0x61 0x9FFF t (w32 (d.stallMode * 2 + 1)) (wInt (satS 32 diff))
        (w32 (satU 32 ((t.toNat - c.stallT0.toNat) / 1000)))
    else d'

/-! ### Encoders (R157–R160) -/

def Dev.encEn (d : Dev) (x : Nat) : Bool := d.rb (encAt x) 0

/-- An over-rate or other input fault of Compass. -/
def Dev.inputFault (d : Dev) (input cause bit : Nat) (t : Time) : Dev := (d.fault cpsPage bit).inputRec input cause t

/-- A sample in which an accepted A or B level changes (R157, R158). A leading B counts forward, with INVERT the other way: the spec
says only that the level of the other line sets the direction (DESIGN CHOICE, notes/assumptions/102). -/
def Dev.encEdge (d : Dev) (x : Nat) (a b z : Bool) (t : Time) : Dev :=
  let e := d.enc x
  let a := if e.lineA then e.a else a
  let b := if e.lineB then e.b else b
  let dA := a != e.a
  let dB := b != e.b
  let z := if e.lineZ then e.z else z
  let e1 := { e with a := a, b := b, z := z }
  if !d.encEn x || (!dA && !dB) then d.setEnc x e1
  else if dA && dB then
    (((d.setEnc x { e1 with idx := false }).idxNote t).count (encAt x + 0xC) 31 16).inputFault x 2 3 t
  else if e.lineA || e.lineB || e.lineZ then d.setEnc x e1
  else
    let fwd := (if dA then a != b else a == b) != d.rb (encAt x) 8
    let cpt := d.encCpt x
    let wrap := if fwd then decide (cpt ≤ e.count + 1) else e.count == 0
    let count := if fwd then (if wrap then 0 else e.count + 1) else (if wrap then cpt - 1 else e.count - 1)
    let turns := if wrap then (if fwd then e.turns + 1 else e.turns - 1) else e.turns
    let fast := match e.last with | some t0 => decide ((t - t0).toNat < 40) | none => false
    -- counts with Z active, or, of a stuck index, inactive: it is heeded again once it has been so for 4 (R160)
    let zRun := if z != e.zStuck then e.zRun + 1 else 0
    let free := e.zStuck && decide (4 ≤ zRun)
    let d := d.setEnc x { e1 with count := count, turns := turns, rev := !fwd, last := some t, zStuck := e.zStuck && !free,
                                  zRun := if free then 0 else zRun
                                  edges := (t, encPos turns count cpt) :: e.edges.take 1, acc := some d.now }
    let d := d.srcEdge (1 + x) t (!fwd)
    if fast then (d.count (encAt x + 0xC) 15 0).inputFault x 1 2 t else d

/-- The signed distance from a count to 0, the short way round the turn (R159): at half a turn both ways are as short, and it is
negative (DESIGN CHOICE, notes/assumptions/102). -/
def idxDeviation (count cpt : Nat) : Int := if 2 * count ≤ cpt then -(count : Int) else (cpt : Int) - count

/-- Accepted Z becomes active (R159). While the index is stuck it only restarts the counts with Z inactive (R160). The first
referencing index sets IDX_DEV too and always writes its record, with FIRST: R159 names a deviation at later indexes only, R177 a
record whenever its event occurs (DESIGN CHOICE, notes/assumptions/102). -/
def Dev.encIndex (d : Dev) (x : Nat) (t : Time) : Dev :=
  let e := d.enc x
  let e1 := { e with z := true, zRun := 0 }
  let zm := d.encZmode x
  if !d.encEn x || zm == 0 || e.zStuck || e.lineZ then d.setEnc x e1
  else
    let first := !e.idxSeen
    let applied := zm == 1 || first
    let cpt := d.encCpt x
    let dev := idxDeviation e.count cpt
    let turns := if first then 0 else if applied && decide (cpt ≤ 2 * e.count) then e.turns + 1 else e.turns
    let count := if applied then 0 else e.count
    let moved := phDiff (encPos e.turns e.count cpt) (encPos turns count cpt)
    let d' := d.setEnc x { e1 with count := count, turns := turns, idxSeen := true, idx := true, idxDev := dev,
                                   edges := moveEdges moved e.edges }
    let d' :=
      if d.phSrc = 1 + x then
        let d' := d'.idxNote t
        if d'.inputPos (1 + x) != d.inputPos (1 + x) then d'.shift t (phDiff (d.inputPos (1 + x)) (d'.inputPos (1 + x))) else d'
      else d'
    if first || dev != 0 then
      d'.cpsRec 0x62 0x9FFF t (w32 (applied.toNat * 2 + first.toNat)) (wInt dev) (w32 e.count)
    else d'

/-- Z stays active for more than 4 counts (R160). -/
def Dev.encZStuck (d : Dev) (x : Nat) : Dev :=
  let e := d.enc x
  if d.encEn x && !e.zStuck && e.z && decide (4 < e.zRun) then
    (d.setEnc x { d.enc x with zStuck := true, zRun := 0 }).inputFault x 4 5 d.now
  else d

/-- A line's differential voltage lies within ±200 mV, or is valid again (R158). A line of an input with EN = 0 reports its fault too:
the spec ties the line faults to no EN (DESIGN CHOICE, notes/assumptions/102). -/
def Dev.encLine (d : Dev) (x : Nat) (l : EncLine) (bad : Bool) : Dev :=
  let e := d.enc x
  let was := match l with | .lineA => e.lineA | .lineB => e.lineB | .lineZ => e.lineZ
  let d := d.setEnc x (match l with
    | .lineA => { e with lineA := bad } | .lineB => { e with lineB := bad } | .lineZ => { e with lineZ := bad })
  if bad && !was then d.inputFault x 3 4 d.now else d

/-- An encoder input is enabled, or its counts per turn change, by a pitch (R157, R159): it begins at count 0 of turn 0 with no index
seen, and a change of ENC_CPT under the selected encoder is a jump that counts. The spec says neither (DESIGN CHOICE,
notes/assumptions/102). -/
def Dev.encRestart (d : Dev) (x : Nat) : Dev :=
  (d.setEnc x { d.enc x with count := 0, turns := 0, idxSeen := false, idx := false, last := none, zRun := 0, edges := [],
                             acc := none }).idxNote d.now

/-! ### Mains and pulse (R161, R162) -/

/-- An edge of the mains input (R161). Blanking and the period run from the last edge that was used: one less than 13.0 ms after it
starts no blank and is no "previous one", and a gap with EN = 0 in it is a period as any other. The spec says neither (DESIGN CHOICE,
notes/assumptions/102). -/
def Dev.zcEdge (d : Dev) (t : Time) : Dev :=
  let m := d.cps.mains
  if !d.rb 0x4080 0 then d
  else
    let gap := match m.last with | some t0 => some (t - t0).toNat | none => none
    let within := fun (n : Nat) => match gap with | some g => decide (g < n) | none => false
    if within (d.rf 0x4080 31 24 * 100000) then d
    else if within 13000000 then (d.count 0x4088 15 0).inputFault 2 1 2 t
    else
      let late := match gap with | some g => decide (30000000 < g) | none => false
      let d := d.setCps { d.cps with mains := { turns := m.turns + 1, last := some t, period := gap.getD m.period
                                                edges := (t, rawPos (m.turns + 1) 0) :: m.edges.take 1, acc := some d.now } }
      let d := d.srcEdge 3 t false
      if late then (d.count 0x4088 31 16).inputFault 2 6 7 t else d

/-- A pulse of the selected polarity (R162). PLS_STAT.STUCK clears at it: the spec says that PLS became inactive first, and not when
STUCK clears (DESIGN CHOICE, notes/assumptions/102). -/
def Dev.plsPulse (d : Dev) (t : Time) : Dev :=
  let p := d.cps.pulse
  if !d.rb 0x40A0 0 then d
  else
    let fast := match p.last with | some t0 => decide ((t - t0).toNat < 200) | none => false
    let wrap := decide (d.rf 0x40A0 23 8 ≤ p.n + 1)
    let n := if wrap then 0 else p.n + 1
    let turns := if wrap then p.turns + 1 else p.turns
    let d := d.setCps { d.cps with pulse := { n := n, turns := turns, last := some t, stuck := false
                                              edges := (t, rawPos turns (d.plsFrac n)) :: p.edges.take 1, acc := some d.now } }
    let d := d.srcEdge 4 t false
    if fast then (d.count 0x40A4 15 0).inputFault 3 1 2 t else d

def Dev.plsStuck (d : Dev) : Dev :=
  if d.rb 0x40A0 0 && !d.cps.pulse.stuck then
    (d.setCps { d.cps with pulse := { d.cps.pulse with stuck := true } }).inputFault 3 5 6 d.now
  else d

/-! ### Stalls (R167) -/

/-- STALL_T has passed since the cycle that accepted the last edge or update; one of the present cycle prevents the stall. -/
def Dev.stallDue (d : Dev) : Bool :=
  match d.cps.lastAcc with
  | some t => decide (t.toNat + d.rf 0x3044 23 0 * 1000 ≤ d.now.toNat)
  | none => true

def Dev.stallEntry (d : Dev) : Dev :=
  let src := d.phSrc
  if d.cps.stalled || src == 0 || src == 6 || !d.stallDue then d
  else
    let p := d.tracked
    let (num, den) := d.rate
    let mv := if d.stallMode = 1 ∧ den ≠ 0 then Travel.extrap num den (d.rf 0x3048 23 0 * 1000) else .hold
    let k : Knot := { t := d.now, pos := p.pos, cont := true, src := d.stampSrc, mv := mv }
    -- entries after the last edge become final now, with the PH_STATE of the stall (R173)
    let d := (d.knot k).histCut (some (k.at 0).2) none
    let d := (d.setCps { d.cps with stalled := true, stallT0 := d.now }).fault cpsPage 0
    d.cpsRec 0x61 0x9FFF d.now (w32 (d.stallMode * 2)) 0 0

/-- The extrapolation ends (R167): the phase holds where EXTRAP_T brings it. -/
def Dev.extrapEnd (d : Dev) : Dev :=
  match d.cps.hist with
  | k :: _ =>
    match k.mv with
    | .extrap num den ns =>
      if (d.now - k.t).toNat + k.since < ns then d
      else d.knot { k with t := d.now, pos := phMove k.pos (Int.tdiv (num * ns) den), cont := true, mv := .hold, since := 0 }
    | _ => d
  | [] => d

/-! ### Source, offset and increment changes (R156, R164, R166) -/

/-- What an input has counted: its last two edges with PH_OFS, and the cycle that accepted the last (R156). -/
def Dev.inputEdges (d : Dev) (src : Nat) : List (Time × BitVec 48) × Option Time :=
  let ofs := moveEdges (d.rd 0x3054).toNat
  match src with
  | 1 => (ofs d.cps.enc0.edges, d.cps.enc0.acc)
  | 2 => (ofs d.cps.enc1.edges, d.cps.enc1.acc)
  | 3 => (ofs d.cps.mains.edges, d.cps.mains.acc)
  | 4 => (ofs d.cps.pulse.edges, d.cps.pulse.acc)
  | 5 => (d.cps.rootEdges, d.vl.rootPh.map (·.t))
  | _ => ([], none)

/-- How the field root's phase moves from the state of a frame (R163, R471). A virtual phase moves at its rate always, another one
with INTERP, and no further than the last edges lie apart: a frame does not carry the position of the root's next edge (DESIGN
CHOICE, notes/assumptions/88). -/
def Dev.rootTravel (d : Dev) (f : PhaseFrame) : Travel :=
  let (num, den) := d.rate
  let moves := den != 0 && num != 0
  match f.st.val with
  | 0 =>
    if moves && f.src.val == 6 then .track num den none
    else if moves && d.phInterp && d.cps.resume == 0 then .track num den (some num.natAbs)
    else .track 0 1 (some 0)
  | 1 => .hold
  | 2 => if den = 0 then .hold else .extrap num den (2 ^ 63)
  | _ => .none

/-- A pitch selects another source; `old` is the one before. The input already counts (R156): its last two edges give the rate, its
travel began when the last was accepted, and STALL_T runs from there; without an edge it runs from the pitch. A field phase that no
frame has brought yet has no state (DESIGN CHOICE, notes/assumptions/88). -/
def Dev.selectSource (d : Dev) (old : Nat) : Dev :=
  let src := d.phSrc
  let (es, acc) := d.inputEdges src
  let d := d.setCps { d.cps with edges := es, stalled := false, resume := 0, lastAcc := some (acc.getD d.now),
                                 resync := src == 5 && d.vl.rootPh.isNone }
  let mv := match src with
    | 0 => Travel.none
    | 5 => match d.vl.rootPh with | some f => d.rootTravel f | none => .none
    | 6 => .virtual 0 (d.rd 0x304C).toNat
    | _ => d.travel src (decide (d.rate.1 < 0))
  let d := (d.histCut none es.head?).jump (d.inputPos src) mv (match acc with | some t => d.now.toNat - t.toNat | none => 0)
  d.cpsRec 0x63 0x9FFF d.now (w32 (old * 16 + src)) 0 0

/-- A pitch changes PH_OFS, or the PPT of the selected pulse input, so that its position is another than `was`: a jump by the
difference (R166). -/
def Dev.posJump (d : Dev) (was : BitVec 48) : Dev :=
  match d.phSrc with
  | 1 | 2 | 3 | 4 => if d.inputPos d.phSrc = was then d else d.shift d.now (phDiff was (d.inputPos d.phSrc))
  | _ => d

/-- A pitch changes INTERP: from then on the tracked phase travels between edges, or it stands at the last edge again. The step back
to it is no travel, so it is taken for a jump (R165, R166; DESIGN CHOICE, notes/assumptions/102). -/
def Dev.interpChange (d : Dev) : Dev :=
  match d.cps.hist, d.cps.edges with
  | k :: _, (_, p) :: _ =>
    match k.mv with
    | .track _ _ _ =>
      if d.phInterp then
        let mv := match d.phSrc with
          | 5 => match d.vl.rootPh with | some f => d.rootTravel f | none => k.mv
          | src => d.travel src (decide (d.rate.1 < 0))
        d.knot { k with t := d.now, pos := d.tracked.pos, cont := true, mv := mv, since := 0 }
      else if d.phSrc = 5 ∧ k.src = 6 ∨ d.tracked.pos = p then d
      else d.jump p (.track 0 1 (some 0))
    | _ => d
  | _, _ => d

/-- The virtual accumulator at the present cycle. -/
def Dev.virtAcc (d : Dev) : Nat :=
  match d.cps.hist with
  | k :: _ => match k.mv with
    | .virtual acc inc => (acc + inc * ((d.now - k.t).toNat + k.since)) % 2 ^ 64
    | _ => 0
  | [] => 0

/-- A pitch changes VINC while the virtual source is selected. -/
def Dev.vincChange (d : Dev) : Dev :=
  if d.phSrc != 6 then d
  else
    let acc := d.virtAcc
    d.knot { t := d.now, pos := BitVec.ofNat 48 (acc / 2 ^ 16), cont := true, src := 6,
             mv := .virtual acc (d.rd 0x304C).toNat }

/-- CMD.OP = 2: the turn count becomes 0, as a jump (R166, R180). -/
def Dev.turnsZero (d : Dev) : Dev :=
  let c := d.cps
  match d.phSrc with
  | 0 => d
  | 6 =>
    let acc := d.virtAcc % 2 ^ 48
    d.jump (BitVec.ofNat 48 (acc / 2 ^ 16)) (.virtual acc (d.rd 0x304C).toNat)
  | 5 =>
    let p := d.tracked.pos
    let d := d.shift d.now (-(p.toNat / 2 ^ 32 * 2 ^ 32 : Nat))
    -- the root's turns come back with its next frame, which no travel explains (R163)
    d.setCps { d.cps with resync := true }
  | src =>
    let was := d.inputPos src
    let back := fun (t : BitVec 16) => moveEdges (-(t.toNat * 2 ^ 32 : Nat))
    let d := match src with
      | 1 => d.setCps { c with enc0 := { c.enc0 with turns := 0, edges := back c.enc0.turns c.enc0.edges } }
      | 2 => d.setCps { c with enc1 := { c.enc1 with turns := 0, edges := back c.enc1.turns c.enc1.edges } }
      | 3 => d.setCps { c with mains := { c.mains with turns := 0, edges := back c.mains.turns c.mains.edges } }
      | _ => d.setCps { c with pulse := { c.pulse with turns := 0, edges := back c.pulse.turns c.pulse.edges } }
    d.shift d.now (phDiff was (d.inputPos src))

/-- CMD.OP = 1 (R180). -/
def Dev.clearErrors (d : Dev) : Dev :=
  forEach [0x404C, 0x406C, 0x4088, 0x40A4, 0x3078, 0x307C] (fun a (d : Dev) => d.wr a 0) d

/-! ### Marks (R169, R170, R182) -/

/-- A mark's 16 bytes. -/
def markAt (m : Nat) : Nat := 0x5000 + m / 96 * 0x1000 + 0x40 + m % 96 * 0x10

/-- A word of a mark as its crossing test takes it: in the cycle of a pitch, as it stood before the pitch (R170). -/
def Dev.markRd (d : Dev) (a : Nat) : Word := (SMap.find? d.cps.markWas a).getD (d.rd a)

/-- A pitch is about to change mark registers: their words stand for the rest of the cycle (R170), and with MK_CTL or MK_POS their
mark's status, which begins anew then (R182). -/
def Dev.markKeep (d : Dev) (regs : List Nat) : Dev :=
  let as := (regs.filter (fun a => decide (0x5000 ≤ a ∧ a < 0x8000))).flatMap (fun a =>
    if a % 16 = 4 then [a] else [a, a - a % 16 + 0xC])
  forEach as (fun a (d : Dev) =>
    if (SMap.find? d.cps.markWas a).isSome then d
    else d.setCps { d.cps with markWas := SMap.insert d.cps.markWas a (d.rd a) }) d

/-- MODE and DONE decide whether a mark is enabled (R103, R169). -/
def Dev.markOn (d : Dev) (m : Nat) : Bool :=
  let mode := d.rf (markAt m + 8) 2 0
  mode != 0 && !(mode == 2 && d.rb (markAt m + 0xC) 0)

/-- Positions of a mark as the numbers below 2⁴⁸ that equal `r` modulo `st` (R169): `r` and `st`, where it has any. -/
def Dev.markGrid (d : Dev) (m : Nat) : Option (Nat × Nat) :=
  let a := markAt m
  let p := (d.markRd a).toNat
  let ctl := d.markRd (a + 8)
  match fld ctl 2 0 with
  | 1 => some (p, 2 ^ 32)
  | 2 => if bit (d.markRd (a + 0xC)) 0 then none else some (fld ctl 31 16 * 2 ^ 32 + p, 2 ^ 48)
  | 3 =>
    let st := (d.markRd (a + 4)).toNat
    if st = 0 then none else some (p % st, st)
  | _ => none

/-- The direction is allowed by MK_CTL.DIR. -/
def Dev.markDir (d : Dev) (m : Nat) (rev : Bool) : Bool :=
  match fld (d.markRd (markAt m + 8)) 5 4 with
  | 0 => !rev
  | 1 => rev
  | _ => true

/-- Phases that a cycle's travel from `a` by `n` units crosses, in the order of travel, as intervals of numbers below 2⁴⁸ (R169). -/
def crossed (a : Nat) (n : Int) : List (Nat × Nat) :=
  let k := n.natAbs
  let l := if 0 ≤ n then (if a + k < 2 ^ 48 then [(a + 1, a + k)] else [(a + 1, 2 ^ 48 - 1), (0, a + k - 2 ^ 48)])
    else if k ≤ a then [(a - k, a - 1)] else [(0, a - 1), (a + 2 ^ 48 - k, 2 ^ 48 - 1)]
  l.filter (fun x => decide (x.1 ≤ x.2) && (decide (0 ≤ n) || a != 0 || x.1 != 0))

/-- Numbers of an interval that equal `r` modulo `st`. -/
def gridCount (r st : Nat) (x : Nat × Nat) : Nat := (x.2 + st - r % st) / st - (x.1 + st - 1 - r % st) / st

/-- The first of them in the direction of travel. -/
def gridFirst (r st : Nat) (rev : Bool) (x : Nat × Nat) : Nat :=
  if rev then x.2 - (x.2 % st + st - r % st) % st else x.1 + (r % st + st - x.1 % st) % st

/-- Marks can fire: a source is selected, an extrapolated phase only with XMARK, and no jump in this cycle (R156, R166, R167). -/
def Dev.marksFire (d : Dev) : Bool :=
  d.cps.jumpAt != some d.now &&
    match d.tracked.st with
    | 0 => true
    | 2 => d.rb 0x3040 8
    | _ => false

/-- A timer as a read of the present cycle finds it: after the cycle's phase tick and with its capture (R318, R324). -/
def Dev.tmShown (d : Dev) (t : Nat) : TimerDyn :=
  let pos := d.tracked.pos
  let d := if d.tmSrc t = 3 && pos != d.cps.seen && d.marksFire then d.phaseTicks d.cps.seen pos else d
  match (d.tm t).cap with | some (lt, _, _) => (d.tm t).store lt | none => d.tm t

/-- What the present cycle crosses, and whether in reverse. -/
def Dev.crossedNow (d : Dev) : List (Nat × Nat) × Bool :=
  let n := phDiff d.cps.seen d.tracked.pos
  if n = 0 then ([], false) else (crossed d.cps.seen.toNat n, decide (n < 0))

/-- A mark that the present cycle crosses and that has not fired in it: the first position crossed, and the further ones, whether
in reverse (R169). R169 and R177 do not say which of several crossed positions the MARK record names: the first (DESIGN CHOICE,
notes/assumptions/88). -/
def Dev.markHit (d : Dev) (m : Nat) : Option (BitVec 48 × Nat × Bool) :=
  match d.markGrid m with
  | none => none
  | some (r, st) =>
    let (l, rev) := d.crossedNow
    let l := l.filter (fun x => gridCount r st x != 0)
    match l with
    | [] => none
    | x :: _ =>
      if d.marksFire && !d.cps.fired.contains m && d.markDir m rev then
        some (BitVec.ofNat 48 (gridFirst r st rev x), (l.map (gridCount r st)).sum - 1, rev)
      else none

/-- A mark that fires counts, ends in MODE 2, and writes its record (R169, R177). A mark that a pitch of this cycle changes
begins anew (R170). -/
def Dev.markFired (d : Dev) (m : Nat) (pos : BitVec 48) (merged : Nat) (rev : Bool) : Dev :=
  let a := markAt m
  let w := d.rd (a + 0xC)
  let one := fld (d.markRd (a + 8)) 2 0 == 2 && (SMap.find? d.cps.markWas (a + 0xC)).isNone
  let d := d.wr (a + 0xC) (w32 (((w.toNat / 2 ^ 8 + 1) % 2 ^ 24) * 2 ^ 8 + (one || bit w 0).toNat))
  if bit (d.markRd (a + 8)) 8 then
    let x := d.tracked.st == 2
    d.cpsRec 0x60 (0x9000 + m) d.now (w32 (satU 16 merged * 2 ^ 16 + x.toNat * 4 + rev.toNat * 2)) (w32 (pos.toNat % 2 ^ 32))
      (w32 (pos.toNat / 2 ^ 32))
  else d

end Sys2Proof.Machine
end

