-- ==== Sys2Proof/Machine/CoreOps.lean ====
section
/-! DEFINITION. The registers of the Efyon cores, delayed writes, and what starts and stops a context or the core
(R329–R332, R360–R366, R383, R384). -/

namespace Sys2Proof.Machine

/-- Context x's page (R387). -/
def ctxPage (x : Nat) : Nat := (Un.ctx x).addr
def escPage : Nat := 0x1D000
/-- Program and data memory of a camp's sequencer (R14). -/
def progMem (c : Nat) : Nat := 0x800000 + c * 0x40000
def dataMem (c : Nat) : Nat := progMem c + 0x10000

def Dev.ctx (d : Dev) (x : Nat) : Core := SMap.get {} d.ctxs x
def Dev.setCtx (d : Dev) (x : Nat) (c : Core) : Dev := { d with ctxs := SMap.put {} d.ctxs x c }
def Dev.setEsc (d : Dev) (e : Esc) : Dev := { d with esc := e }

def Dev.core (d : Dev) : CoreId → Core
  | .main => d.esc.core
  | .seq x => d.ctx x.val

def Dev.setCore (d : Dev) (e : CoreId) (c : Core) : Dev :=
  match e with
  | .main => d.setEsc { d.esc with core := c }
  | .seq x => d.setCtx x.val c

/-- The path of a core (R287, R353). -/
def corePath : CoreId → Path
  | .main => .efyonS
  | .seq x => .ctx x

/-! ### Registers -/

/-- dr; d0 reads 0 (R329). -/
def Core.dr (c : Core) (r : Nat) : Word := if r = 0 then 0 else SMap.get 0 c.d r
/-- Pointer register number x: a, b, m, s (R332). -/
def Core.xr (c : Core) (x : Nat) : Word := SMap.get 0 c.x x
def Core.ar (c : Core) (n : Nat) : BitVec 72 := SMap.get 0 c.acc n

def Core.setD (c : Core) (r : Nat) (v : Word) : Core := if r = 0 then c else { c with d := SMap.put 0 c.d r v }
def Core.setX (c : Core) (x : Nat) (v : Word) : Core := { c with x := SMap.put 0 c.x x v }
def Core.setA (c : Core) (n : Nat) (v : BitVec 72) : Core := { c with acc := SMap.put 0 c.acc n v }

/-- A flag by its place in FLAGS (R331): Z, N, C, V, Q, DZ. -/
def Core.flag (c : Core) (i : Nat) : Bool := c.flags.getLsbD i

/-- A delayed write takes effect. -/
def Core.apply (c : Core) (w : PendW) : Core :=
  if w.reg < 32 then c.setD w.reg w.v
  else if w.reg < 64 then c.setX (w.reg - 32) w.v
  else if w.reg = 64 then { c with lc := w.v }
  else { c with flags := (c.flags &&& ~~~(w.mask.truncate 6)) ||| ((w.v &&& w.mask).truncate 6) }

/-- Issue a write whose result is seen at a distance (R363). -/
def Core.put (c : Core) (reg : Nat) (v : Word) (dist : Nat) (mask : Word := 0xFFFFFFFF) : Core :=
  { c with pend := c.pend ++ [⟨reg, v, mask, c.n + dist⟩] }

/-- Writes that are seen from the present count on take effect, in program order (R364, R365). -/
def Core.settle (c : Core) : Core :=
  let due := c.pend.filter (fun w => decide (w.due ≤ c.n))
  let c := { c with pend := c.pend.filter (fun w => !decide (w.due ≤ c.n)) }
  due.foldl Core.apply c

/-- Every issued write takes effect, in order of visibility (R366). -/
def Core.flush (c : Core) : Core :=
  let l := c.pend.insertionSort (fun a b => a.due ≤ b.due)
  l.foldl Core.apply { c with pend := [], busy := none, work := none, sent := none }

/-- CK_SEQ cycles in LTIME (R44). -/
def seqTime (n : Nat) : Time := BitVec.ofNat 64 (2 * n)

/-- A context is not ready for a while (R362): the code of STATUS.WAIT, the present instant, and the CK_SEQ cycles. -/
def Core.waitsFor (c : Core) (code : Nat) (now : Time) (n : Nat) : Core := { c with busy := some (code, now + seqTime n) }

/-- A producer gives its result when its own work is done, but not before its distance (R364). -/
def Core.worksTo (c : Core) (due : Nat) (now : Time) : Core := { c with work := some (due, now + seqTime (Config.seqCycles now.toNat)) }

/-- A write leaves for CK_SYS (R49). -/
def Core.sends (c : Core) (now : Time) : Core := { c with sent := some (now + seqTime 2) }

/-- SYNC waits until the earlier writes have taken effect (R362). -/
def Core.syncs (c : Core) (now : Time) : Core :=
  match c.sent with
  | some t => if now.toNat < t.toNat then { c with busy := some (4, t) } else c
  | none => c

/-- A change of a core. -/
def Dev.updCore (d : Dev) (e : CoreId) (f : Core → Core) : Dev := d.setCore e (f (d.core e))
def State.updCore (s : State) (e : CoreId) (f : Core → Core) : State := { s with dev := s.dev.updCore e f }

/-! ### Contexts -/

/-- A start of a context (R361). -/
def Dev.ctxStart (d : Dev) (x : Nat) : Dev :=
  let p := ctxPage x
  d.setCtx x ((({} : Core).setD 1 (d.rd (p + 0x44)) |> fun c => { c with pc := w32 (d.rf (p + 0x40) 15 0) }))

/-- A context enters or leaves RUN (R361, R366). A reset clears its registers. -/
def Dev.ctxLeave (d : Dev) (x : Nat) (b a : UState) : Dev :=
  let d := if b == .run && a != .off then { d with stops := SMap.put {} d.stops x (d.ctx x).flush } else d
  if a == .off then ({ d with stops := SMap.put {} d.stops x {} } : Dev).setCtx x {}
  else if a == .run then (if b == .held then d else d.ctxStart x)
  else if b == .run then d.setCtx x (d.ctx x).flush
  else d

/-- A context in WAITPH continues (R355, R388). -/
def Dev.ctxRelease (d : Dev) (x : Nat) : Dev := d.setCtx x { d.ctx x with wait := none }

/-- The arm cycle of a WAITPH that issues now: the CK_SYS cycle that ends 2 CK_SEQ later (R355). -/
def Dev.armCycle (d : Dev) : Time := d.now + 3

/-- A wait that a firing of mark m at t ends: the fire cycle lies after the arm cycle. -/
def waitHit (m : Nat) (t : Time) : Option (Nat × Time) → Bool
  | some (k, a) => k == m && decide (a.toNat < t.toNat)
  | none => false

/-- A mark fires: waits for it that have armed end (R355, R356). -/
def Dev.markWaits (d : Dev) (m : Nat) : Dev :=
  let t := d.now
  let d := forEach ((d.ctxs.filter (fun kv => waitHit m t kv.2.wait)).map (·.1)) (fun x (d : Dev) => d.ctxRelease x) d
  let e := d.esc
  let core := if waitHit m t e.core.wait then { e.core with wait := none } else e.core
  d.setEsc { e with
    core := core,
    waits := e.waits.map (fun w => { w with fired := w.fired || waitHit m t (some (w.mark, w.arm)) }) }

/-! ### Efyon-S -/

/-- Restart the watchdog count with a period in ms (R383). -/
def Dev.wdogStart (d : Dev) (ms : Nat) : Dev := d.setEsc { d.esc with wdog := ms * 1000000 }

/-- Firmware starts at an entry address with a stack address (R384): VBASE and the other registers read 0. -/
def Dev.escStart (d : Dev) (entry stack : Word) (period : Nat) : Dev :=
  let d := d.setEsc { core := { ({} : Core).setX 7 stack with pc := entry }, running := true, monHalt := d.esc.monHalt }
  (d.wr 0x1D040 0).wdogStart period

/-- Firmware stops. -/
def Dev.escStop (d : Dev) : Dev := d.setEsc {}

/-- The source of the handler now running: CUR_SRC (R389). -/
def Esc.curSrc (e : Esc) : Nat :=
  match e.stack with
  | .normal s :: _ => s
  | .fast i :: _ => i
  | _ => 0xFFFF

def Esc.inFast (e : Esc) : Bool := match e.stack with | .fast _ :: _ => true | _ => false
def Esc.inNormal (e : Esc) : Bool := match e.stack with | .normal _ :: _ => true | .exc _ :: _ => true | _ => false

end Sys2Proof.Machine
end

