-- ==== Sys2Proof/Machine/OutletOps.lean ====
section
/-! DEFINITION. Outlets: descriptors, buffers, closes and the packets they deliver to host memory (R416–R422). -/

namespace Sys2Proof.Machine

def hostPage : Nat := 0x15000

def Dev.ol (d : Dev) (o : Nat) : Outlet := SMap.get {} d.host.outlets o
def Dev.setOl (d : Dev) (o : Nat) (x : Outlet) : Dev :=
  { d with host := { d.host with outlets := SMap.put {} d.host.outlets o x } }

/-- The outlet's slot (R427). -/
def olAt (o : Nat) : Nat := (Un.outlet o).addr

/-- Descriptors of the ring (R417). -/
def Dev.ringSize (d : Dev) (o : Nat) : Nat := 2 ^ d.rf (olAt o + 8) 20 16
def Dev.ringBase (d : Dev) (o : Nat) : Nat := (join64 (d.rd (olAt o + 0x14)) (d.rd (olAt o + 0x10))).toNat

/-- The queues that an outlet may consume: those in READY or RUN that name it, of which the check allows one (R416); where there is
none, another that names it, whose packets its consumer may still take (R283; DEDUCED, notes/assumptions/106). -/
def Dev.olQueues (d : Dev) (o : Nat) : List Nat :=
  let all := (List.range 1024).filter (fun q => d.qOen q && d.rf (Dev.qAddr q + 8) 23 20 == o)
  let live := all.filter (fun q => d.qState q == .ready || d.qState q == .run)
  if live = [] then all else live

/-- The outlets may issue TLPs once the link is out of L1 (R421, R424). -/
def Dev.mayMaster (d : Dev) : Bool := !d.host.d3 && d.host.busMaster && d.host.linkUp && !d.host.lost

/-- The outlets may issue TLPs (R421); L1 is left first. -/
def Dev.canMaster (d : Dev) : Bool := d.mayMaster && !d.host.l1

/-- Any outbound TLP starts the exit from L1 (R415). -/
def Dev.leaveL1 (d : Dev) : Dev := if d.host.l1 && d.mayMaster then { d with host := { d.host with l1Exit := true } } else d

/-- Words of a value in host memory, little-endian. -/
def bytesOf (w : Word) : List Byte := (List.range 4).map (fun i => BitVec.ofNat 8 (w.toNat >>> (8 * i)))

/-- A posted write to host memory. -/
def Dev.hostWrite (d : Dev) (a : Nat) (bs : List Byte) : Dev :=
  let m := (bs.foldl (fun (am : Nat × List Host.Cell) b => (am.1 + 1, SMap.insert am.2 am.1 b)) (a, d.host.mem)).2
  { d with host := { d.host with mem := m } }

/-- A byte of host memory as the outlets have written it. -/
def Dev.hostByte (d : Dev) (a : Nat) : Byte := SMap.get 0 d.host.mem a

/-- The outlet raises source 64 + o, which starts its count of buffers afresh (R419). -/
def Dev.olRaise (d : Dev) (o : Nat) : Dev := (d.setOl o { d.ol o with since := 0 }).msg (64 + o)

/-- HEAD has met TAIL in RUN with no buffer open: NO_DESC, once (R420). -/
def Dev.olRunsDry (d : Dev) (o : Nat) : Bool :=
  let x := d.ol o
  d.ust (.outlet o) == .run && x.buf.isNone && x.head == x.tail && !x.noDesc

def Dev.olDry (d : Dev) (o : Nat) : Dev :=
  if d.olRunsDry o then (d.setOl o { d.ol o with noDesc := true }).olRaise o else d

/-- A closure that falls due while the function cannot master waits (R421). A kick that still waits for packets goes on to the
next buffer where this one closed because it was full, and joins an earlier close (R418, R425). -/
def Dev.olClose (d : Dev) (o : Nat) (early : Bool) : Dev :=
  let x := d.ol o
  match x.buf with
  | none => d
  | some b =>
    if !d.canMaster then
      (d.setOl o { x with closeDue := true }).leaveL1
    else
      let desc := d.ringBase o + x.head.toNat % d.ringSize o * 32
      let w4 := w32 (2 ^ 31 + b.ue.toNat * 2 ^ 30 + b.loss.toNat * 2 ^ 29 + early.toNat * 2 ^ 28 + b.bytes)
      let d := d.hostWrite (desc + 16)
        (bytesOf w4 ++ bytesOf (w32 b.pkts) ++ bytesOf (w32 b.ueOfs) ++
          bytesOf (w32 (b.seqLast.toNat * 2 ^ 16 + b.seqFirst.toNat)))
      let head := x.head + 1
      let d := if d.rb (olAt o + 8) 0 then
          d.hostWrite (join64 (d.rd (olAt o + 0x1C)) (d.rd (olAt o + 0x18))).toNat (bytesOf (w32 head.toNat))
        else d
      let every := d.rf (olAt o + 8) 31 24
      let since := x.since + 1
      let d := d.setOl o { x with head := head, buf := none, since := since, bufs := x.bufs + 1, closeDue := false, kick := if early then 0 else x.kick }
      -- a close that leaves no descriptor raises the source once, for both (R420)
      let dry := d.olRunsDry o
      let d := d.setOl o { d.ol o with noDesc := x.noDesc || dry }
      if early || dry || (every != 0 && decide (every ≤ since)) then d.olRaise o else d

/-- A descriptor obeys R417. -/
def descOk (x : Nat × Nat) : Bool :=
  x.1 % 64 == 0 && x.2 % 64 == 0 && decide (16384 ≤ x.2) && decide (x.2 ≤ 4194304)

/-- A descriptor fetch ends (R417, R422): whether it recorded a state-changing fault, as a bit of OL_STAT. -/
def Dev.olFetched (d : Dev) (o : Nat) (l : List (Nat × Nat)) : Dev × Option Nat :=
  let x := d.ol o
  if d.ust (.outlet o) != .run then (d, none)
  else
    let held := x.descs.length + (if x.buf.isSome then 1 else 0)
    let room := min 8 ((x.tail - x.head).toNat - held)
    let l := l.take room
    if l.all descOk then (d.setOl o { x with descs := x.descs ++ l }, none)
    else (d.setOl o { x with descs := x.descs ++ l.takeWhile descOk }, some 18)

/-- A write to TAIL (R417, R425): the index, and whether it recorded DESC_ERR. -/
def Dev.olTail (d : Dev) (o : Nat) (i : BitVec 16) : Dev × Option Nat :=
  let x := { d.ol o with tail := i }
  let d := (d.setOl o { x with noDesc := x.noDesc && i == x.head }).olDry o
  (d, if d.ringSize o < (i - x.head).toNat then some 18 else none)

/-- Open a buffer on the next descriptor, where one is posted and fetched (R418, R420). -/
def Dev.olOpen (d : Dev) (o : Nat) : Dev :=
  let x := d.ol o
  if x.buf.isSome then d
  else if x.head = x.tail then d
  else
    match x.descs with
    | [] => d
    | (a, n) :: rest => d.setOl o { x with descs := rest, buf := some { addr := a, len := n, openAt := d.now } }

/-- Take a whole packet from the head of a queue. -/
def Dev.takePacket (d : Dev) (q : Nat) : Dev :=
  let x := d.queue q
  d.setQueue q { x with pkts := headIn x.pkts.tail, rd := 0, lossTag := false }

/-- An outlet in RUN has a buffer, or a descriptor for one. -/
def Dev.olReady (d : Dev) (o : Nat) : Bool :=
  let x := d.ol o
  d.ust (.outlet o) == .run && (x.buf.isSome || (x.head != x.tail && x.descs != []))

/-- A TLP is pending: a packet that an outlet can deliver, a closure that waits, or an owed message (R415). -/
def Dev.outbound (d : Dev) : Bool :=
  (List.range 16).any (fun o => (d.ol o).closeDue || (d.olReady o && (match d.olQueues o with
    | [q] => (d.queue q).pkts != []
    | _ => false))) || (d.ic.owed && d.canSend)

/-- The head packet of the outlet's queue is delivered and acknowledged (R418, R420). -/
def Dev.olDeliver (d : Dev) (o : Nat) : Dev :=
  match d.olQueues o with
  | [q] =>
    match (d.queue q).pkts with
    | [] => d
    | p :: _ =>
      if d.ust (.outlet o) != .run || !d.canMaster then (if d.olReady o then d.leaveL1 else d)
      else
        let size := 4 * p.items.length
        let fits := match (d.ol o).buf with | some b => decide (b.bytes + size ≤ b.len) | none => true
        let d := if fits then d else d.olClose o false
        let d := d.olOpen o
        match (d.ol o).buf with
        | none => d
        | some b =>
          let loss := (d.queue q).lossTag
          let d := d.hostWrite (b.addr + b.bytes) ((List.range p.items.length).flatMap (fun i => bytesOf (p.item i)))
          let ue := p.ue != []
          let b := { b with
            bytes := b.bytes + size, pkts := b.pkts + 1, ue := b.ue || ue,
            ueOfs := if ue && !b.ue then b.bytes + 12 * (p.ue.foldl min (p.ue.headD 0)) else b.ueOfs,
            loss := b.loss || loss, seqFirst := if b.pkts = 0 then p.seq else b.seqFirst, seqLast := p.seq }
          let x := d.ol o
          let d := d.setOl o { x with buf := some b, kick := x.kick - 1 }
          let d := { d with host := { d.host with dmaBytes := d.host.dmaBytes + w32 size } }
          let d := if ue then d.wb (olAt o + 0x48) 17 true else d
          let d := if loss then d.wb (olAt o + 0x48) 16 true else d
          let d := d.takePacket q
          if x.kick = 1 then d.olClose o true else d
  | _ => d

/-- A timer kick (R319, R418, R425): the buffer closes after the packets that the queue holds now. -/
def Dev.olKick (d : Dev) (o : Nat) : Dev :=
  let x := d.ol o
  if x.buf.isNone || d.ust (.outlet o) != .run then d
  else
    let n := match d.olQueues o with | [q] => (d.queue q).pkts.length | _ => 0
    if n = 0 then d.olClose o true else d.setOl o { x with kick := n }

/-- The outlet enters or leaves RUN (R417, R418, R422). -/
def Dev.olLeave (d : Dev) (o : Nat) (b a : UState) : Dev :=
  if a == .run then
    (d.setOl o { bufs := (d.ol o).bufs }).olDry o
  else if b == .run && a != .fault then d.olClose o true
  else d

/-- The function can master again: closures that fell due take place (R421), but those of an outlet in FAULT (R422). -/
def Dev.olResume (d : Dev) : Dev :=
  if d.canMaster then forRange 16 (fun o (d : Dev) => if (d.ol o).closeDue && d.ust (.outlet o) != .fault then d.olClose o true else d) d else d

/-- Outlets are stopped (R421). -/
def Dev.olStopped (d : Dev) : Bool := !d.mayMaster

end Sys2Proof.Machine
end

