-- ==== Sys2Proof/Machine/FloatOps.lean ====
section
/-! DEFINITION. Floats: fresh starts, gates, the condition test, the six kinds, trips and records (R241–R260). -/

namespace Sys2Proof.Machine

def Dev.fl (d : Dev) (i : Nat) : FloatDyn := SMap.get {} d.floats i
def Dev.setFl (d : Dev) (i : Nat) (x : FloatDyn) : Dev := { d with floats := SMap.put {} d.floats i x }
def Dev.updFl (d : Dev) (i : Nat) (f : FloatDyn → FloatDyn) : Dev := d.setFl i (f (d.fl i))

/-- The Float's slot (R14). -/
def flAt (i : Nat) : Nat := (Un.float i).addr

def Dev.flKind (d : Dev) (i : Nat) : Nat := d.rf (flAt i + 8) 30 28
def Dev.flQty (d : Dev) (i : Nat) : Nat := d.rf (flAt i + 8) 25 24
def Dev.flAct (d : Dev) (i : Nat) : Nat := d.rf (flAt i + 8) 23 22
def Dev.flSense (d : Dev) (i : Nat) : Nat := d.rf (flAt i + 8) 21 20
def Dev.flGmode (d : Dev) (i : Nat) : Nat := d.rf (flAt i + 0xC) 1 0
def Dev.flHi (d : Dev) (i : Nat) : Int := (d.rd (flAt i + 0x18)).toInt
def Dev.flLo (d : Dev) (i : Nat) : Int := (d.rd (flAt i + 0x1C)).toInt
def Dev.flHyst (d : Dev) (i : Nat) : Int := d.rf (flAt i + 0x20) 30 0
def Dev.flTime (d : Dev) (i : Nat) : Nat := d.rf (flAt i + 0x24) 23 0
def Dev.flSign (d : Dev) (i : Nat) : Nat := d.rf (flAt i + 0x28) 1 0

/-- Set a bit of FL_FAULT. -/
def Dev.flFault (d : Dev) (i b : Nat) : Dev := d.wb (flAt i + 0x70) b true

/-- An output that decided a trip or belonged to its episode carried OVL (R252). A trip without a record, by ACT = 0 or by the
holdoff, counts here too (DEDUCED, notes/assumptions/93). -/
def Dev.flOvl (d : Dev) (i : Nat) (ovl : Bool) : Dev := if ovl then d.flFault i 3 else d

/-- A Float's record (R252): SEQ, the trips suppressed since its last record, the type-specific bits. -/
def Dev.flRec (d : Dev) (i type flags low : Nat) (t : Time) (p6 p7 : Word) (ovl : Bool) : Dev :=
  let x := d.fl i
  let d := d.setFl i { x with supp := 0 }
  let d := d.flOvl i ovl
  d.record (d.rf (flAt i + 8) 9 0) (some (.float i)) type (flags + ovl.toNat * 0x20) (0x5000 + i) t
    (w32 (x.seq.toNat * 2 ^ 16 + x.supp * 2 ^ 8 + low)) p6 p7

/-- Item 5 [0] of a DWELL record (R253). -/
def dwellSense (s : Nat) : Nat := if s = 0 ∨ s = 3 then 1 else 0

/-- A trip (R250, R251): SEQ, the holdoff, the record and the latch. An INTERMIT Float latches after its end record. -/
def Dev.flTrip (d : Dev) (i type low : Nat) (t : Time) (p6 p7 : Word) (ovl : Bool) : Dev × Bool :=
  let d := (d.updFl i (fun x => { x with seq := x.seq + 1 })).flOvl i ovl
  let x := d.fl i
  let hold := d.rf (flAt i + 0x14) 23 0 * 1000
  let early := match x.lastTrip with | some t0 => decide ((t - t0).toNat < hold) | none => false
  if early then
    ((((d.setFl i { x with supp := satU 8 (x.supp + 1) }).count (flAt i + 0x6C) 15 0).flFault i 0), false)
  else
    let own := type == 3 || type == 4
    let d := d.setFl i { x with lastTrip := some t, count := if own then x.count else x.count + 1 }
    let d := if d.flAct i = 0 then d else d.flRec i type 0 low t p6 p7 ovl
    (if d.flAct i = 2 && type != 6 then d.updFl i (fun x => { x with latched := true }) else d, true)

/-- An episode in progress is cut (R256). Where its trip was recorded it gets an end record with CUT: of INTERMIT as R253 lays end
records out, of DWELL, for which R253 gives no other layout, with the items of its trip (DEDUCED, notes/assumptions/93). An
INTERMIT Float with ACT = 2 latches after it (R251). -/
def Dev.flCut (d : Dev) (i : Nat) (write : Bool) : Dev :=
  match (d.fl i).ep with
  | none => d
  | some e =>
    let d := d.updFl i (fun x => { x with ep := none })
    if !write then d
    else
      let d := d.flFault i 1
      if !e.recorded || d.flAct i == 0 then d
      else
        match d.flKind i with
        | 2 => d.flRec i 2 0x0C (dwellSense (d.flSense i)) e.last (wInt e.d0) (wInt e.dmax) e.ovl
        | 6 =>
          let d := d.flRec i 6 0x0C 1 e.last (wInt e.dmax) (w32 e.len) e.ovl
          if d.flAct i = 2 then d.updFl i (fun x => { x with latched := true }) else d
        | _ => d

/-- A fresh start (R243), whatever the Float's state. -/
def Dev.flFresh (d : Dev) (i : Nat) : Dev :=
  (d.flCut i true).updFl i (fun x =>
    { x with fresh := true, c := false, lvl := 1, hist := [], base := none, pat := none, mism := [], latched := false,
             cntOvl := false, count := if d.flKind i = 3 then 0 else x.count })

/-- The Float evaluates: it is in RUN, and no record of this cycle has found its queue full (R255). -/
def Dev.flRuns (d : Dev) (i : Nat) : Bool := d.ust (.float i) == .run && !d.holds.contains (.float i)

/-- The gate is open (R248): always in GMODE 0, and else from an opening edge to the next closing one, for the outputs that the
Float has reached. -/
def Dev.flOpen (d : Dev) (i : Nat) : Bool := d.flGmode i == 0 || (d.fl i).gate

/-! ### The condition test -/

/-- C after an output, with hysteresis unless it is the first after a fresh start (R243, R244). -/
def condNext (sense : Nat) (hi lo hyst : Int) (first c : Bool) (x : Int) : Bool :=
  let h := if first then 0 else hyst
  let c := if first then false else c
  match sense with
  | 1 => if c then !decide (x < hi - h) else decide (hi < x)
  | 2 => if c then !decide (lo + h < x) else decide (x < lo)
  | 3 => if c then !decide (lo + h < x ∧ x < hi - h) else decide (hi < x ∨ x < lo)
  | _ =>
    -- Inside is the complement of Outside
    if first then !decide (hi < x ∨ x < lo)
    else if c then !decide (hi < x ∨ x < lo) else decide (lo + h < x ∧ x < hi - h)

/-- Level of an output with hysteresis (R247). -/
def levelNext (hi lo hyst : Int) (first : Bool) (lvl : Nat) (x : Int) : Nat :=
  if x < lo then 0
  else if hi < x then 2
  else if first then 1
  else if lvl = 0 ∧ ¬lo + hyst < x then 0
  else if lvl = 2 ∧ ¬x < hi - hyst then 2
  else 1

/-- A signed quantity exceeds a limit in the direction of SIGN (R245, R246). -/
def signOver (sign : Nat) (v lim : Int) : Bool :=
  match sign with
  | 0 => decide (lim < v)
  | 1 => decide (v < -lim)
  | _ => decide (lim < v.natAbs)

/-- WINDOW: item 5 [1:0] and the threshold crossed (R253). Of two thresholds equally near it is LO + HYST, and of two that an
output lies beyond HI (DESIGN CHOICE, notes/assumptions/90). -/
def windowItems (sense : Nat) (hi lo hyst x : Int) : Nat × Int :=
  match sense with
  | 0 => (0, if (x - (lo + hyst)).natAbs ≤ ((hi - hyst) - x).natAbs then lo + hyst else hi - hyst)
  | 1 => (1, hi)
  | 2 => (2, lo)
  | _ => if hi < x then (1, hi) else (2, lo)

/-- An output as a Float receives it (R241). -/
structure FOut where
  t : Time
  x : Int
  ph : PhStamp
  ovl : Bool
  deriving DecidableEq, Repr

/-! ### The kinds -/

def Dev.flCond (d : Dev) (i : Nat) (o : FOut) : Dev × Bool × Bool :=
  let x := d.fl i
  let c := condNext (d.flSense i) (d.flHi i) (d.flLo i) (d.flHyst i) x.fresh x.c o.x
  (d.setFl i { x with c := c }, c, c && (x.fresh || !x.c))

def Dev.flWindow (d : Dev) (i : Nat) (o : FOut) : Dev :=
  let (d, _, entry) := d.flCond i o
  if entry then
    let (low, thr) := windowItems (d.flSense i) (d.flHi i) (d.flLo i) (d.flHyst i) o.x
    (d.flTrip i 1 low o.t (wInt o.x) (wInt thr) o.ovl).1
  else d

def Dev.flDwell (d : Dev) (i : Nat) (o : FOut) : Dev :=
  let (d, c, _) := d.flCond i o
  let x := d.fl i
  if c then
    let e : Episode := match x.ep with
      | some e => { e with len := e.len + 1, last := o.t, ovl := e.ovl || o.ovl }
      | none => { t0 := o.t, len := 1, d0 := 0, dmax := 0, last := o.t, ovl := o.ovl }
    let us := (o.t - e.t0).toNat
    if !e.tripped && decide (d.flTime i * 1000 ≤ us) then
      let e := { e with tripped := true, d0 := o.x, dmax := (us / 1000 : Nat) }
      let r := (d.setFl i { x with ep := some e }).flTrip i 2 (dwellSense (d.flSense i)) e.t0 (wInt o.x) (w32 (us / 1000)) e.ovl
      r.1.updFl i (fun x => { x with ep := some { e with recorded := r.2 } })
    else d.setFl i { x with ep := some e }
  else d.setFl i { x with ep := none }

/-- Gate open time before a stamp in µs (R253). -/
def Dev.flOpenUs (d : Dev) (i : Nat) (t : Time) : Word :=
  if d.flGmode i = 0 then 0 else w32 (satU 32 ((t - (d.fl i).openAt).toNat / 1000))

def Dev.flCountKind (d : Dev) (i : Nat) (o : FOut) : Dev :=
  let (d, _, entry) := d.flCond i o
  if entry then
    let n := (d.fl i).count + 1
    let w := d.rd (flAt i + 0x28)
    let ovl := (d.fl i).cntOvl || o.ovl
    if !bit w 4 && decide (n.toNat = fld w 31 16) then
      ((d.updFl i (fun x => { x with count := 0, cntOvl := false })).flTrip i 3 0 o.t n (d.flOpenUs i o.t) ovl).1
    else d.updFl i (fun x => { x with count := n, cntOvl := ovl })
  else d

/-- Segment of a fraction (R247): the last segment whose start does not lie above it, else the last of the turn before. -/
def segOf (pos : List Nat) (f : Nat) : Nat :=
  match ((List.range pos.length).filter (fun s => decide (pos.getD s 0 ≤ f))).getLast? with
  | some s => s
  | none => pos.length - 1

/-- The turn of a pattern that starts at fraction `p0` (R247), by its 16-bit number. -/
def patTurn (p0 : Nat) (pos : BitVec 48) : Nat := (pos.toNat + 2 ^ 48 - p0) / 2 ^ 32 % 65536

/-- Between two instants no reverse travel and no jump lies in a turn (R166, R247). -/
def Dev.turnSteady (d : Dev) (p0 turn : Nat) (t0 : Time) (pos0 : BitVec 48) (t1 : Time) (pos1 : BitVec 48) : Bool :=
  let ks := (((d.cps.hist.map (·.t) ++ d.cps.ents.map (·.t)).filter (fun k => decide (t0 < k) && decide (k ≤ t1))).map
    (·.toNat)).dedup.insertionSort (· ≤ ·)
  let ps := (pos0, true) :: ks.map (fun k => ((d.phaseAt (BitVec.ofNat 64 k)).pos,
    !d.jumped (BitVec.ofNat 64 (k - 1)) (BitVec.ofNat 64 k))) ++ [(pos1, true)]
  (ps.zip ps.tail).all (fun q =>
    (q.2.2 && decide (0 ≤ phDiff q.1.1 q.2.1)) || !(patTurn p0 q.1.1 == turn || patTurn p0 q.2.1 == turn))

/-- PATTERN (R247). An output without a phase has no place in a turn: it makes the one in progress incomplete. A turn keeps its
mismatch when the phase leaves it and comes back, until its number lies half the range behind; behind a jump another turn may
have its number, and only the turn that goes on keeps it. -/
def Dev.flPattern (d : Dev) (i : Nat) (o : FOut) : Dev :=
  let a := flAt i
  let x := d.fl i
  let lvl := levelNext (d.flHi i) (d.flLo i) (d.flHyst i) x.fresh x.lvl o.x
  if o.ph.st = 3 then d.setFl i { x with lvl := lvl, pat := x.pat.map (fun p => { p with ok := false }) }
  else
    let nseg := d.rf (a + 0x34) 18 16 + 1
    let pos := (List.range nseg).map (fun s => (d.rd (a + 0x3C + 4 * s)).toNat)
    let p0 := pos.getD 0 0
    let f := o.ph.pos.toNat % 2 ^ 32
    let s := segOf pos f
    let turn := patTurn p0 o.ph.pos
    let apart := match x.pat with | some p => d.jumped p.last o.t | none => false
    let same := fun (m : Nat) => x.pat.any (fun p => p.turn == m) && turn == m
    let d := d.setFl i { x with lvl := lvl, seg := s, mism := x.mism.filter (fun m =>
      if apart then same m else decide ((turn + 65536 - m) % 65536 ≠ 32768)) }
    let steady := fun (n : Nat) => match x.pat with | some p => d.turnSteady p0 n p.last p.pos o.t o.ph.pos | none => true
    let here : PatTurn := { turn := turn, ok := steady turn, last := o.t, pos := o.ph.pos }
    -- the turn before ends
    let (d, p) : Dev × PatTurn :=
      match x.pat with
      | none => (d, here)
      | some p =>
        if p.turn = turn then (d, { p with ok := p.ok && here.ok, last := o.t, pos := o.ph.pos })
        else
          let whole := p.ok && steady p.turn && decide (0 < phDiff p.pos o.ph.pos) && (List.range nseg).all p.segs.contains
          let d := if whole then d.updFl i (fun x => { x with count := x.count + 1 }) else d
          let d := if whole && !x.mism.contains p.turn && d.rb (a + 0x28) 3 then
              (d.flTrip i 4 ((Config.patternMatch p.turn).toNat * 2 + 1) o.t 0 (w32 p.turn) (p.ovl || o.ovl)).1
            else d
          (d, here)
    let past := (f + 2 ^ 32 - pos.getD s 0) % 2 ^ 32
    let checked := o.ph.st == 0 && decide (d.rf (a + 0x38) 31 0 ≤ past)
    let want := d.rf (a + 0x34) (2 * s + 1) (2 * s)
    let p := { p with ok := p.ok && o.ph.st == 0, ovl := p.ovl || o.ovl,
                      segs := if checked && !p.segs.contains s then p.segs ++ [s] else p.segs }
    let bad := checked && want != 3 && want != lvl && !(d.fl i).mism.contains turn
    let d := d.updFl i (fun x => { x with pat := some p, mism := if bad then turn :: x.mism else x.mism })
    if bad && !d.rb (a + 0x28) 3 then (d.flTrip i 4 (s * 32 + want * 8 + lvl * 2) o.t (wInt o.x) (w32 turn) o.ovl).1
    else d

def Dev.flSlope (d : Dev) (i : Nat) (o : FOut) : Dev :=
  let x := d.fl i
  let k := d.rf (flAt i + 0x28) 15 8
  let d1 := d.setFl i { x with hist := (⟨o.x, o.ovl⟩ :: x.hist).take k }
  match x.hist[k - 1]? with
  | none => d1
  | some old =>
    let dl := o.x - old.v
    let lim := d.flHi i
    let c := if x.c then signOver (d.flSign i) dl (lim - d.flHyst i) else signOver (d.flSign i) dl lim
    let d1 := d1.updFl i (fun x => { x with c := c })
    if c && !x.c then
      (d1.flTrip i 5 (if dl < 0 then 1 else 0) o.t (wInt dl) (w32 k) (o.ovl || old.ovl)).1
    else d1

def Dev.flIntermit (d : Dev) (i : Nat) (o : FOut) : Dev :=
  let a := flAt i
  let x := d.fl i
  let b := if d.rb (a + 0x30) 12 then d.flLo i else x.base.getD o.x
  let dv := o.x - b
  let sign := d.flSign i
  let lim := d.flHi i
  let long := d.rf (a + 0x2C) 23 0
  let track := fun (d : Dev) =>
    let b' := if d.rb (a + 0x30) 12 then b else b + Int.tdiv (o.x - b) (2 ^ d.rf (a + 0x30) 4 0)
    d.updFl i (fun x => { x with base := some b', bval := wInt b' })
  let inEp := fun (e : Episode) (d : Dev) =>
    let d := d.updFl i (fun x => { x with ep := some e, base := some b, bval := wInt b, c := true })
    let (d, e) :=
      if !e.tripped && e.len == d.flTime i then
        let r := (d.updFl i (fun x => { x with ep := some { e with tripped := true } })).flTrip i 6 0 e.t0 (wInt e.d0) 1 e.ovl
        (r.1.updFl i (fun x => { x with ep := some { e with tripped := true, recorded := r.2 } }),
         { e with tripped := true, recorded := r.2 })
      else (d, e)
    if e.tripped && !e.longSent && long != 0 && e.len == long then
      let d := (d.updFl i (fun x => { x with ep := some { e with longSent := true } })).flFault i 2
      if d.flAct i = 0 then d else d.flRec i 6 0 2 o.t (wInt e.dmax) (w32 e.len) e.ovl
    else d
  match x.ep with
  | some e =>
    if signOver sign dv (lim - d.flHyst i) then
      inEp { e with len := e.len + 1, dmax := if e.dmax.natAbs < dv.natAbs then dv else e.dmax, last := o.t,
                    ovl := e.ovl || o.ovl } d
    else
      let d := d.updFl i (fun x => { x with ep := none, c := false })
      let d := if e.recorded && d.flAct i != 0 then d.flRec i 6 8 1 o.t (wInt e.dmax) (w32 e.len) (e.ovl || o.ovl) else d
      let d := if e.recorded && d.flAct i == 2 then d.updFl i (fun x => { x with latched := true }) else d
      track d
  | none =>
    if signOver sign dv lim then inEp { t0 := o.t, len := 1, d0 := dv, dmax := dv, last := o.t, ovl := o.ovl } d
    else track d

/-- A gate edge is applied when the first output at or after it arrives, whatever the Float's state (R248, R249). -/
def Dev.flEdge (d : Dev) (i : Nat) (t : Time) (opening : Bool) : Dev :=
  let x := d.fl i
  if opening then
    if x.gate then d else (d.flFresh i).updFl i (fun x => { x with gate := true, openAt := t })
  else if !x.gate then d
  else
    let d :=
      if d.flRuns i && d.flKind i == 3 && d.rb (flAt i + 0x28) 4 && !x.latched then
        (d.flTrip i 3 1 t x.count (d.flOpenUs i t) x.cntOvl).1
      else d
    (d.flCut i true).updFl i (fun x => { x with gate := false })

/-- The gate state after every edge noted so far. -/
def FloatDyn.gateSoon (x : FloatDyn) : Bool := match x.edges.getLast? with | some e => e.2 | none => x.gate

/-- A gate edge is noted (R249): at most 16 that no output has reached. -/
def Dev.flEdgeIn (d : Dev) (i : Nat) (t : Time) (opening : Bool) : Dev :=
  let x := d.fl i
  if x.gateSoon = opening then d
  else if 16 ≤ x.edges.length then (d.count (flAt i + 0x6C) 31 16).flFault i 4
  else d.setFl i { x with edges := x.edges ++ [(t, opening)], openEdge := if opening then some t else none }

/-- Gate edges of one cycle: the closing edge acts first and the opening edge second, in whichever order they come (R249). -/
def Dev.flAddEdge (d : Dev) (i : Nat) (t : Time) (opening : Bool) : Dev :=
  let x := d.fl i
  if opening then (d.flEdgeIn i t true).updFl i (fun x => { x with lastOpen := some t })
  else if x.lastOpen = some t then
    -- the gate was closed before this cycle, or closes and opens again
    if x.openEdge = some t ∨ x.edges.getLast? = some (t, true) ∨ x.gateSoon = false then d else (d.flEdgeIn i t false).flEdgeIn i t true
  else d.flEdgeIn i t false

/-- FL_DUR has passed since the opening in GMODE 2: the closing edge at that instant (R248). -/
def Dev.flDurEnd (d : Dev) (i : Nat) : Dev :=
  match (d.fl i).openEdge with
  | some t =>
    if d.flGmode i == 2 then
      (d.updFl i (fun x => { x with openEdge := none })).flAddEdge i (t + BitVec.ofNat 64 (d.rf (flAt i + 0x10) 23 0 * 1000)) false
    else d
  | none => d

/-- A gate whose duration has passed at an instant closes, whether or not its row has come. -/
def Dev.flDurBy (d : Dev) (i : Nat) (t : Time) : Dev :=
  match (d.fl i).openEdge with
  | some t0 => if d.rf (flAt i + 0x10) 23 0 * 1000 + t0.toNat ≤ t.toNat then d.flDurEnd i else d
  | none => d

/-- The gate edges that an output has reached act (R248). -/
def Dev.flReach (d : Dev) (i : Nat) (t : Time) : Dev :=
  let d := d.flDurBy i t
  let due := (d.fl i).edges.takeWhile (fun e => decide (e.1 ≤ t))
  due.foldl (fun (d : Dev) e => d.flEdge i e.1 e.2) (d.updFl i (fun x => { x with edges := x.edges.drop due.length }))

/-- A Float takes an output (R241), and evaluates it in RUN with its gate open and no latch (R242, R251). -/
def Dev.flOutput (d : Dev) (i : Nat) (o : FOut) : Dev :=
  let d := d.flReach i o.t
  if !d.flRuns i || !d.flOpen i || (d.fl i).latched then d
  else
    let kind := d.flKind i
    let d := if kind = 6 then d else d.updFl i (fun x => { x with bval := wInt o.x })
    let d :=
      match kind with
      | 1 => d.flWindow i o
      | 2 => d.flDwell i o
      | 3 => d.flCountKind i o
      | 4 => d.flPattern i o
      | 5 => d.flSlope i o
      | 6 => d.flIntermit i o
      | _ => d
    d.updFl i (fun x => { x with fresh := false })

/-- A mark fires: the closing edge acts first (R248, R249). -/
def Dev.flMark (d : Dev) (i m : Nat) (t : Time) : Dev :=
  let g := d.rd (flAt i + 0xC)
  let d := if fld g 1 0 = 1 ∧ fld g 31 24 = m then d.flAddEdge i t false else d
  if fld g 1 0 ≠ 0 ∧ fld g 23 16 = m then (d.flDurBy i t).flAddEdge i t true else d

/-- Every Float with a gate sees a mark's fire cycle. -/
def Dev.flMarkAll (d : Dev) (m : Nat) (t : Time) : Dev :=
  forEach ((SMap.keys d.regs).filterMap (fun a => match Un.ofAddr (a - 0xC) with | some (.float i) => some i | _ => none))
    (fun i (d : Dev) => d.flMark i m t) d

/-- A Float enters or leaves RUN (R243, R256). A reset ends episodes without a record. -/
def Dev.flLeave (d : Dev) (i : Nat) (b a : UState) : Dev :=
  if a == .run then d.flFresh i else if b == .run then d.flCut i (a != .off) else d

end Sys2Proof.Machine
end

