-- ==== Sys2Proof/Machine/ReedbedOps.lean ====
section
/-! DEFINITION. Reedbed: stages, restarts, gaps, outputs, blocks and the Ocpen window (R218–R240, R303–R306). -/

namespace Sys2Proof.Machine

def rbPage (c : Nat) : Nat := 0x101000 + c * 0x10000
def rbcPage (c : Nat) : Nat := 0x102000 + c * 0x10000

/-- Stream k's slot (R238). -/
def rbSlot (c k : Nat) : Nat := rbPage c + 0x80 + k * 0x10

def Dev.strm (d : Dev) (c k : Nat) : StreamDyn := SMap.get {} d.streams (64 * c + k)
def Dev.setStrm (d : Dev) (c k : Nat) (x : StreamDyn) : Dev := { d with streams := SMap.put {} d.streams (64 * c + k) x }
def Dev.updStrm (d : Dev) (c k : Nat) (f : StreamDyn → StreamDyn) : Dev := d.setStrm c k (f (d.strm c k))

def Dev.reed (d : Dev) (c : Nat) : Reed := SMap.get {} d.reeds c
def Dev.setReed (d : Dev) (c : Nat) (x : Reed) : Dev := { d with reeds := SMap.put {} d.reeds c x }

/-- The channel of a stream (R218). -/
def streamChan (c k : Nat) : Nat := 32 * c + k / 2

/-- Configuration of a stream (R238). -/
structure RbCfg where
  mode : Nat
  rsSet : Nat
  firSet : Nat
  fir : Bool
  m : Nat
  rank : Nat
  len : Nat
  clip : Bool
  en : Bool
  deriving DecidableEq, Repr

def rbCfgOf (w : Word) : RbCfg :=
  { mode := fld w 30 29, rsSet := fld w 28 28, firSet := fld w 27 26, fir := bit w 25, m := fld w 23 12 + 1,
    rank := fld w 11 8, len := if fld w 7 4 = 0 then 1 else fld w 7 4, clip := fld w 3 2 == 1, en := bit w 0 }

def Dev.rbCfg (d : Dev) (c k : Nat) : RbCfg := rbCfgOf (d.rd (rbSlot c k))

/-- Group delay of stages 1 and 2, and of the whole chain, in µs (R228). -/
def RbCfg.delay12 (g : RbCfg) : Nat := (g.len - 1) / 2 + 2 * (g.m - 1) + (if g.fir then 31 * g.m else 0)
def RbCfg.delay (g : RbCfg) : Nat := g.delay12 + (if g.mode = 0 then 0 else 16 * g.m)

/-- PH_LAG (R229). -/
def Dev.phLag (d : Dev) (c k : Nat) : Nat :=
  cdiv (((d.rbCfg c k).delay * 1000 + 1650) * (d.rd (rbPage c + 0x44)).toNat) 1000

/-- The Reedbed processes (R220). -/
def Dev.rbOn (d : Dev) (c : Nat) : Bool :=
  let s := d.ust (.camp c)
  d.rb (rbPage c + 0x40) 0 && (s == .ready || s == .run || s == .held) && !(d.reed c).loading

/-- A channel is biased (R139, R220). -/
def UState.biased : UState → Bool
  | .ready | .run | .held => true
  | _ => false

/-! ### Coefficients (R232–R235) -/

/-- Reserved addresses of the image. -/
def coefReserved (a : Nat) : Bool := decide ((0x80 ≤ a ∧ a < 0x100) ∨ 0x8100 ≤ a)

/-- Addresses of the coefficients that meet a constant input together: the stored taps of FIR set 0, of which each but the centre
acts twice (R223, R232), or the two residues of a prototype whose 32 taps the resampler adds up at one instant (R225). The last is
the one nearest the centre. -/
def coefClass (a : Nat) : List Nat :=
  if a < 0x80 then List.range 32
  else
    let i := (a - 0x100) % 0x4000
    let r := min (i % 1024) (1023 - i % 1024)
    (List.range 16).flatMap (fun m => [a - i + 1024 * m + r, a - i + 1024 * m + (1023 - r)])

/-- The free factory coefficients of a class give a constant input the gain 1: within 2⁻²⁰ of it no other sum of multiples of 2⁻¹⁸
lies (R221). -/
def gainOne (cl : List Nat) : Bool :=
  let v := fun (a : Nat) => (Config.factoryCoef a).toInt
  (if cl.headD 0 < 0x80 then 2 * (cl.map v).sum - v 31 else (cl.map v).sum) == 0x40000

/-- The factory image: FIR set 1 is the identity, sets 2 and 3 are copies of set 0 (R234). The other coefficients are free among those
that keep the chain's gain at DC (R221): a class of them that does not keep it counts as its centre alone. -/
def factoryAt (a : Nat) : BitVec 20 :=
  if a / 32 = 1 then (if a % 32 = 31 then 0x40000 else 0)
  else
    let a := if a < 0x80 then a % 32 else a
    let cl := coefClass a
    if gainOne cl then Config.factoryCoef a else if cl.getLast? = some a then 0x40000 else 0

/-- A coefficient of a copy of the image. -/
def coefAt (m : SMap (BitVec 20)) (a : Nat) : BitVec 20 := (SMap.find? m a).getD (factoryAt a)

/-- The two copies differ (R240). -/
def Reed.dirty (r : Reed) : Bool :=
  (SMap.keys r.coefA ++ SMap.keys r.coefS).any (fun a => coefAt r.coefA a != coefAt r.coefS a)

/-! ### Blocks (R231) -/

/-- The stream's key in the fabric's loss notices: a block carries its channel as SOURCE, and QTY names the stream. -/
def blockSource (c k : Nat) : Nat := 0x10000 * (1 + k % 2) + 0x4000 + streamChan c k

/-- Close the open block of a stream and commit it. -/
def Dev.closeBlock (d : Dev) (c k : Nat) : Dev :=
  match (d.strm c k).blk with
  | none => d
  | some b =>
    let g := d.rbCfg c k
    let q := d.rf (rbSlot c k + 0xC) 9 0
    let loss := d.isLossDue (blockSource c k) q
    let d := d.setLossDue (blockSource c k) q false
    let spacing := match g.mode with
      | 0 | 1 => w32 (256000 * g.m)
      | _ => d.rd (rbSlot c k + 8)
    let i0 := (k % 2) * 2 ^ 31 + g.mode * 2 ^ 28 + b.ovl.toNat * 2 ^ 27 + loss.toNat * 2 ^ 26 + b.range * 2 ^ 24 +
      b.smp.length * 2 ^ 16 + 0x4000 + streamChan c k
    (d.updStrm c k (fun x => { x with blk := none })).hwCommit q
      ([w32 i0, lo32 b.t0, hi32 b.t0, b.ph0.1, b.ph0.2, spacing] ++ b.smp.reverse) 4 (blockSource c k)
      (some (.chan (streamChan c k)))

/-- The range of the stream's words (R148, R184). -/
def Dev.streamRange (d : Dev) (c k : Nat) : Nat := if k % 2 = 0 then d.chVr (streamChan c k) else d.chIr (streamChan c k)

/-- A sample joins the stream's block. -/
def Dev.addSample (d : Dev) (c k : Nat) (o : FOut) : Dev :=
  let out := d.rd (rbSlot c k + 0xC)
  if !bit out 31 then d
  else
    let r := d.streamRange c k
    let d := match (d.strm c k).blk with
      | some b => if b.st ≠ o.ph.st ∨ b.range ≠ r then d.closeBlock c k else d
      | none => d
    let b : Blk := match (d.strm c k).blk with
      | some b => { b with smp := wInt o.x :: b.smp, ovl := b.ovl || o.ovl }
      | none => { t0 := o.t, st := o.ph.st, range := r, ovl := o.ovl, ph0 := o.ph.items, smp := [wInt o.x] }
    let d := d.updStrm c k (fun x => { x with blk := some b })
    if fld out 24 16 ≤ b.smp.length then d.closeBlock c k else d

/-! ### Ocpen (R302–R305) -/

def Dev.ocEn (d : Dev) : Bool := d.rb 0x14048 31

/-- The window empties (R303). -/
def Dev.ocEmpty (d : Dev) : Dev := { d with fab := { d.fab with ocpen := { d.fab.ocpen with fifo := [] } } }

/-- An item enters the window, or is dropped and counted (R305), with the OCPEN record of R302. -/
def Dev.ocPut (d : Dev) (v : BitVec 16) : Dev :=
  let o := d.fab.ocpen
  if o.fifo.length < 16777216 then { d with fab := { d.fab with ocpen := { o with fifo := o.fifo ++ [v] } } }
  else
    let d := (d.count 0x14064 31 0).fault 0x14000 0
    if o.ovrOpen then { d with fab := { d.fab with ocpen := { o with ovrN := satU 32 (o.ovrN + 1) } } }
    else
      ({ d with fab := { d.fab with ocpen := { o with ovrOpen := true, ovrN := 0 } } } : Dev).fabRec 0x84 0x2000 1
        (w32 o.fifo.length) 0

/-- An output of a selected stream becomes an item (R304). -/
def Dev.ocOutput (d : Dev) (c k : Nat) (x : Int) : Dev :=
  if d.ocEn && decide (c < 2) && d.rb (0x1404C + 8 * c + 4 * (k / 32)) (k % 32) then
    let y := x / 2 ^ d.rf 0x14048 20 16
    d.ocPut (BitVec.ofInt 16 (if y > 32767 then 32767 else if y < -32767 then -32767 else y))
  else d

/-! ### Restarts and gaps (R230) -/

/-- The Floats that watch a stream (R241). -/
def Dev.watchers (d : Dev) (c k : Nat) : List Nat :=
  (List.range 4).filterMap (fun j =>
    let i := 4 * streamChan c k + j
    if d.flQty i = k % 2 then some i else none)

/-- A stream restarts: its block commits, its history clears, its Floats start afresh. -/
def Dev.restart (d : Dev) (c k : Nat) : Dev :=
  let d := d.closeBlock c k
  let d := d.setStrm c k { recv := (d.strm c k).recv, filling := (d.rbCfg c k).en }
  forEach (d.watchers c k) (fun i (d : Dev) => d.flFresh i) d

/-- A stream stops without a gap: RUN = 0, or a reset. -/
def Dev.stopStream (d : Dev) (c k : Nat) : Dev := (d.closeBlock c k).setStrm c k {}

/-- A gap of a stream begins (R230). -/
def Dev.gap (d : Dev) (c k : Nat) : Dev :=
  let x := d.strm c k
  if (d.rbCfg c k).en && x.recv then
    ((d.setStrm c k { x with recv := false }).count (rbPage c + 0x4C) 15 0).fault (rbPage c) 2
  else d.setStrm c k { x with recv := false }

/-- A channel stops being biased: its two streams have a gap. -/
def Dev.gapChan (d : Dev) (n : Nat) : Dev := (d.gap (n / 32) (2 * (n % 32))).gap (n / 32) (2 * (n % 32) + 1)

/-- A camp leaves READY, RUN and HELD: the streams that receive words have a gap, and waiting outputs are discarded. -/
def Dev.gapCamp (d : Dev) (c : Nat) : Dev :=
  forRange 64 (fun k (d : Dev) =>
    (if (d.strm c k).recv then d.gap c k else d).updStrm c k (fun x => { x with waits := [] })) d

/-- The Reedbed starts: each of its streams restarts, one whose channel is not biased too. -/
def Dev.startReed (d : Dev) (c : Nat) : Dev :=
  if d.rbOn c then forRange 64 (fun k (d : Dev) => d.restart c k) d else d

/-! ### Outputs -/

/-- An output leaves the engine (R228): to the Floats, the Ocpen window and a block. -/
def Dev.emit (d : Dev) (c k : Nat) (t : Time) (ph : PhStamp) (x : Int) (ovl : Bool) : Dev :=
  let o : FOut := ⟨t, x, ph, ovl⟩
  let d := d.updStrm c k (fun x => { x with filling := false })
  let d := forEach (d.watchers c k) (fun i (d : Dev) => d.flOutput i o) d
  (d.ocOutput c k x).addSample c k o

/-- An exact value over a denominator, as an output word of R221: itself where 8 fraction bits hold it, else one of its two
neighbours (DESIGN CHOICE, notes/assumptions/51). -/
def outWord (num : Int) (den : Nat) : Int :=
  let q := (num * 256).fdiv den
  let y := if (num * 256).fmod den = 0 then q else if Config.filterUp (num * 256) den then q + 1 else q
  if y > 2147483647 then 2147483647 else if y < -2147483647 then -2147483647 else y

/-- The (r + 1)-th smallest of a list. -/
def rankOf (r : Nat) (l : List Int) : Int := (l.insertionSort (· ≤ ·)).getD r 0

/-- Sums of M neighbours. -/
def boxSums (m : Nat) (l : List Int) : List Int := (List.range (l.length + 1 - m)).map (fun i => ((l.drop i).take m).sum)

/-- The CIC of order 4 on its whole window, times M⁴ (R223). -/
def cicSum (m : Nat) (l : List Int) : Int := (boxSums m (boxSums m (boxSums m (boxSums m l)))).headD 0

/-- The FIR on its 63 inputs, newest first, times 2¹⁸. -/
def firSum (cf : SMap (BitVec 20)) (set : Nat) (l : List Int) : Int :=
  ((List.range 63).map (fun j => (coefAt cf (32 * set + min j (62 - j))).toInt * l.getD j 0)).sum

/-- The resampler prototype h[i] (R225, R232). -/
def protoAt (cf : SMap (BitVec 20)) (set : Nat) (i : Int) : Int :=
  if i < 0 ∨ 32767 < i then 0
  else
    let j := i.toNat
    (coefAt cf (0x100 + 0x4000 * set + min j (32767 - j))).toInt

/-- The resampler on its 32 inputs, newest first, at `a` / `tt` of the interval after input n, times 2¹⁸ × 2 `tt`. -/
def resample (cf : SMap (BitVec 20)) (set : Nat) (l : List Int) (a tt : Nat) : Int :=
  ((List.range 32).map (fun (j : Nat) =>
    let m : Int := 16 - (j : Int)
    let idx : Int := 32767 * tt + 2048 * m * tt - 2048 * a
    let i0 := idx / (2 * tt)
    let r := idx % (2 * tt)
    (protoAt cf set i0 * (2 * tt - r) + protoAt cf set (i0 + 1) * r) * l.getD j 0)).sum

/-- The first instant in [lo, hi) at which the phase has reached P, by bisection. -/
def Dev.reach (d : Dev) (p : BitVec 48) : Nat → Nat → Nat → Nat
  | 0, _, hi => hi
  | fuel + 1, lo, hi =>
    if hi ≤ lo then hi
    else
      let mid := (lo + hi) / 2
      if 0 ≤ phDiff p (d.phaseAt (BitVec.ofNat 64 mid)).pos then d.reach p fuel lo mid else d.reach p fuel (mid + 1) hi

/-- The next grid point above a phase. The grid restarts at each wrap of the 48-bit phase, as marks do (R169, R224). -/
def gridNext (step l : Nat) : BitVec 48 :=
  let n := (l / step + 1) * step
  if 2 ^ 48 ≤ n then 0 else BitVec.ofNat 48 n

/-- `n` grid points are skipped (R226). The block of the outputs before them closes: at once, or with the last of them that waits
for its release (R231). -/
def Dev.skipPoints (d : Dev) (c k n : Nat) : Dev :=
  if n = 0 then d
  else
    let x := d.strm c k
    let d := match x.waits.reverse with
      | [] => d.closeBlock c k
      | o :: l => d.setStrm c k { x with waits := l.reverse ++ [{ o with cut := true }] }
    ((d.count (rbPage c + 0x48) 15 0 n).wb (rbPage c + 0x58 + 4 * (k / 32)) (k % 32) true).fault (rbPage c) 1

/-- Grid points above `l` up to and with `p` are skipped. -/
def Dev.skipTo (d : Dev) (c k step : Nat) (l p : BitVec 48) : Dev :=
  if phDiff l p ≤ 0 then d
  else d.skipPoints c k ((crossed l.toNat (phDiff l p)).map (gridCount 0 step)).sum

/-- The phase above which points are produced: where the phase comes from, or the last produced point where that lies ahead of it
after reverse travel (R227). -/
def Dev.gridFloor (d : Dev) (c k : Nat) (p : BitVec 48) : BitVec 48 :=
  match (d.strm c k).lastP with
  | some l => if 0 < phDiff p l then l else p
  | none => p

/-- Instants in (lo, hi) at which the phase may turn, jump or lose its history: edges and other entries of the history, entries
with a parity error, and the samples of the coarse history (R173). -/
def Dev.gridCuts (d : Dev) (lo hi : Nat) : List Nat :=
  let c := d.cps.hist.map (fun k => k.t.toNat) ++ d.cps.ents.flatMap (fun e => [e.t.toNat, e.t.toNat + 1])
  let f := d.cps.badFine.flatMap (fun b => [b * 1000, (b + 1) * 1000])
  let g := if 65536000 < d.now.toNat - lo then (List.range ((hi - lo) / 64000 + 1)).map (fun i => (lo / 64000 + 1 + i) * 64000) else []
  (((c ++ f ++ g).filter (fun t => decide (lo < t ∧ t < hi))).dedup).insertionSort (· ≤ ·)

/-- The output of a grid point waits for its release. -/
def Dev.gridOut (d : Dev) (y : Time → Int × Bool) (c k : Nat) (t : Time) (p : BitVec 48) : Dev :=
  let (v, ovl) := y t
  d.updStrm c k (fun x =>
    { x with lastP := some p, lastOut := some t, waits := x.waits ++ [{ t := t, p := p, y := wInt v, ovl := ovl }] })

/-- Grid points above `l` that the phase reaches in [lo, hi), where it neither turns nor jumps (R226, R227): an output for each, but
none within 1,000 ns of the last. -/
def Dev.gridPiece (y : Time → Int × Bool) (c k step hi : Nat) : Nat → Nat → BitVec 48 → Dev → Dev
  | 0, _, _, d => d
  | fuel + 1, lo, l, d =>
    let next := gridNext step l.toNat
    if phDiff next (d.phaseAt (BitVec.ofNat 64 (hi - 1))).pos < 0 then d
    else
      let t := d.reach next 64 lo hi
      let free := match (d.strm c k).lastOut with | some t0 => t0.toNat + 1000 | none => 0
      if t < free then
        let p := (d.phaseAt (BitVec.ofNat 64 (min (hi - 1) (free - 1)))).pos
        Dev.gridPiece y c k step hi fuel t p (d.skipTo c k step l p)
      else Dev.gridPiece y c k step hi fuel t next (d.gridOut y c k (BitVec.ofNat 64 t) next)

/-- Grid points of [lo, hi), which the phase crosses without a turn or a jump after `lo`. While Compass holds, and where no phase
is known, none is crossed; those that a jump at `lo` passes over are skipped, in a hold too (R227). -/
def Dev.gridSpan (d : Dev) (y : Time → Int × Bool) (c k step lo hi : Nat) : Dev :=
  let here := d.phaseAt (BitVec.ofNat 64 lo)
  let was := d.phaseAt (BitVec.ofNat 64 (lo - 1))
  if here.st = 3 then d
  else
    let jump := was.st != 3 && d.jumped (BitVec.ofNat 64 (lo - 1)) (BitVec.ofNat 64 lo)
    let land := (d.phaseFine (BitVec.ofNat 64 lo)).1.pos - 1
    let d := if jump then d.skipTo c k step (d.gridFloor c k was.pos) land else d
    if here.st = 1 then d
    else
      let base := if jump then land else if was.st = 3 then here.pos else was.pos
      Dev.gridPiece y c k step hi (2 * ((hi - lo) / 1000 + 2)) lo (d.gridFloor c k base) d

/-- Phase-grid outputs of the interval [lo, hi) of instants (R226, R227). -/
def Dev.gridPoints (d : Dev) (y : Time → Int × Bool) (c k step lo hi : Nat) : Dev :=
  if step = 0 then d
  else
    let cuts := d.gridCuts lo hi
    forEach ((lo :: cuts).zip (cuts ++ [hi])) (fun p (d : Dev) => d.gridSpan y c k step p.1 p.2) d

/-- The stamp of a phase-grid output carries the grid point itself. -/
def Dev.gridStamp (d : Dev) (o : GridOut) : PhStamp := { d.phaseAt o.t with pos := o.p }

/-- The phase at which a waiting output is released (R229). -/
def Dev.gridDue (d : Dev) (c k : Nat) (o : GridOut) : BitVec 48 := o.p + BitVec.ofNat 48 (d.phLag c k)

/-- The oldest waiting phase-grid output leaves. -/
def Dev.releaseFirst (d : Dev) (c k : Nat) : Dev :=
  match (d.strm c k).waits with
  | [] => d
  | o :: rest =>
    let ph := d.gridStamp o
    let d := (d.updStrm c k (fun x => { x with waits := rest })).emit c k o.t ph o.y.toInt o.ovl
    if o.cut then d.closeBlock c k else d

/-- The tracked phase has reached P + PH_LAG of the oldest waiting output: it is released (R229). -/
def Dev.releaseGrid (d : Dev) (c k : Nat) : Dev :=
  match (d.strm c k).waits with
  | o :: _ => if 0 ≤ phDiff (d.gridDue c k o) d.tracked.pos then d.releaseFirst c k else d
  | [] => d

/-- Outputs whose phase this cycle reaches are released, of every stream. -/
def Dev.releaseAll (d : Dev) : Dev :=
  forEach (d.streams.filter (fun e => e.2.waits ≠ [])) (fun e (d : Dev) =>
    forRange e.2.waits.length (fun _ (d : Dev) => d.releaseGrid (e.1 / 64) (e.1 % 64)) d) d

/-- The tracked phase had reached P + PH_LAG of an output before this cycle. -/
def Dev.gridPassed (d : Dev) (c k : Nat) (o : GridOut) : Bool :=
  let due := d.gridDue c k o
  decide (0 ≤ phDiff due d.cps.seen) ||
    d.cps.hist.any (fun n => decide (o.t ≤ n.t ∧ n.t < d.now) &&
      (decide (0 ≤ phDiff due (d.trackAt n.t).pos) || decide (0 ≤ phDiff due (d.trackAt (n.t - 1)).pos)))

/-- Outputs that complete after that moment are late, and leave at once (R229). `old` outputs waited before. -/
def Dev.releaseLate (d : Dev) (c k old : Nat) : Dev :=
  let late := (((d.strm c k).waits.drop old).filter (d.gridPassed c k)).length
  let d := if late = 0 then d
    else ((d.count (rbPage c + 0x48) 31 16 late).wb (rbPage c + 0x50 + 4 * (k / 32)) (k % 32) true).fault (rbPage c) 0
  let d := if late = 0 then d else forRange (old + late) (fun _ (d : Dev) => d.releaseFirst c k) d
  forRange (d.strm c k).waits.length (fun _ (d : Dev) => d.releaseGrid c k) d

/-- The resampler takes a stage 2 output with its instant in 2⁻⁸ ns (R224–R227). `den` is the denominator of its value. -/
def Dev.resampler (d : Dev) (c k : Nat) (g : RbCfg) (s : Nat) (y : Smp) (den : Nat) : Dev :=
  let x := d.strm c k
  let mid := (y :: x.mid).take 32
  let d := d.setStrm c k { x with mid := mid }
  if mid.length < 32 then d
  else
    let tt := 256000 * g.m
    -- the interval after input n, the 17th newest
    let sn := s - 16 * tt
    let vals := mid.map (·.v)
    let ovl := mid.any (·.ovl)
    let cf := (d.reed c).coefA
    let at_ := fun (a : Nat) => outWord (resample cf g.rsSet vals a tt) (den * 2 ^ 18 * (2 * tt))
    let put := fun (a : Nat) (d : Dev) =>
      let t := BitVec.ofNat 64 ((sn + a) / 256)
      (d.updStrm c k (fun x => { x with lastOut := some t })).emit c k t (d.phaseAt t) (at_ a) ovl
    match g.mode with
    | 1 => put (if k = 0 then 0 else tt - 4000 * k) d
    | 2 =>
      let step := (d.rd (rbSlot c k + 8)).toNat
      if step = 0 then d
      else
        let i0 := cdiv sn step
        forEach ((List.range (cdiv (sn + tt) step - i0)).map (fun j => (i0 + j) * step - sn)) put d
    | _ =>
      let lo := cdiv sn 256
      let hi := cdiv (sn + tt) 256
      let y := fun (t : Time) => (at_ (t.toNat * 256 - sn), ovl)
      (d.gridPoints y c k (d.rd (rbSlot c k + 8)).toNat lo hi).releaseLate c k x.waits.length

/-- A word n enters the slot of a stream whose engine runs (R222, R223, R228). -/
def Dev.streamWord (d : Dev) (c k n : Nat) (w : Smp) : Dev :=
  let g := d.rbCfg c k
  let x := d.strm c k
  let win := (w :: x.win).take g.len
  let d := d.setStrm c k { x with win := win }
  if win.length < g.len then d
  else
    let sel := rankOf g.rank (win.map (·.v))
    let mid := ((win.map (·.v))).getD ((g.len - 1) / 2) 0
    let v := if g.len = 1 then w.v
      else if g.clip then (if (mid - sel).natAbs > d.rf (rbSlot c k + 4) 23 0 then sel else mid) else sel
    let r : Smp := ⟨v, win.any (·.ovl)⟩
    let m := n - (g.len - 1) / 2
    let rk := (r :: x.rk).take (4 * (g.m - 1) + 1)
    let d := d.updStrm c k (fun x => { x with rk := rk })
    if m % g.m ≠ 0 ∨ rk.length < 4 * (g.m - 1) + 1 then d
    else
      let y1 : Smp := ⟨cicSum g.m (rk.map (·.v)), rk.any (·.ovl)⟩
      let dec := (y1 :: x.dec).take 63
      let d := d.updStrm c k (fun x => { x with dec := dec })
      if g.fir && decide (dec.length < 63) then d
      else
        let y2 : Smp := if g.fir then ⟨firSum (d.reed c).coefA g.firSet (dec.map (·.v)), dec.any (·.ovl)⟩ else y1
        let den := g.m ^ 4 * (if g.fir then 2 ^ 18 else 1)
        let s := n * 256000 + 4000 * k - g.delay12 * 256000
        if g.mode = 0 then
          let t := BitVec.ofNat 64 (s / 256)
          d.emit c k t (d.phaseAt t) (outWord y2.v den) y2.ovl
        else d.resampler c k g s y2 den

/-! ### The status page -/

/-- Some stream of the camp has restarted and not yet produced an output. -/
def Dev.rbFilling (d : Dev) (c : Nat) : Bool := (List.range 64).any (fun k => (d.strm c k).filling)

end Sys2Proof.Machine
end

