-- ==== Sys2Proof/Machine/Binary32.lean ====
section
/-! DEFINITION. Exact values as IEEE 754 binary32 words (R204, R213): the value itself where binary32 holds it, else one
of its two neighbours. -/

namespace Sys2Proof.Machine

/-- The exponent e with 2^e ≤ n / d < 2^(e+1), for n > 0. -/
def expOf (n d : Nat) : Int :=
  let e : Int := (Nat.log2 n : Int) - Nat.log2 d
  if 0 ≤ e then (if d * 2 ^ e.toNat ≤ n then e else e - 1)
  else if d ≤ n * 2 ^ (-e).toNat then e else e - 1

/-- n / d in units of 2^k, as a floor and whether it is exact. -/
def scaleTo (n d : Nat) (k : Int) : Nat × Bool :=
  let n' := if 0 ≤ k then n else n * 2 ^ (-k).toNat
  let d' := if 0 ≤ k then d * 2 ^ k.toNat else d
  (n' / d', n' % d' == 0)

/-- The binary32 word of a magnitude given in units of its last place. -/
def packB32 (e : Int) (m : Nat) : Nat :=
  -- a carry out of the significand goes into the exponent
  if e < -126 then m
  else if 127 < e then 0x7F800000
  else ((e + 126).toNat * 2 ^ 23 + m)

/-- binary32 of an exact value. -/
def b32 (q : Rat) : Word :=
  if q = 0 then 0
  else
    let n := q.num.natAbs
    let e := expOf n q.den
    let ulp := (if e < -126 then -126 else e) - 23
    let (m, exact) := scaleTo n q.den ulp
    let m := if !exact && Config.roundUp q then m + 1 else m
    w32 ((if q < 0 then 2 ^ 31 else 0) + packB32 e m)

/-- binary32 of the square root of an exact value that is not negative. -/
def b32Sqrt (q : Rat) : Word :=
  if q ≤ 0 then 0
  else
    let n := q.num.natAbs
    let e := Int.fdiv (expOf n q.den) 2
    let ulp := (if e < -126 then -126 else e) - 23
    let (m2, exact2) := scaleTo n q.den (2 * ulp)
    let m := Nat.sqrt m2
    let m := if !(exact2 && m * m == m2) && Config.roundUp q then m + 1 else m
    w32 (packB32 e m)

/-- The exact value of a binary32 word that is finite and not negative. -/
def ofB32 (w : Nat) : Rat :=
  let e : Nat := w / 2 ^ 23 % 256
  let f : Nat := w % 2 ^ 23
  let m : Nat := if e = 0 then f else 2 ^ 23 + f
  let k : Nat := if e = 0 then 1 else e
  if 150 ≤ k then mkRat (m * 2 ^ (k - 150) : Nat) 1 else mkRat m (2 ^ (150 - k))

end Sys2Proof.Machine
end

