-- ==== Sys2Proof/Machine/WeirOps.lean ====
section
/-! DEFINITION. Weir: codes, runs, estimates, classes, the reference test and its records (R183–R217). -/

namespace Sys2Proof.Machine

def weirPage : Nat := 0xA000
def wsPage (c : Nat) : Nat := 0x103000 + c * 0x10000

def Dev.setWeir (d : Dev) (x : Weir) : Dev := { d with weir := x }

/-! ### Codes (R183) -/

def popc (n : Nat) : Nat := ((List.range 32).filter (fun i => n.testBit i)).length

/-- h_r(t). -/
def walsh (r t : Nat) : Int := if popc (r &&& t) % 2 = 1 then -1 else 1

/-- The row of a pin. -/
def rowOf (p : Nat) : Nat := 2 * p + 1 - popc p % 2

/-! ### Captured configuration -/

namespace WeirCfg

def field (c : WeirCfg) : Bool := bit c.wcfg 28
def drive (c : WeirCfg) : Nat := fld c.wcfg 25 24
def chip (c : WeirCfg) : Nat := fld c.wcfg 22 16
def lead (c : WeirCfg) : Nat := fld c.wcfg 15 12
def blank (c : WeirCfg) : Nat := fld c.wcfg 11 0
/-- Chips of a frame. -/
def n (c : WeirCfg) : Nat := if c.field then 8192 else 1024
def frames (c : WeirCfg) : Nat := fld c.avg 8 0
def ampUv (c : WeirCfg) : Nat := fld c.amp 19 0
def ksig (c : WeirCfg) : Nat := fld c.limits 19 16
def bank (c : WeirCfg) : Nat := 0x1300000 + fld c.ref 0 0 * 0x10000
def refEn (c : WeirCfg) : Bool := bit c.ref 1
/-- Pins of the mode, and the device's first pin (R209). -/
def pins (c : WeirCfg) : Nat := if c.field then 4096 else 512
def base (c : WeirCfg) : Nat := if c.field then 512 * c.pos else 0

/-- Nominal R_S in Ω, and full scale of the current range in µA (R184). -/
def rs (c : WeirCfg) : Nat := if c.drive = 0 then 25000 else if c.drive = 1 then 2500 else 25
def fsUa (c : WeirCfg) : Nat := iFs c.drive

/-- Drive time in µs (R207). -/
def driveUs (c : WeirCfg) : Nat := (c.lead + c.frames) * c.n * c.chip

/-- Declared power of one participant in nW (R207): the resistive drive and the charge path. A blank below 50 ns charges
nothing. -/
def nwEach (c : WeirCfg) : Nat :=
  let na := mkRat (2000 * c.ampUv) c.rs + mkRat (min c.ampUv 250000 * (125 * c.blank - 400)) (500 * c.chip)
  (na * 12).ceil.toNat

end WeirCfg

/-- The applied configuration (R188). -/
def Dev.weirCfg (d : Dev) (pos : Nat) : WeirCfg :=
  { wcfg := d.rd 0xA040, amp := d.rd 0xA044, avg := d.rd 0xA048, rconn := d.rd 0xA050, rres := d.rd 0xA054,
    riso := d.rd 0xA058, limits := d.rd 0xA05C, settle := d.rd 0xA060, dc := d.rd 0xA064, ref := d.rd 0xA068,
    recq := d.rd 0xA06C, fstore := d.rd 0xA070, pos := pos }

/-- R_j / R_S of a drive, as measured by the last passed full calibration; 0 = none (R185, R217). -/
def Dev.ratio (d : Dev) (drive n : Nat) : Word := d.rd (wsPage (n / 32) + 0x80 + (32 * drive + n % 32) * 4)

/-! ### The reference bank (R201, R202) -/

/-- A pair entry: kind, pins, word 1. -/
structure PairEntry where
  kind : Nat
  a : Nat
  b : Nat
  w : Word
  deriving DecidableEq, Repr

/-- NET of a pin: EN, and the net, a lone pin standing beyond every net. -/
def Dev.netOf (d : Dev) (c : WeirCfg) (p : Nat) : Bool × Nat :=
  let w := d.rd (c.bank + 4 * p)
  (bit w 31, fld w 15 0)

/-- Two pins lie in one net. -/
def Dev.sameNet (d : Dev) (c : WeirCfg) (p q : Nat) : Bool :=
  p == q || ((d.netOf c p).2 == (d.netOf c q).2 && (d.netOf c p).2 != 0xFFFF)

/-- The pair list up to its end. -/
def Dev.pairs (d : Dev) (c : WeirCfg) : List PairEntry :=
  ((List.range 4096).map (fun i =>
    let w := d.rd (c.bank + 0x4000 + 8 * i)
    (⟨fld w 31 28, fld w 23 12, fld w 11 0, d.rd (c.bank + 0x4004 + 8 * i)⟩ : PairEntry))).takeWhile (fun e => e.kind != 0)

/-- No codeword of the bank has an uncorrectable error (R484), and its entries are valid (R202). -/
def Dev.bankOk (d : Dev) (c : WeirCfg) : Bool :=
  let ps := d.pairs c
  !d.ue.any (fun x => decide (c.bank ≤ 8 * x ∧ 8 * x < c.bank + 0x10000)) &&
  ps.all (fun e => decide (e.kind ≤ 3) && decide (e.a < e.b) && decide (e.b < c.pins) && !d.sameNet c e.a e.b &&
    !(e.kind == 1 && fld e.w 31 24 == 0)) &&
    (ps.zip ps.tail).all (fun q => decide (q.1.a < q.2.a ∨ (q.1.a = q.2.a ∧ q.1.b < q.2.b)))

/-! ### Estimates (R193–R200) -/

namespace WeirData

/-- c_j[r] in current word units; j is the channel. -/
def coef (w : WeirData) (j r : Nat) : Rat :=
  let s := SMap.get [] w.acc j
  mkRat (((List.range w.cfg.n).map (fun t => s.getD t 0 * walsh r t)).sum) (w.cfg.n * w.cfg.frames)

/-- Amperes of one current word unit. -/
def unitA (w : WeirData) : Rat := mkRat w.cfg.fsUa (1000000 * 2 ^ 23)

/-- Pin k as a channel of this device, if it is one. -/
def own (w : WeirData) (p : Nat) : Option Nat :=
  if w.cfg.base ≤ p ∧ p < w.cfg.base + 512 then some (p - w.cfg.base) else none

/-- I_j^k in amperes, j a channel and k a pin. -/
def cur (w : WeirData) (j k : Nat) : Rat := w.coef j (rowOf k) * w.unitA

/-- R_j in Ω. -/
def rj (w : WeirData) (j : Nat) : Rat :=
  mkRat (((w.parts.find? (fun p => p.1 == j)).map (·.2.toNat)).getD 0 * w.cfg.rs) (2 ^ 30)

/-- V_j^k in volts. -/
def volt (w : WeirData) (j k : Nat) : Rat :=
  (if w.own k = some j then mkRat w.cfg.ampUv 1000000 else 0) - w.rj j * w.cur j k

/-- V_k^k of any pin of the mode; another device's in nV (R210). -/
def selfVolt (w : WeirData) (k : Nat) : Rat :=
  match w.own k with
  | some j => w.volt j k
  | none => mkRat (SMap.get 0 w.fieldV k) 1000000000

/-- N_jk and D_jk. -/
def numR (w : WeirData) (j k : Nat) : Rat := -w.cur j k
def denR (w : WeirData) (j k : Nat) : Rat := w.selfVolt k - w.volt j k

/-- σ_j², in squared amperes (R195). -/
def sig2 (w : WeirData) (j : Nat) : Rat :=
  let rows := (List.range w.cfg.n).filter (fun r => popc r % 2 = 0 && r != 0)
  ((rows.map (fun r => w.coef j r * w.coef j r)).sum / rows.length) * w.unitA * w.unitA

end WeirData

/-- An estimate: its numerator, its denominator, the squared noise of its numerator, and its value where the denominator
is 0 and the numerator within its noise. -/
structure Est where
  num : Rat
  den : Rat
  noise2 : Rat
  zero : Rat

namespace Est

/-- The numerator exceeds KSIG times its noise. -/
def strong (e : Est) (ksig : Nat) : Bool := decide (0 < e.num) && decide ((ksig * ksig : Nat) * e.noise2 < e.num * e.num)

/-- +∞ (R194). -/
def inf (e : Est) (ksig : Nat) : Bool := e.strong ksig && decide (e.den ≤ 0)

def val (e : Est) : Rat := if e.den = 0 then e.zero else e.num / e.den

/-- The estimate as binary32. -/
def word (e : Est) (ksig : Nat) : Word := if e.inf ksig then 0x7F800000 else b32 e.val

/-- KSIG × σ ≤ G_ISO. -/
def quiet (e : Est) (ksig : Nat) (riso : Nat) : Bool :=
  decide ((ksig * ksig : Nat) * e.noise2 * ((riso * 1000) * (riso * 1000) : Nat) ≤ e.den * e.den)

/-- Class and LOWSNR (R196). -/
def cls (e : Est) (c : WeirCfg) : Nat × Bool :=
  let k := c.ksig
  let mo := c.rconn.toNat
  let g := e.val
  if e.inf k then (3, false)
  else if decide (1000 ≤ |g| * mo) && e.strong k then (3, false)
  else if decide (1 ≤ g * c.rres.toNat) && decide (g * mo < 1000) then (2, false)
  else if decide (g * (c.riso.toNat * 1000 : Nat) < 1) && e.quiet k c.riso.toNat then (0, false)
  else (1, !e.quiet k c.riso.toNat)

/-- G ≥ G_ISO. -/
def aboveIso (e : Est) (c : WeirCfg) : Bool := e.inf c.ksig || decide (1 ≤ e.val * (c.riso.toNat * 1000 : Nat))

end Est

namespace WeirData

/-- The pair estimate of two channels of this device; the row estimate in field mode; the diagonal estimate (R194, R210). -/
def pairEst (w : WeirData) (j k : Nat) : Est :=
  let pk := w.cfg.base + k
  let pj := w.cfg.base + j
  if j = k then ⟨w.cur j pj, w.volt j pj, w.sig2 j, Config.weirZero j k⟩
  else if w.cfg.field then ⟨w.numR j pk, w.denR j pk, w.sig2 j, Config.weirZero j k⟩
  else ⟨w.numR j pk + w.numR k pj, w.denR j pk + w.denR k pj, w.sig2 j + w.sig2 k, Config.weirZero j k⟩

/-- The estimate of a channel against any pin. -/
def pinEst (w : WeirData) (j p : Nat) : Est :=
  match w.own p with
  | some k => w.pairEst j k
  | none => ⟨w.numR j p, w.denR j p, w.sig2 j, Config.weirZero j p⟩

/-- Causes of R198: NOTMEAS, EXTSRC, UNSETTLED, OVL. -/
def notMeas (w : WeirData) (j : Nat) : Bool := !(w.parts.any (fun p => p.1 == j)) || w.drops.contains j
def extSrc (w : WeirData) (j : Nat) : Bool := decide ((fld w.cfg.dc 23 0 : Nat) < |w.coef j 0|)
def unsettled (w : WeirData) (j : Nat) : Bool :=
  let r := SMap.get (0, 0) w.res j
  decide (((fld w.cfg.settle 23 0 * r.2 : Nat) : Int) < r.1)
def ovl (w : WeirData) (j : Nat) : Bool := w.sat.contains j
def untrusted (w : WeirData) (j : Nat) : Bool := w.notMeas j || w.extSrc j || w.unsettled j || w.ovl j

/-- The causes of a pin of the mode, OVL, UNSETTLED, EXTSRC and NOTMEAS from bit 0: another device's as they came with its V value,
and NOTMEAS where none has come (R198, R210; DEDUCED, notes/assumptions/92). -/
def causes (w : WeirData) (p : Nat) : BitVec 4 :=
  match w.own p with
  | some j => BitVec.ofNat 4 ((w.ovl j).toNat + (w.unsettled j).toNat * 2 + (w.extSrc j).toNat * 4 + (w.notMeas j).toNat * 8)
  | none => let x := SMap.get 0 w.fieldU p; if x < 16 then 8 else BitVec.ofNat 4 x

def trusted (w : WeirData) (p : Nat) : Bool := w.causes p == 0

/-- NONLIN from the side of channel j, against a pin (R200). -/
def nonlinSide (w : WeirData) (j p : Nat) : Bool :=
  let q := |w.coef j (rowOf (w.cfg.base + j) ^^^ rowOf p)|
  decide (fld w.cfg.limits 31 24 * |w.coef j (rowOf p)| < 1000 * q) &&
    decide ((w.cfg.ksig * w.cfg.ksig : Nat) * w.sig2 j < (q * w.unitA) * (q * w.unitA))

/-- NONLIN of a channel and a pin; against another device's pin the device holds its own side alone (R210). -/
def nonlin (w : WeirData) (j p : Nat) : Bool :=
  let c := ((w.pinEst j p).cls w.cfg).1
  p != w.cfg.base + j && decide (2 ≤ c) && (w.nonlinSide j p || (match w.own p with
    | some k => w.nonlinSide k (w.cfg.base + j)
    | none => false))

/-- The entry of a channel and a pin of the mode (R213): flags for either pin, class and estimate. -/
def rowEntry (w : WeirData) (j p : Nat) : Word :=
  let e := w.pinEst j p
  let (c, low) := e.cls w.cfg
  let u := w.causes (w.cfg.base + j) ||| w.causes p
  let flags := (u.getLsbD 0).toNat * 2 ^ 29 + (w.nonlin j p).toNat * 2 ^ 28 + (u.getLsbD 1).toNat * 2 ^ 27 +
    (u.getLsbD 2).toNat * 2 ^ 26 + (u.getLsbD 3).toNat * 2 ^ 24
  if u.getLsbD 3 then w32 flags
  else w32 (c * 2 ^ 30 + flags + low.toNat * 2 ^ 25 + (e.word w.cfg.ksig).toNat / 2 ^ 8)

/-- A RESULT entry of two channels (R213). -/
def entry (w : WeirData) (j k : Nat) : Word := w.rowEntry j (w.cfg.base + k)

/-- A COEF word: 8 fraction bits, saturating (R212). -/
def coefWord (w : WeirData) (j r : Nat) : Word := wInt (satS 32 (w.coef j r * 256).floor)

/-- Pins that took part to the end, and those not measured. -/
def partCount (w : WeirData) : Nat := ((w.parts.map (·.1)).filter (fun j => !w.drops.contains j)).length

/-- Transform load of a slice in % of its capacity: N log₂ N additions per participant and frame, at one addition per ns (R192,
R217). The spec gives no rounding: it is cut down to whole % (DESIGN CHOICE, notes/assumptions/89). -/
def slLoad (w : WeirData) (c : Nat) : Nat :=
  let k := ((w.parts.map (·.1)).filter (fun j => j / 32 == c && !w.drops.contains j)).length
  k * (if w.cfg.field then 13 else 10) * 100 / (w.cfg.chip * 1000)

def sigmaMax (w : WeirData) : Rat := (w.parts.map (fun p => w.sig2 p.1)).foldl max 0

end WeirData

/-! ### The reference test (R203–R205) -/

/-- An exception: type, item 5, item 6, item 7, PIN_A. -/
structure WeirExc where
  type : Nat
  /-- FLAGS.OVL: a chip word that the record uses saturated (R22, R198). -/
  ovl : Bool
  p5 : Word
  p6 : Word
  p7 : Word
  a : Nat

/-- Nets other than a pin's own among the tested pins: the pins of each, in ascending NET, lone pins last. -/
def Dev.netsFor (d : Dev) (c : WeirCfg) (p : Nat) : List (List Nat) :=
  let en := (List.range c.pins).filter (fun q => (d.netOf c q).1)
  let nets := ((en.filter (fun q => (d.netOf c q).2 != 0xFFFF)).map (fun q => (d.netOf c q).2)).dedup.insertionSort (· ≤ ·)
  let lone := (en.filter (fun q => (d.netOf c q).2 == 0xFFFF)).map (fun q => [q])
  (nets.map (fun n => en.filter (fun q => (d.netOf c q).2 == n)) ++ lone).filter (fun l => !l.any (d.sameNet c p))

/-- The pins reached from a list over CONNECTED pairs within a set. -/
def spread (conn : Nat → Nat → Bool) (all : List Nat) : Nat → List Nat → List Nat
  | 0, l => l
  | fuel + 1, l =>
    let next := all.filter (fun q => l.contains q || l.any (fun p => conn p q || conn q p))
    if next.length = l.length then l else spread conn all fuel next

/-- This device's component reports (step 3 of R210): each of its pins with the lowest pin of its net with which it is
CONNECTED. -/
def Dev.components (d : Dev) (w : WeirData) : List (Nat × Nat) :=
  let c := w.cfg
  (List.range 512).filterMap (fun j =>
    let p := c.base + j
    if !(d.netOf c p).1 || !w.trusted p then none
    else ((List.range c.pins).find? (fun q => q != p && (d.netOf c q).1 && d.sameNet c p q && w.trusted q &&
      ((w.pinEst j q).cls c).1 == 3)).map (fun q => (p, q)))

/-- The root joins the reports into components: each reported pin with the lowest pin of its component (step 4 of R210). -/
def joinReports (l : List (Nat × Nat)) : List (Nat × Nat) :=
  let pins := (l.flatMap (fun x => [x.1, x.2])).dedup.insertionSort (· ≤ ·)
  pins.map (fun p => (p, (spread (fun a b => l.contains (a, b)) pins pins.length [p]).headD p))

/-- Exceptions of one tested pin (R203), in the order of R205. -/
def Dev.pinExcs (d : Dev) (w : WeirData) (j : Nat) : List WeirExc :=
  let c := w.cfg
  let p := c.base + j
  let net := fun q => (d.netOf c q).2
  let mk := fun (type low b : Nat) (w7 : Word) =>
    (⟨type, false, w32 (low * 2 ^ 24 + p * 2 ^ 12 + b), w32 (net p * 2 ^ 16 + net b), w7, p⟩ : WeirExc)
  if !(d.netOf c p).1 then []
  else if w.untrusted j then
    [{ mk 0x26 ((w.notMeas j).toNat * 8 + (w.extSrc j).toNat * 4 + (w.unsettled j).toNat * 2 + (w.ovl j).toNat) p
        (b32 (w.coef j 0 * w.unitA)) with ovl := w.ovl j }]
  else
    let trusted := w.trusted
    let ps := d.pairs c
    let listed := fun q => ps.any (fun e => (e.a == p && e.b == q) || (e.a == q && e.b == p))
    let ignored := fun q => ps.any (fun e => e.kind == 3 && ((e.a == p && e.b == q) || (e.a == q && e.b == p)))
    let netTests := (d.netsFor c p).filterMap (fun l =>
      let m := l.filter (fun q => trusted q && !listed q)
      if m = [] then none
      else
        let e : Est := ⟨(m.map (w.numR j)).sum, (m.map (w.denR j)).sum, w.sig2 j * m.length, Config.weirZero j (m.headD 0)⟩
        let b := m.foldl (fun b q => if w.numR j b < w.numR j q then q else b) (m.headD 0)
        some (e, b))
    let shorts := netTests.filterMap (fun eb =>
      if (eb.1.cls c).1 = 3 then some (mk 0x21 0 eb.2 (eb.1.word c.ksig)) else none)
    let leaks := netTests.filterMap (fun eb =>
      let k := (eb.1.cls c).1
      if k = 2 ∨ (k = 1 ∧ eb.1.aboveIso c) then some (mk 0x22 (if k = 1 then 1 else 0) eb.2 (eb.1.word c.ksig)) else none)
    let lows := netTests.filterMap (fun eb =>
      if (eb.1.cls c).2 then
        some (mk 0x27 0 eb.2 (if eb.1.den = 0 then 0x7F800000
          else b32Sqrt ((c.ksig * c.ksig : Nat) * eb.1.noise2 / (eb.1.den * eb.1.den))))
      else none)
    -- components of the pin's own net
    let mates := (List.range c.pins).filter (fun q => (d.netOf c q).1 && d.sameNet c p q && trusted q)
    -- in field mode the reports say what is connected: this device's and, at a member, the root's join of all (R210)
    let reports := d.components w ++ w.fieldC
    let conn := fun a b =>
      if c.field then reports.contains (a, b)
      else match w.own a with
        | some i => ((w.pinEst i b).cls c).1 == 3
        | none => false
    let comp := spread conn mates mates.length [p]
    let lowest := mates.headD p
    let opens := if !comp.contains lowest && comp.all (fun q => decide (p ≤ q)) then
        [mk 0x23 0 lowest ((w.pinEst j lowest).word c.ksig)] else []
    let rvals := (ps.filter (fun e => e.kind == 1 && e.a == p && trusted e.b)).filterMap (fun e =>
      let x := w.pinEst j e.b
      let nom := ofB32 (fld e.w 23 0 * 256)
      let ok := (x.cls c).1 == 2 && decide (|nom / x.val - 1| ≤ mkRat (fld e.w 31 24) 400)
      if ok then none else some (mk 0x24 0 e.b (x.word c.ksig)))
    -- a pair of this device is tested once, by its lower pin; one with another device's pin from this side (R210)
    let nonlins := ((List.range c.pins).filter (fun q => (w.own q).isNone || decide (p < q))).filterMap (fun q =>
      if (d.netOf c q).1 && trusted q && !ignored q && w.nonlin j q &&
          !ps.any (fun e => e.kind == 2 && ((e.a == p && e.b == q) || (e.a == q && e.b == p))) then
        let side := if w.nonlinSide j q then (j, q) else (((w.own q).getD j), p)
        let qn := |w.coef side.1 (rowOf p ^^^ rowOf q)|
        let nn := |w.coef side.1 (rowOf side.2)|
        some (mk 0x25 0 q (b32 (qn / nn)))
      else none)
    shorts ++ leaks ++ lows ++ opens ++ rvals ++ nonlins

/-! ### Runs -/

/-- A Weir record (R204) with a stamp. -/
def Dev.weirRec (d : Dev) (w : WeirCfg) (type flags source : Nat) (t : Time) (p5 p6 p7 : Word) : Dev :=
  d.record (fld w.recq 9 0) none type flags source t p5 p6 p7

/-- An exception record: a member of a field run sends it to the root, without an FWD entry (R210, R477). -/
def Dev.weirExcRec (d : Dev) (w : WeirCfg) (t : Time) (x : WeirExc) : Dev :=
  let source := 0xA000 + (x.a - w.base) / 32
  if w.field && d.vl.addr != some 1 then
    { d with vl := { d.vl with wout := d.vl.wout ++ [.record (d.recItems x.type (x.ovl.toNat * 0x20) source t x.p5 x.p6 x.p7)] } }
  else d.weirRec w x.type (x.ovl.toNat * 0x20) source t x.p5 x.p6 x.p7

def Dev.weirBusy (d : Dev) : Bool := decide (1 ≤ d.weir.rstate ∧ d.weir.rstate ≤ 4)

/-- Drives act: chip 0 has been set, and the last chip has not ended (steps 4 and 5). -/
def Dev.weirDriving (d : Dev) : Bool := d.weir.rstate == 2 || d.weir.rstate == 3

/-- A run ends without a result, stamped at the instant `t` (R191). -/
def Dev.weirEnd (d : Dev) (cause : Nat) (t : Time) : Dev :=
  match d.weir.run with
  | none => d
  | some w =>
    let n := d.weir.frames
    let d := (d.setWeir { d.weir with rstate := 6, run := none, admitted := false }).release 2 0xAFFF
    (d.weirRec w.cfg 0x29 0 0xAFFF t (w32 cause) (w32 n) 0).fault weirPage 0

/-- The first chip boundary at or after the present (R186, R191). -/
def Dev.chipBound (d : Dev) (w : WeirData) : Time :=
  BitVec.ofNat 64 (w.start.toNat + cdiv (d.now.toNat - w.start.toNat) (w.cfg.chip * 1000) * (w.cfg.chip * 1000))

/-- An abort (R191): at the next chip boundary while drives act, and at once before the drive and after it. A run whose records
have been written ends with them. -/
def Dev.weirAbort (d : Dev) (cause : Nat) : Dev :=
  match d.weir.run with
  | none => d
  | some w =>
    if w.sent || w.stop.isSome then d
    else if d.weirDriving && d.chipBound w != d.now then
      d.setWeir { d.weir with run := some { w with stop := some (cause, d.chipBound w) } }
    else d.weirEnd cause d.now

/-- The chip boundary of an abort under way has come. -/
def Dev.weirStops (d : Dev) : Dev :=
  match d.weir.run with
  | some w => match w.stop with
    | some (cause, t) => if t ≤ d.now then d.weirEnd cause t else d
    | none => d
  | none => d

/-- Frame synchronisation is lost during a field run (R209, R474). -/
def Dev.weirSyncLost (d : Dev) : Dev :=
  match d.weir.run with
  | some w => if w.cfg.field then (d.fault weirPage 4).weirAbort 4 else d
  | none => d

/-- A trigger (R188 steps 1 and 2, R189, R190, R202). -/
def Dev.weirTrigger (d : Dev) (pos : Nat) : Dev :=
  if d.weirBusy then d.count 0xA08C 15 0
  else
    let cfg := d.weirCfg pos
    let inRun := (List.range 512).filter (fun n => d.ust (.chan n) == .run && d.chMode n == 3)
    let has := fun n => d.ratio cfg.drive n != 0
    let parts := (inRun.filter has).map (fun n => (n, d.ratio cfg.drive n))
    let d := forEach (inRun.filter (fun n => !has n)) (fun n (d : Dev) => d.fault (wsPage (n / 32)) 0) d
    let d := { d with vl := { d.vl with fstart := none, wout := [], wready := [] } }
    let d := d.setWeir { d.weir with rstate := 1, run := some { cfg := cfg, parts := parts }, frames := 0, admitted := false }
    if !d.bankOk cfg then (d.fault weirPage 1).weirAbort 2
    else if parts = [] then d.weirAbort 6
    else
      let each := cfg.nwEach
      let zones := ((List.range 16).map (fun c =>
        (c, each * (parts.filter (fun p => p.1 / 32 = c)).length))).filter (fun z => z.2 != 0)
      d.request 2 0xAFFF (cdiv (each * parts.length) 1000000) zones (some (cfg.driveUs * 1000))

/-- Triggers by a mark, a timer or a field event (R188). -/
def Dev.weirOn (d : Dev) (src k pos : Nat) : Dev :=
  let w := d.rd 0xA04C
  let sel := if src = 1 then fld w 23 16 else if src = 2 then fld w 12 8 else fld w 31 24
  if fld w 1 0 = src ∧ sel = k then d.weirTrigger pos else d

/-- Stove has admitted the run. -/
def Dev.weirAdmitted (d : Dev) : Dev :=
  if d.weir.rstate = 1 then d.setWeir { d.weir with admitted := true } else d

/-- A channel takes part as long as it is in RUN in WEIR mode (R184). -/
def Dev.weirIn (d : Dev) (n : Nat) : Bool := d.ust (.chan n) == .run && d.chMode n == 3

/-- The run is admitted and every participant has settled (steps 2 and 3). -/
def Dev.weirSettled (d : Dev) : Bool :=
  match d.weir.run with
  | some w => d.weir.rstate == 1 && d.weir.admitted &&
      w.parts.all (fun p => !d.weirIn p.1 || !SMap.get false d.settling (chanPage p.1))
  | none => false

/-- Chip 0 can be set: in field mode FSTART has named it (R474). -/
def Dev.weirReady (d : Dev) : Bool :=
  d.weirSettled && (match d.weir.run with | some w => !w.cfg.field || d.vl.fstart.isSome | none => false)

/-- Chip 0 starts (step 4); the run stamp follows from it. A channel that has left RUN or WEIR mode in steps 2 and 3 takes no part:
R189 has it drop out, with DROPOUT, in steps 4 to 6 only (R184; DESIGN CHOICE, notes/assumptions/89). -/
def Dev.weirDrive (d : Dev) : Dev :=
  match d.weir.run with
  | some w =>
    if d.weirReady then
      let w := { w with parts := w.parts.filter (fun p => d.weirIn p.1) }
      let s := if w.cfg.field then (d.vl.fstart.getD 0).toNat else cdiv (d.now.toNat + 16) 125 * 125
      let stamp := BitVec.ofNat 64 (s + w.cfg.lead * w.cfg.n * w.cfg.chip * 1000)
      d.setWeir { d.weir with rstate := if w.cfg.lead = 0 then 3 else 2, run := some { w with stamp := stamp, start := BitVec.ofNat 64 s } }
    else d
  | none => d

/-- Residues of a participant's averaged frame over the chips that start with a change of e_j, in its direction (R198). -/
def residueSum (row n : Nat) (first : Bool) (r : List Int) : Int × Nat :=
  ((List.range n).filter (fun t => if t = 0 then first || walsh row 0 != walsh row (n - 1) else walsh row t != walsh row (t - 1))
    ).foldl (fun s t => (s.1 + walsh row t * r.getD t 0, s.2 + 1)) (0, 0)

/-- A frame completes (step 5): averaged frames accumulate; a lost field sync aborts (R209). -/
def Dev.weirFrame (d : Dev) (words : List ChipWords) (synced : Bool) : Dev :=
  match d.weir.run with
  | some w =>
    if d.weir.rstate = 2 ∨ d.weir.rstate = 3 then
      if w.cfg.field && !synced then d.weirSyncLost
      else
        let n := w.cfg.n
        let w := if d.weir.rstate = 2 then w else
          words.foldl (fun (w : WeirData) (x : ChipWords) =>
            let j := x.ch.val
            if w.notMeas j then w
            else
              let old := SMap.get [] w.acc j
              let r := residueSum (rowOf (w.cfg.base + j)) n (w.cfg.lead == 0 && d.weir.frames == 0) x.residues
              let r0 := SMap.get (0, 0) w.res j
              { w with
                acc := SMap.put [] w.acc j ((List.range n).map (fun t => old.getD t 0 + x.words.getD t 0))
                res := SMap.put (0, 0) w.res j (r0.1 + r.1, r0.2 + r.2)
                sat := if x.saturated && !w.sat.contains j then w.sat ++ [j] else w.sat }) w
        let f := d.weir.frames + 1
        d.setWeir { d.weir with
          frames := f, run := some w, rstate := if w.cfg.lead ≤ f then 3 else 2
          load := forRange 16 (fun c (m : SMap Nat) => SMap.put 0 m c (w.slLoad c)) d.weir.load }
    else d
  | none => d

/-- This device's column of V values in nV, each with its causes of R198 (step 1 of R210). The spec gives the values no unit and no
rounding (DESIGN CHOICE, notes/assumptions/89). -/
def WeirData.column (w : WeirData) : List (Int × BitVec 4) :=
  (List.range 512).map (fun k => ((w.volt k (w.cfg.base + k) * 1000000000).floor, w.causes (w.cfg.base + k)))

/-- The drive ends after the last chip (step 6); in field mode the device sends its V values. -/
def Dev.weirDriveEnd (d : Dev) : Dev :=
  match d.weir.run with
  | some w =>
    if d.weir.rstate = 3 ∧ d.weir.frames = w.cfg.lead + w.cfg.frames ∧ w.stop = none then
      let d := (d.setWeir { d.weir with rstate := 4 }).release 2 0xAFFF
      if w.cfg.field then { d with vl := { d.vl with wout := d.vl.wout ++ [.values w.cfg.pos w.column] } } else d
    else d
  | none => d

/-- A channel drops out of the run in steps 4 to 6 (R189). Before them the run ends where no other participant is left. -/
def Dev.weirDrop (d : Dev) (n : Nat) : Dev :=
  match d.weir.run with
  | some w =>
    if d.weir.rstate == 1 then
      if w.parts.any (fun p => p.1 == n) && w.parts.all (fun p => p.1 == n || !d.weirIn p.1) then d.weirAbort 6 else d
    else if d.weirBusy && !w.sent && w.parts.any (fun p => p.1 == n) && !w.drops.contains n then
      let w := { w with drops := w.drops ++ [n] }
      let d := (d.setWeir { d.weir with run := some w }).fault weirPage 2
      if w.parts.all (fun p => w.drops.contains p.1) then d.weirAbort 6 else d
    else d
  | none => d

/-- A record of the run still waits: for space in a MUST_DELIVER queue (R205), or for the root (R210). -/
def Dev.weirWaits (d : Dev) (w : WeirData) : Bool :=
  d.fab.pend.any (fun p => p.q == fld w.cfg.recq 9 0 && decide (0xA000 ≤ p.src ∧ p.src < 0xB000)) ||
    d.vl.wout.any (fun f => match f with | .record _ => true | _ => false)

/-- The end of step 7: every record has been committed, and the RESULT window switches. -/
def Dev.weirFinish (d : Dev) : Dev :=
  match d.weir.run with
  | some w =>
    if w.sent && !d.weirWaits w then
      d.setWeir { d.weir with rstate := 5, run := none, last := some w, runs := (d.weir.runs + 1) % 4096 }
    else d
  | none => d

/-- The records of a run (step 7, R205). The RESULT window switches with the last commit (`Dev.weirFinish`). -/
def Dev.weirCommit (d : Dev) : Dev :=
  match d.weir.run with
  | some w =>
    if d.weir.rstate = 4 ∧ w.sent = false then
      let c := w.cfg
      let excs := if c.refEn then ((List.range 512).map (d.pinExcs w)).flatten else []
      let most := fld c.limits 15 0
      let lost := excs.length - most
      let d := (excs.take most).foldl (fun (d : Dev) (x : WeirExc) => d.weirExcRec c w.stamp x) d
      let d := if lost = 0 then d
        else ((d.weirRec c 0x28 0 0xAFFF w.stamp 0 0 0).count 0xA088 31 16 lost).fault weirPage 3
      let written := min excs.length most
      let run := (d.weir.runs + 1) % 4096
      let nm := 512 - w.partCount
      let d := d.weirRec c 0x20 0 0xAFFF w.stamp
        (w32 (satU 16 written * 2 ^ 16 + (decide (lost ≠ 0)).toNat * 8 + (decide (w.drops ≠ [])).toNat * 4 +
          c.field.toNat * 2 + c.refEn.toNat)) (w32 (nm * 2 ^ 16 + w.partCount)) (w32 run)
      (d.setWeir { d.weir with run := some { w with sent := true }, excs := written }).weirFinish
    else d
  | none => d

end Sys2Proof.Machine
end

