-- ==== Sys2Proof/Machine/Hooks.lean ====
section
/-! DEFINITION. What each kind of unit does when its applied STATE changes, whatever changed it; holds; timer outputs; and
what a decision of Stove brings. -/

namespace Sys2Proof.Machine

/-- A unit's applied STATE went from `b` to `a`. A calibration of a channel that thereby leaves the states of R145 ends as one
that a pitch touches: CAL_ABORT and a CAL record (R145 says so of a pitch alone; DESIGN CHOICE, notes/assumptions/84). -/
def Dev.leave (d : Dev) (u : Un) (b a : UState) : Dev :=
  match u with
  | .device => d
  | .camp c => if b.biased && !a.biased then d.gapCamp c else if !b.biased && a.biased then d.startReed c else d
  | .chan n =>
    let d := d.chanLeave n b a
    let d := if b == .run && a != .run then d.weirDrop n else d
    let d := if b == .held then d.updCh n (fun x => { x with stoveHeld := false }) else d
    let d := if (d.ch n).cal == 0 || a == .off || d.calAllowed n then d else d.calAbort n
    if b.biased && !a.biased then d.gapChan n else d
  | .float i => d.flLeave i b a
  | .queue q => if b == .run && a != .off then d.abortQueue q else d
  | .timer t => if b == .run || a == .run then d.tmLeave t a else d
  | .outlet o => d.olLeave o b a
  | .ctx x => d.ctxLeave x b a

/-- A change that may move the STATE of the listed units, with what each of them does about its move. -/
def Dev.changeH (d : Dev) (us : List Un) (f : Dev → Dev) : Dev :=
  let r := d.change us f
  r.2.foldl (fun (d : Dev) x => d.leave x.1 x.2.1 x.2.2) r.1

/-- Units that hold: those in PARKED, READY or RUN enter HELD (R82); a Float takes its channel with it (R255). -/
def Dev.holdUnits (d : Dev) (us : List Un) : Dev :=
  let us := us.flatMap (fun u => match u with | .float i => [.chan (i / 4), u] | _ => [u])
  d.changeH us (fun d => forEach us (fun u (d : Dev) =>
    match d.ust u with
    | .parked | .ready | .run => d.markHeld u
    | _ => d) d)

/-- The cycle after a pitch: the units whose cause of HELD persisted enter HELD again (R82). -/
def Dev.holdAgain (d : Dev) : Dev :=
  let l := d.again
  if l = [] then d
  else
    forEach l (fun x (d : Dev) => match x.1 with
      | .chan n => if x.2 then d.updCh n (fun c => { c with stoveHeld := true }) else d
      | _ => d) (({ d with again := [] } : Dev).holdUnits (l.map (·.1)))

/-- A state-changing fault of a page sets; the units listed may change STATE (R84). -/
def Dev.faultSc (d : Dev) (us : List Un) (page b : Nat) : Dev := d.changeH us (fun d => d.fault page b)

/-- A state-changing fault of a channel (R136). -/
def Dev.chanFault (d : Dev) (n b : Nat) : Dev := d.faultSc (Un.ofChan n) (chanPage n) b

/-! ### Comparators (R133) -/

/-- A calibrated word of a ball instant: it is stored, and each window that it enters acts under its ACT field. -/
def Dev.cmpWord (d : Dev) (n : Nat) (isV : Bool) (w : Word) (t : Time) : Dev :=
  let hits := d.cmpEnters n isV w
  let d := d.chanWord n isV w
  forEach hits (fun k (d : Dev) =>
    let d := d.updCh n (fun x => { x with cmp := bset x.cmp k true })
    let act := d.cmpAct n k
    if act = 0 then d
    else
      let d := d.chanRec n 0x40 (ovlFlag [satWord w]) t (w32 ((if act = 2 then 4 else 0) + k)) (satWord w) (wInt (d.cmpThr n k))
      if act = 2 then d.chanFault n 5 else d) d

/-- A voltage and a current word. -/
def Dev.words (d : Dev) (n : Nat) (v i : Word) (t : Time) : Dev := (d.cmpWord n true v t).cmpWord n false i t

/-- A state-changing bit of OL_STAT sets (R422). -/
def Dev.olFault (d : Dev) (o b : Nat) : Dev := d.changeH [.outlet o] (fun d => d.wb (olAt o + 0x48) b true)

/-! ### Timer outputs (R319) -/

/-- An output selected by a code: 1 match, 2 overflow, 3 both. -/
def outSel (code : Nat) (m o : Bool) : Bool := (code % 2 == 1 && m) || (code / 2 == 1 && o)

/-- Trigger and outlet kick of a match or an overflow, one cycle after it. -/
def Dev.tmTrig (d : Dev) (t : Nat) (m o : Bool) : Dev :=
  let link := d.rd (tmAt t + 0x30)
  let d := if outSel (d.rf (tmAt t + 8) 9 8) m o then (d.apOn 3 t).weirOn 2 t 0 else d
  if outSel (fld link 29 28) m o then d.olKick (fld link 27 24) else d

/-- Its link, where the operation is `op`: 1 start, 2 stop, 3 load. -/
def Dev.tmLink (d : Dev) (op t : Nat) (m o : Bool) : Dev :=
  let link := d.rd (tmAt t + 0x30)
  let g := fld link 4 0
  if outSel (fld link 21 20) m o && fld link 17 16 == op && d.ust (.timer g) == .run then
    match op with
    | 1 => d.tmStart g
    | 2 => d.tmStop g
    | 3 => d.tmLoad g
    | _ => d
  else d

/-- Outputs of several timers (timer, match, overflow) act in one cycle; the timers they link to load, start and stop in
this order (R318, R319). -/
def Dev.tmOutputsOf (d : Dev) (owed : List (Nat × Bool × Bool)) : Dev :=
  let owed := owed.filter (fun e => e.2.1 || e.2.2)
  forEach [3, 1, 2] (fun op (d : Dev) => forEach owed (fun e (d : Dev) => d.tmLink op e.1 e.2.1 e.2.2) d)
    (forEach owed (fun e (d : Dev) => d.tmTrig e.1 e.2.1 e.2.2) d)

/-- The outputs that a timer owes from the cycle before act, and it owes them no longer (R319). -/
def Dev.tmOutputs (d : Dev) (t : Nat) : Dev :=
  let x := d.tm t
  (d.updTm t (fun x => { x with outM := false, outO := false })).tmOutputsOf [(t, x.outM, x.outO)]

/-! ### Stove (R267–R271) -/

/-- What admissions and refusals of a walk bring. -/
def Dev.walkAct (d : Dev) : Dev :=
  let (d, adm, ref) := d.walk
  let d := forEach adm (fun t (d : Dev) => match t.kind with
    | 1 => d.chanAdmitted t.unit
    | 2 => d.weirAdmitted
    | _ => d) d
  -- the force of a channel whose raised declaration waits ramps to SENSE (R268)
  let late := (d.waiting.filterMap (fun i => d.stove.tasks[i]?)).filter (fun t => t.kind == 1)
  let d := forEach late (fun t (d : Dev) =>
    let x := d.ch t.unit
    if x.ampOn && x.ramp == .none then d.setCh t.unit { x with ramp := .toWait } else d) d
  forEach ref (fun t (d : Dev) =>
    ((d.changeH [.chan t.unit] (fun d => (d.markHeld (.chan t.unit)).updCh t.unit (fun x => { x with stoveHeld := true }))
      ).missed t 2).fault stovePage 2) d

/-- Back-pressure holds channels whose tasks still wait for admission: those tasks are missed (R12). R276 names no cause for it:
the record's CAUSE is a free value. -/
def Dev.missHeld (d : Dev) (us : List Un) : Dev :=
  forEach ((us.filterMap (fun u => match u with | .chan n => some n | .float i => some (i / 4) | _ => none)).dedup)
    (fun n (d : Dev) =>
      match d.taskOf 1 n false with
      | some t => if d.ust (.chan n) == .run then (d.withdraw 1 n).missed t (Config.heldCause n d.now.toNat).toNat else d
      | none => d) d

/-- Holds and walks that a command has called for take place before the command ends. -/
def Dev.settle : Nat → Dev → Dev
  | 0, d => d
  | fuel + 1, d =>
    if d.holds ≠ [] then
      let us := d.holds
      Dev.settle fuel (((({ d with holds := [] } : Dev)).missHeld us).holdUnits us)
    else if d.stove.walkDue then Dev.settle fuel d.walkAct
    else d

end Sys2Proof.Machine
end

