-- ==== Sys2Proof/Machine/PitchCheck.lean ====
section
/-! DEFINITION. The check of a pitch (R96–R103): scope, what a pitch would change, and every condition that the chapters
give. -/

namespace Sys2Proof.Machine

/-! ### Scope and differences -/

/-- The scope of controller k (R98), by applied offset. -/
def inScope (k a : Nat) : Bool :=
  if k = 0 then true
  else
    let c := k - 1
    (decide (0x100000 + c * 0x10000 ≤ a) && decide (a < 0x110000 + c * 0x10000)) ||
      (decide (0x200000 + c * 0x20000 ≤ a) && decide (a < 0x220000 + c * 0x20000)) ||
      (decide (0x400000 + c * 0x8000 ≤ a) && decide (a < 0x408000 + c * 0x8000))

/-- The slot that an offset lies in, if it lies in one (R77). -/
def slotOf (a : Nat) : Option Un :=
  let o := a % 0x1000 % 0x800
  let b := a - a % 0x1000
  if 0x400000 ≤ a ∧ a < 0x480000 then Un.ofAddr (b + o - o % 0x80)
  else if 0x500000 ≤ a ∧ a < 0x510000 then Un.ofAddr (b + o - o % 0x20)
  else if (b = 0xE000 ∨ b = 0xF000 ∨ b = 0x15000) ∧ 0x100 ≤ o ∧ o < 0x700 then Un.ofAddr (b + o - (o - 0x100) % 0x60)
  else none

/-- The unit whose page or slot an offset lies in (R97). -/
def unitAt (a : Nat) : Option Un := match slotOf a with | some u => some u | none => pageUnit (a - a % 0x1000)

/-- The UNIT_ID that OFFENDER gives (R10, R113): a phase mark has its own. -/
def unitIdAt (a : Nat) : Nat :=
  match slotOf a with
  | some u => u.id
  | none =>
    if 0x5000 ≤ a ∧ a < 0x8000 ∧ 0x40 ≤ a % 0x800 then 0x9000 + (a - 0x5000) / 0x1000 * 96 + (a % 0x800 - 0x40) / 0x10
    else pageId (a - a % 0x1000) % 0x10000

def offender (a : Nat) : Word := w32 (a % 0x800 * 0x10000 + unitIdAt a)

/-- The page or slot that counts a change of a field in GEN (R77, R93). -/
def genAt (a : Nat) : Nat := match slotOf a with | some u => u.addr | none => a - a % 0x1000

/-- The applied register that a register belongs to. -/
def unstaged (a : Nat) : Nat := if isStaged a then a - 0x800 else a

/-- Applied registers in the BAR0 map with an ST field that some write has touched. -/
def Dev.stRegs (d : Dev) : List Nat :=
  ((((SMap.keys d.regs).filter (fun a => decide (a < 0x510000))).map unstaged).dedup).filter (fun a => stMask a != 0)

/-- The staged word of an applied register, its other fields as applied. -/
def Dev.stagedWord (d : Dev) (a : Nat) : Word :=
  let m := w32 (stMask a)
  (d.rd a &&& ~~~m) ||| (d.rd (a + 0x800) &&& m)

/-- Registers that a pitch of controller k would change, in ascending order. -/
def Dev.diffRegs (d : Dev) (k : Nat) : List Nat :=
  (d.stRegs.filter (fun a => inScope k a && d.stagedWord a != d.rd a)).insertionSort (· ≤ ·)

/-- Units whose registers hold QUAR.SELF or a state-changing fault, and those below them, whose STATE follows (R81). -/
def Dev.shadowed (d : Dev) : List Un :=
  ((SMap.keys d.regs).filterMap (fun a =>
    if isStaged a then none
    else if a % 0x1000 = 0xC ∨ a % 0x1000 = 0x18 then Un.ofAddr (a - a % 0x1000)
    else slotOf a)).dedup.flatMap (fun u => if d.quarSelf u || d.scFault u then u :: descendants u else [])

/-- Units that may differ from their default. -/
def Dev.someUnits (d : Dev) : List Un :=
  if d.pwr.devOff || d.pwr.unitsOff || d.host.perst || d.pwr.campOff != [] then Un.all
  else
    let staged := (SMap.keys d.regs).filterMap (fun a =>
      if isStaged a then
        (if a % 0x1000 = 0x804 then Un.ofAddr (a - 0x804) else Un.ofAddr (a - 0x800)).bind (fun u =>
          if stagedStateAt u = a then some u else none)
      else none)
    (d.knownUnits ++ staged ++ d.shadowed).dedup

/-- Units below the device whose staged STATE differs from their applied STATE, in scope of controller k. -/
def Dev.stagedStates (d : Dev) (k : Nat) : List Un :=
  d.someUnits.filter (fun u => u != .device && inScope k u.addr && d.stagedState u != d.ust u)

/-- Those whose STATE a pitch would change (R97). A unit that is OFF reads a staged PARKED of its reset while it stays OFF, and
its exit from OFF brings that value with no pitch: so the difference is none that a pitch makes (DEDUCED,
notes/assumptions/91). -/
def Dev.diffStates (d : Dev) (k : Nat) : List Un :=
  (d.stagedStates k).filter (fun u => !(d.ust u == .off && d.stagedState u == .parked))

/-- Camps in scope whose coefficient image would change (R232). -/
def Dev.diffCoefs (d : Dev) (k : Nat) : List Nat :=
  (SMap.keys d.reeds).filter (fun c => inScope k (rbcPage c) && (d.reed c).dirty)

/-- The device with every register that the pitch would apply. -/
def Dev.candidate (d : Dev) (k : Nat) : Dev := forEach (d.diffRegs k) (fun a (e : Dev) => e.wr a (d.stagedWord a)) d

/-- A unit's STATE as the pitch would leave it. -/
def Dev.nextState (d : Dev) (k : Nat) (u : Un) : UState := if inScope k u.addr then d.stagedState u else d.ust u

/-- Units that the pitch touches (R97). -/
def Dev.touched (d : Dev) (k : Nat) : List Un :=
  ((d.diffStates k) ++ (d.diffRegs k).filterMap unitAt ++ (d.diffCoefs k).map Un.camp).dedup

/-- UNIT_IDs of the units that the pitch touches: those with a state, and the units whose pages show none (Compass, Weir and
its slices, Stove and its zones, the link, R10, R76). -/
def Dev.touchedIds (d : Dev) (k : Nat) : List Nat :=
  ((d.touched k).map Un.id ++ ((d.diffRegs k).filter (fun a => (unitAt a).isNone)).map (fun a => pageId (a - a % 0x1000) % 0x10000)).dedup

/-- The key under which STATUS.SETTLING of a page is kept (R90): the address of its unit, or the main page of a unit without a
state. -/
def settleKey (page : Nat) : Nat :=
  match pageUnit page with
  | some u => u.addr
  | none =>
    if 0x3000 ≤ page ∧ page < 0x8000 then 0x3000
    else if page = 0x9000 then 0x8000
    else if page = 0xB000 then 0xA000
    else if page = 0x1B000 then 0x1A000
    else page

/-- Keys of the changed units. -/
def Dev.settleKeys (d : Dev) (k : Nat) : List Nat :=
  ((d.touched k).map Un.addr ++ ((d.diffRegs k).filter (fun a => (unitAt a).isNone)).map (fun a => settleKey (a - a % 0x1000))).dedup

/-- Offset of the word that holds a unit's applied STATE. -/
def stateAt (u : Un) : Nat := if u.inSlot then u.addr else u.addr + 4

/-! ### Conditions -/

/-- A finding: the offset of the offending field, the RESULT code, and OFFENDER. -/
structure Finding where
  at_ : Nat
  code : Nat
  off : Word
  deriving DecidableEq, Repr

def finding (a code : Nat) : Finding := ⟨a, code, offender a⟩

/-- A list of fields, each with whether it offends. -/
def offending (code : Nat) (l : List (Bool × Nat)) : List Finding :=
  (l.filter (·.1)).map (fun x => finding x.2 code)

/-- Pages with a listed register between two offsets. -/
def Dev.pagesIn (d : Dev) (lo hi : Nat) : List Nat :=
  (((SMap.keys d.regs).filter (fun a => decide (lo ≤ a) && decide (a < hi))).map (fun a => a - a % 0x1000)).dedup

/-- Slots of some kind with a listed register between two offsets. -/
def Dev.slotsIn (d : Dev) (lo hi : Nat) : List Un :=
  (((SMap.keys d.regs).filter (fun a => decide (lo ≤ a) && decide (a < hi))).filterMap slotOf).dedup

/-- R140, R187 and the comparator rule of R133, of one channel page. -/
def Dev.checkChan (e : Dev) (p : Nat) : List Finding :=
  let cfg := e.rd (p + 0x40)
  let flaps := fld cfg 17 16
  let mode := fld cfg 2 0
  let s := fun (o : Nat) => sext 24 (e.rf (p + o) 23 0)
  offending 1 [
    (bit cfg 12 && flaps != 3, p + 0x40),
    (bit cfg 20 && flaps == 0, p + 0x40),
    (mode != 0 && (flaps == 0 || flaps == 2), p + 0x40),
    (e.rb (p + 0x74) 15 && e.rf (p + 0x74) 8 0 == (p - 0x200000) / 0x1000, p + 0x74),
    (decide (s 0x54 < s 0x58), p + 0x54),
    (decide (s 0x5C < s 0x60), p + 0x5C)]

/-- The device is in a field (R209, R468): it is the root, or its uplink is up and it has joined (R470). -/
def Dev.inField (d : Dev) : Bool :=
  match d.vl.addr with
  | some a => (a == 1 && d.rb 0x1A040 1) || (d.vl.up.isSome && d.vl.joined)
  | none => false

/-- R187 and R210. -/
def Dev.checkWeir (e : Dev) : List Finding :=
  let w := e.rd 0xA040
  let field := bit w 28
  let amp := e.rf 0xA044 19 0
  let lim := match fld w 25 24 with | 0 => 125000 | 1 => 1000000 | _ => 625000
  let mo := (e.rd 0xA050).toNat
  let ohm := (e.rd 0xA054).toNat
  let kohm := (e.rd 0xA058).toNat
  offending 1 [
    (field && !e.inField, 0xA040),
    (decide (amp < 10000 ∨ lim < amp), 0xA044),
    (decide (fld w 22 16 * 1000000 < fld w 11 0 * 15625 + 500000), 0xA040),
    (decide (ohm * 1000 ≤ mo), 0xA050), (decide (kohm * 1000 ≤ ohm), 0xA054)] ++
  offending 7 [(field && !e.rb 0xA070 31, 0xA070)] ++
  (List.range 16).flatMap (fun c =>
    let m := e.rd (wsPage c + 0x40)
    if m = 0 then []
    else if (List.range 32).any (fun j =>
        let p := chanPage (32 * c + j)
        bit m j && !(e.rf (p + 0x40) 2 0 == 2 && e.rb (p + 0x74) 15 && e.rf (p + 0x68) 23 16 == 1)) then
      [finding (wsPage c + 0x40) 1]
    else [])

/-- The Compass checks (R177, R179) and R182. -/
def Dev.checkCompass (e : Dev) : List Finding :=
  let src := e.phSrc
  let dead := match src with
    | 1 => !e.rb 0x4040 0
    | 2 => !e.rb 0x4060 0
    | 3 => !e.rb 0x4080 0 || decide (e.rf 0x3044 23 0 < 30000)
    | 4 => !e.rb 0x40A0 0
    | 5 => !e.inField
    | 6 => e.rd 0x304C == 0
    | _ => false
  offending 1 ([(dead, 0x3040), (e.qClass (e.rf 0x3050 9 0) == 2, 0x3050)] ++
    (List.range 256).map (fun m => (e.rf (markAt m + 8) 2 0 == 3 && e.rd (markAt m + 4) == 0, markAt m + 4)))

/-- A stream that the Ocpen window claims (R304, R306). -/
def Dev.ocClaims (e : Dev) (c k : Nat) : Bool :=
  e.ocEn && decide (c < 2) && e.rb (0x1404C + 8 * c + 4 * (k / 32)) (k % 32)

/-- Reedbed: R225, R231, R237, R238. -/
def Dev.checkStreams (e : Dev) (p : Nat) : List Finding :=
  let c := (p - 0x101000) / 0x10000
  (List.range 64).flatMap (fun k =>
    let a := rbSlot c k
    let w := e.rd a
    let g := rbCfgOf w
    let step := (e.rd (a + 8)).toNat
    let out := e.rd (a + 0xC)
    let len := if fld w 7 4 = 0 then 1 else fld w 7 4
    offending 1 [
      (decide (g.mode = 2 ∧ step < 256000), a + 8),
      (decide (g.mode = 3 ∧ step = 0), a + 8),
      (g.mode == 3 && e.rd (p + 0x44) == 0, p + 0x44),
      (decide (len ≤ g.rank) || (fld w 7 4 == 0 && g.clip), a),
      (bit out 31 && decide (fld out 24 16 = 0 ∨ 250 < fld out 24 16), a + 0xC)] ++
    offending 7 [
      (bit out 31 && e.ocClaims c k, a + 0xC),
      (bit out 31 && e.ocClaims c k, 0x1404C + 8 * c + 4 * (k / 32))])

/-- R259, of one Float slot in RUN. -/
def Dev.checkFloat (e : Dev) (i : Nat) : List Finding :=
  let s := flAt i
  let kind := e.flKind i
  let n := i / 4
  let k := 2 * (n % 32) + e.flQty i % 2
  let scfg := e.rd (rbSlot (n / 32) k)
  let g := rbCfgOf scfg
  let sense := e.flSense i
  let hyst := e.flHyst i
  let o := e.rd (s + 0x28)
  let gate := e.flGmode i
  let nseg := e.rf (s + 0x34) 18 16 + 1
  offending 1 ([
    (kind == 0, s + 8),
    (!g.en, s + 8),
    ((decide (1 ≤ kind ∧ kind ≤ 3) && (sense == 0 || sense == 3) || kind == 4) && decide (e.flHi i - hyst < e.flLo i + hyst),
      s + 0x18),
    (kind == 3 && !bit o 4 && fld o 31 16 == 0, s + 0x28),
    (kind == 3 && bit o 4 && gate == 0, s + 0xC),
    (kind == 5 && fld o 15 8 == 0, s + 0x28),
    (kind == 5 && decide (e.flHi i < 0), s + 0x18),
    (kind == 6 && decide (e.flHi i < hyst), s + 0x18),
    (kind == 6 && decide (e.rf (s + 0x2C) 23 0 ≠ 0 ∧ e.rf (s + 0x2C) 23 0 ≤ e.flTime i), s + 0x2C),
    (kind == 6 && (g.m != 1 || decide (2 ≤ g.mode)), s + 8),
    (gate == 2 && e.rf (s + 0x10) 23 0 == 0, s + 0xC)] ++
    (List.range (nseg - 1)).map (fun j =>
      (kind == 4 && decide ((e.rd (s + 0x40 + 4 * j)).toNat ≤ (e.rd (s + 0x3C + 4 * j)).toNat), s + 0x40 + 4 * j)))

/-- R323, of one timer in RUN. -/
def Dev.checkTimer (e : Dev) (t : Nat) : List Finding :=
  let s := tmAt t
  let src := e.tmSrc t
  let tinOff := fun (hi lo : Nat) (w : Word) => fld w hi lo / 256 == 2 && !e.tinEn (fld w hi lo % 256)
  offending 1 [
    (src == 3 && e.rd (s + 0x34) == 0, s + 8),
    (decide (4 ≤ src) && !e.tinEn (src - 4), s + 8),
    (tinOff 9 0 (e.rd (s + 0x28)) || tinOff 25 16 (e.rd (s + 0x28)), s + 0x28),
    (tinOff 9 0 (e.rd (s + 0x2C)) || tinOff 25 16 (e.rd (s + 0x2C)), s + 0x2C)]

/-- Two regions of Lakebed, in units of 32 MiB, overlap. -/
def overlap (a n b m : Nat) : Bool := decide (a < b + m) && decide (b < a + n) && n != 0 && m != 0

/-- Lakebed regions and device-wide records (R177, R276, R281, R284, R306, R325, R496). -/
def Dev.checkRegions (d e : Dev) : List Finding :=
  let base := e.rf 0x10040 6 0
  let size := e.rf 0x10040 22 16
  let oc := e.rf 0x14048 6 0
  let ocN := (e.ocEn).toNat
  let fs := e.rf 0xA070 6 0
  let fsN := (e.rb 0xA070 31).toNat
  let lbCells := d.liveQueues.any (fun q => d.spillCells q != 0 || (d.qPool q == 1 && d.ownCells q != 0))
  offending 7 [
    (overlap base size fs fsN || overlap base size oc ocN, 0x10040),
    (decide (128 < base + size), 0x10040),
    (lbCells && d.rd 0x10040 != e.rd 0x10040, 0x10040),
    (overlap oc ocN base size || overlap oc ocN fs fsN || overlap oc ocN 0 8, 0x14048)] ++
  offending 1 [
    (e.qClass (e.rf 0x1005C 9 0) == 2, 0x1005C),
    (e.qClass (e.rf 0xE064 9 0) == 2, 0xE064),
    (e.qClass (e.rf 0x8068 9 0) == 2, 0x8068),
    (e.qClass (e.rf 0x1C040 9 0) == 2, 0x1C040)]

/-- R284 and R416: queues by number, with their next STATE. -/
def Dev.checkQueues (d e : Dev) (next : Un → UState) : List Finding :=
  let qs := ((e.slotsIn 0x500000 0x510000).filterMap (fun u => match u with | .queue q => some q | _ => none)).insertionSort (· ≤ ·)
  let qs := (qs ++ d.liveQueues).dedup.insertionSort (· ≤ ·)
  let live := fun (q : Nat) => next (.queue q) == .ready || next (.queue q) == .run
  let each := qs.flatMap (fun q =>
    let a := Dev.qAddr q
    let w := e.rd (a + 8)
    let moved := (d.rd (a + 8) ^^^ w) &&& 0xF0000000 != 0
    offending 7 [(moved && (d.qState q != .parked || d.qFill q != 0), a + 8)] ++
    offending 1 [(decide (e.rf (a + 0xC) 25 0 < fld w 16 0), a + 8),
      (bit w 28 && (bit w 29 || decide (fld w 16 0 < 4)), a + 8)] ++
    offending 7 [(bit w 24 && live q && qs.any (fun r => decide (r ≠ q) && live r && e.qOen r &&
        e.rf (Dev.qAddr r + 8) 23 20 == fld w 23 20), a + 8)])
  let pool := fun (k : Nat) =>
    let cells := e.poolCells k
    let floors := e.floorOf k 0 + e.floorOf k 1 + e.floorOf k 2
    let fa := if k = 0 then 0x10044 else 0x10050
    if cells < floors then [(⟨fa, 7, w32 ((fa % 0x800) * 0x10000 + 0x2000)⟩ : Finding)]
    else
      let counted := qs.filter (fun q => e.qPool q == k && (live q || d.qFill q != 0))
      let r := counted.foldl (fun (acc : Nat × Option Nat) q =>
        match acc.2 with
        | some _ => acc
        | none =>
          let s := acc.1 + e.rf (Dev.qAddr q + 8) 16 0
          (s, if cells < s then some q else none)) (floors, none)
      match r.2 with
      | some q => [finding (Dev.qAddr q + 8) 7]
      | none => []
  each ++ pool 0 ++ pool 1

/-- The queue fields that units in RUN can write to (R284). -/
def Dev.checkTargets (e : Dev) (chans floats : List Nat) (next : Un → UState) : List Finding :=
  let dead := fun (q : Nat) => next (.queue q) != .run
  offending 7 (chans.map (fun n => (dead (e.rf (chanPage n + 0x78) 9 0), chanPage n + 0x78)) ++
    (floats.filter (fun i => e.flAct i == 1 || e.flAct i == 2)).map (fun i => (dead (e.rf (flAt i + 8) 9 0), flAt i + 8)) ++
    chans.flatMap (fun n => [0, 1].map (fun j =>
      let a := rbSlot (n / 32) (2 * (n % 32) + j)
      (e.rb (a + 0xC) 31 && dead (e.rf (a + 0xC) 9 0), a + 0xC))))

/-- The link must not consume a queue that an outlet consumes (R477). -/
def Dev.checkFwd (e : Dev) : List Finding :=
  offending 7 ((List.range 8).map (fun k =>
    (e.rb (0x1A0C0 + 4 * k) 31 && e.qOen (e.rf (0x1A0C0 + 4 * k) 9 0), 0x1A0C0 + 4 * k)))

/-- Rank of a staged STATE in R84. -/
def campRank (s : UState) : Nat := match s with | .run => 3 | .ready | .held => 2 | _ => 1
def childRank (s : UState) : Nat := match s with | .run => 3 | .ready => 2 | _ => 1

/-- R84, for the listed units. -/
def checkOrder (us : List Un) (next : Un → UState) : List Finding :=
  us.flatMap (fun u => match u, u.camp? with
    | .camp _, _ => []
    | _, some c => offending 1 [(decide (campRank (next (.camp c)) < childRank (next u)), stateAt u)]
    | _, none => [])

/-! ### Stove (R270, R275) -/

/-- What the plan of R270 adds up to: SUS, PEAK in mW and the burst's energy in µJ, or the first task that does not fit. -/
structure Plan where
  sus : Nat
  peak : Nat
  burst : Nat
  bad : Option (Nat × Word)

/-- A task of the plan: where its offender lies, OFFENDER, mW, zones in nW, and its lease in ns when it is short. -/
structure PlanTask where
  at_ : Nat
  off : Word
  mw : Nat
  zones : List (Nat × Nat)
  short : Option Nat

/-- The device-wide and zone conditions after the first tasks of a plan. -/
def Dev.planFits (e : Dev) (ts : List PlanTask) : Bool :=
  let long := ts.filter (·.short.isNone)
  let sus := e.baseDecl + (long.map (·.mw)).sum
  let peak := e.baseDecl + (ts.map (·.mw)).sum
  let lease := (ts.filterMap (·.short)).foldl max 0
  let above := peak - e.pkgSus
  let inZ := fun (l : List PlanTask) (z : Nat) => (l.map (fun t => ((t.zones.filter (fun p => p.1 = z)).map (·.2)).sum)).sum
  decide (sus ≤ e.pkgSus) && decide (peak ≤ e.pkgPeak) &&
    (List.range 16).all (fun z =>
      decide (inZ long z ≤ (e.rd (zonePage z + 0x40)).toNat * 1000000) &&
      decide (inZ ts z ≤ (e.rd (zonePage z + 0x44)).toNat * 1000000)) &&
    (above == 0 || (decide (lease ≤ e.burstT) && decide (above * lease ≤ e.burstE * 1000000))) &&
    decide (sus * 1000000000 + above * lease ≤ e.pkgSus * 1000000000)

def planFrom (e : Dev) (done : List PlanTask) : List PlanTask → Plan
  | [] =>
    let long := done.filter (·.short.isNone)
    let peak := e.baseDecl + (done.map (·.mw)).sum
    let lease := (done.filterMap (·.short)).foldl max 0
    ⟨e.baseDecl + (long.map (·.mw)).sum, peak, cdiv ((peak - e.pkgSus) * lease) 1000000, none⟩
  | t :: rest =>
    if e.planFits (done ++ [t]) then planFrom e (done ++ [t]) rest else ⟨0, 0, 0, some (t.at_, t.off)⟩

/-- The plan of the candidate configuration. -/
def Dev.plan (e : Dev) (chans : List Nat) : Plan :=
  let one := fun (n : Nat) =>
    let lease := (e.lease n + 20) * 1000
    let short := decide (e.lease n ≠ 0 ∧ lease ≤ e.burstT)
    (⟨chanPage n + 4, w32 (4 * 0x10000 + 0x4000 + n), e.decl n, [(n / 32, e.decl n * 1000000)],
      if short then some lease else none⟩ : PlanTask)
  let ts := (chans.filter (fun n => e.decl n != 0)).map one
  let cfg := e.weirCfg 0
  let ws := chans.filter (fun n => e.chMode n == 3)
  let each := cfg.nwEach
  let dur := cfg.driveUs * 1000
  let w := if ws = [] then [] else
    [(⟨0xA044, w32 (0x44 * 0x10000 + 0xAFFF), cdiv (each * ws.length) 1000000,
      ((List.range 16).map (fun c => (c, each * (ws.filter (fun n => n / 32 == c)).length))),
      if dur ≤ e.burstT then some dur else none⟩ : PlanTask)]
  planFrom e [] (ts.filter (·.short.isNone) ++ w ++ ts.filter (·.short.isSome))

/-- R275: limits lowered, or BASE_DECL raised, against the tasks that stay admitted: those of channels that the pitch takes out
of RUN end, and so do calibrations of channels that it touches (R145). -/
def Dev.checkLimits (d : Dev) (k : Nat) (e : Dev) (next : Un → UState) : List Finding :=
  let hit := d.touched k
  let ts := d.admitted.filter (fun t => match t.kind with
    | 1 => next (.chan t.unit) == .run
    | 3 => !hit.contains (.chan t.unit)
    | _ => true)
  let lowered := fun (a : Nat) => decide ((e.rd a).toNat < (d.rd a).toNat)
  let b := e.baseDecl
  let sus := susOf b e.burstT ts
  let peak := peakOf b ts
  offending 6 ([
    (decide (d.baseDecl < b) && (decide (e.pkgSus < sus) || decide (e.pkgPeak < peak)), 0x8044),
    (lowered 0x8048 && decide (e.pkgSus < sus), 0x8048),
    (lowered 0x804C && decide (e.pkgPeak < peak), 0x804C)] ++
    (List.range 16).flatMap (fun z => [
      (lowered (zonePage z + 0x40) && decide ((e.rd (zonePage z + 0x40)).toNat * 1000000 < zSusOf e.burstT z ts), zonePage z + 0x40),
      (lowered (zonePage z + 0x44) && decide ((e.rd (zonePage z + 0x44)).toNat * 1000000 < zPeakOf z ts), zonePage z + 0x44)])) ++
  offending 1 ([(decide (e.pkgPeak < e.pkgSus), 0x804C)] ++ (List.range 16).map (fun z =>
    (decide ((e.rd (zonePage z + 0x44)).toNat < (e.rd (zonePage z + 0x40)).toNat), zonePage z + 0x44)))

/-! ### Target states (R103, R106) -/

/-- A power state that cannot serve RUN, or a channel's or camp's READY (R63). -/
def Dev.noPower (d : Dev) : Bool :=
  d.pwr.stopping || d.pwr.st == .standby || d.pwr.st == .entering || d.pwr.st == .safeOff

def campOrChan : Un → Bool
  | .camp _ | .chan _ => true
  | _ => false

/-- The conditions that are checked again before the instant. -/
def Dev.checkUnits (d : Dev) (k : Nat) : List Finding :=
  let diff := d.diffStates k
  (d.touched k).flatMap (fun u =>
    let s := d.state u
    let a := stateAt u
    let staged := d.stagedState u
    let put := diff.contains u
    (if s = .quarantine then [finding a 2] else []) ++ (if s = .fault then [finding a 3] else []) ++
      (if s = .off then [finding a 4] else []) ++
      (if staged = .run ∧ u ≠ .device ∧ (!d.pwr.ilk || d.pwr.trip) = true then [finding a 5] else []) ++
      (if d.noPower ∧ put ∧ ((staged = .run ∧ (u.active || campOrChan u) = true) ∨ (staged = .ready ∧ campOrChan u = true)) then
        [finding a 14] else []))

/-- Pages and slots in scope whose LOST is set (R82). R103 names no field of the page: OFFENDER holds 0x008, the offset of
STAGE_STAT in its half (DESIGN CHOICE, notes/assumptions/84). -/
def Dev.checkLost (d : Dev) (k : Nat) : List Finding :=
  (SMap.keys d.regs).filterMap (fun a =>
    if a % 0x1000 = 0x808 ∧ inScope k (a - 0x808) ∧ bit (d.rd a) 2 ∧ (Un.ofAddr (a - 0x808)).isSome ∧ slotOf a = none then
      some ⟨a - 0x800, 8, offender (a - 0x800)⟩
    else match (if isStaged a then none else Un.ofAddr a) with
      | some u => if u.inSlot && inScope k a && bit (d.rd a) 29 then some (finding a 8) else none
      | none => none)

/-- The lowest offset, and there the lowest code (R100). -/
def firstFinding (l : List Finding) : Option Finding :=
  l.foldl (fun m x => match m with
    | none => some x
    | some y => if x.at_ < y.at_ ∨ (x.at_ = y.at_ ∧ x.code < y.code) then some x else some y) none

/-- The instant of a controller cannot occur (R103). -/
def Dev.noInstant (d : Dev) (k : Nat) : Bool :=
  let b := 0x1100 + 0x20 * k
  let w := d.rd (b + 4)
  match fld w 2 0 with
  | 1 => d.phSrc == 0 || !d.markOn (fld w 15 8)
  | 2 => decide ((join64 (d.rd (b + 0xC)) (d.rd (b + 8))).toNat ≤ d.now.toNat)
  -- a field event is enabled by EN at the root, and at a member while it is in a field (R472)
  | 3 => if d.vl.addr = some 1 then !d.rb (0x1B100 + 4 * fld w 23 16) 31 else !d.inField
  | _ => false

/-- Controllers whose scope meets that of k (R98). -/
def overlapping (k : Nat) : List Nat := if k = 0 then (List.range 17).filter (· != 0) else [0]

def PState.locks : PState → Bool
  | .checking | .armed => true
  | _ => false

/-- The whole check: what offends first, and the plan that it made (R100, R270). -/
def Dev.check (d : Dev) (k : Nat) : Option Finding × Option Plan :=
  let e := d.candidate k
  let next := d.nextState k
  let us := d.someUnits
  let chans := ((us.filterMap (fun u => match u with | .chan n => some n | _ => none)).filter (fun n => next (.chan n) == .run)).insertionSort (· ≤ ·)
  let floats := (us.filterMap (fun u => match u with | .float i => some i | _ => none)).filter (fun i => next (.float i) == .run)
  let timers := (us.filterMap (fun u => match u with | .timer t => some t | _ => none)).filter (fun t => next (.timer t) == .run)
  let det := d.stoveDet || e.stoveDet || d.rb 0x8840 0
  let plan := if det then some (e.plan chans) else none
  let coefs := (d.diffCoefs k).filter (fun c => d.rb (rbPage c + 0x40) 0)
  let all :=
    (e.pagesIn 0x200000 0x400000).flatMap e.checkChan ++ e.checkWeir ++ e.checkCompass ++
      ((e.pagesIn 0x100000 0x200000).filter (fun p => p % 0x10000 == 0x1000)).flatMap e.checkStreams ++
      coefs.map (fun c => finding (rbcPage c + 0x44) 7) ++
      floats.flatMap e.checkFloat ++ timers.flatMap e.checkTimer ++ d.checkRegions e ++ d.checkQueues e next ++
      e.checkTargets chans floats next ++ e.checkFwd ++ checkOrder us next ++ d.checkLimits k e next ++ d.checkUnits k ++ d.checkLost k
  -- the plan names its offender itself, in the scope or outside it (R270)
  let late := match plan with
    | some p => (match p.bad with | some (a, off) => [⟨a, 6, off⟩] | none => [])
    | none => []
  (match firstFinding (all.filter (fun f => inScope k f.at_) ++ late) with
   | some f => some f
   | none => if d.noInstant k then some ⟨0, 10, 0⟩ else none, plan)

end Sys2Proof.Machine
end

