-- ==== Sys2Proof/Machine/PitchOps.lean ====
section
/-! DEFINITION. Pitch controllers: their commands, the pitch itself, and what a changed field brings in each block
(R99–R107). -/

namespace Sys2Proof.Machine

/-! ### Staged values -/

/-- Controllers whose scope has an offset. -/
def ctlsOf (a : Nat) : List Nat := (List.range 17).filter (fun k => inScope k a)

/-- A staging write is refused while a controller in whose scope it lies is CHECKING or ARMED (R101). -/
def Dev.stageLocked (d : Dev) (a : Nat) : Bool := (ctlsOf a).any (fun k => (d.ctl k).ps.locks)

/-- A staged value at an applied offset has changed: PASSED controllers return to IDLE (R99). -/
def Dev.restaged (d : Dev) (a : Nat) : Dev :=
  forEach (ctlsOf a) (fun k (d : Dev) =>
    if (d.ctl k).ps == .passed then d.setCtl k { d.ctl k with ps := .idle } else d) d

/-- Copy the applied ST fields of a register into the staged view. -/
def Dev.revertReg (d : Dev) (a : Nat) : Dev :=
  if d.stagedWord a = d.rd a then d
  else
    let m := w32 (stMask a)
    (d.wr (a + 0x800) ((d.rd (a + 0x800) &&& ~~~m) ||| (d.rd a &&& m))).restaged a

/-- Copy a unit's applied STATE into its staged STATE. -/
def Dev.revertState (d : Dev) (u : Un) : Dev :=
  if d.stagedState u = d.ust u then d else (d.setStagedState u (d.ust u)).restaged u.addr

/-- The staged coefficient image becomes the applied one. -/
def Dev.revertCoefs (d : Dev) (c : Nat) : Dev :=
  let r := d.reed c
  if r.dirty then (d.setReed c { r with coefS := r.coefA }).restaged (rbcPage c) else d

/-- STAGE_STAT.REVERT of a page: every ST field of the page (R79). -/
def Dev.revertPage (d : Dev) (p : Nat) : Dev :=
  let d := forEach (d.stRegs.filter (fun a => a - a % 0x1000 == p)) (fun a (d : Dev) => d.revertReg a) d
  let us := d.someUnits.filter (fun u => u != .device && u.addr - u.addr % 0x1000 == p)
  let d := forEach us (fun u (d : Dev) => d.revertState u) d
  if 0x100000 ≤ p ∧ p < 0x200000 ∧ p % 0x10000 = 0x2000 then d.revertCoefs ((p - 0x100000) / 0x10000) else d

/-- A page is DIRTY (R79). -/
def Dev.dirty (d : Dev) (p : Nat) : Bool :=
  d.stRegs.any (fun a => a - a % 0x1000 == p && d.stagedWord a != d.rd a) ||
    d.someUnits.any (fun u => u != .device && u.addr - u.addr % 0x1000 == p && d.stagedState u != d.ust u) ||
    (decide (0x100000 ≤ p ∧ p < 0x200000 ∧ p % 0x10000 = 0x2000) && (d.reed ((p - 0x100000) / 0x10000)).dirty)

/-! ### What a changed field brings -/

/-- Streams whose history a pitch ends (R230): their own slot, their channel's ranges and WEIR mode, the phase source. -/
def Dev.restarts (d : Dev) (regs : List Nat) : List (Nat × Nat) :=
  let one := fun (a : Nat) =>
    let o := a % 0x1000
    if 0x100000 ≤ a ∧ a < 0x200000 ∧ a / 0x1000 % 16 = 1 ∧ 0x80 ≤ o ∧ o < 0x480 then
      [((a - 0x100000) / 0x10000, (o - 0x80) / 0x10)]
    else if 0x200000 ≤ a ∧ a < 0x400000 ∧ o = 0x40 then
      let n := (a - 0x200000) / 0x1000
      let w := d.rd a
      let v := d.stagedWord a
      if (w ^^^ v) &&& 0x310 != 0 ∨ (fld w 2 0 = 3) ≠ (fld v 2 0 = 3) then [(n / 32, 2 * (n % 32)), (n / 32, 2 * (n % 32) + 1)] else []
    else if a = 0x3040 ∧ fld (d.rd a) 2 0 ≠ fld (d.stagedWord a) 2 0 then
      (SMap.keys d.streams).filterMap (fun i => if (d.rbCfg (i / 64) (i % 64)).mode = 3 then some (i / 64, i % 64) else none)
    else []
  (regs.flatMap one).dedup

/-- A changed channel configuration of a channel that stays in RUN (R128, R129, R261, R268, R273). -/
def Dev.chanChanged (old d : Dev) (n : Nat) : Dev :=
  let was := fun f => flapSel (old.chFlaps n) f
  let isIn := fun f => flapSel (d.chFlaps n) f
  let gone := fun f => ((d.ch n).flap f).shut && !isIn f
  let added := (isIn .force && !was .force) || (isIn .sense && !was .sense)
  let d := if old.chMode n = 3 ∧ d.chMode n ≠ 3 then d.weirDrop n else d
  let waiting := (d.taskOf 1 n false).isSome
  let d :=
    if old.decl n < d.decl n ∨ (waiting ∧ old.decl n ≠ d.decl n) then
      let d := d.withdraw 1 n
      if d.decl n = 0 then d else d.requestChan n
    else d
  if gone .force || gone .sense then d.softOpen n (gone .force) (gone .sense)
  else if added && (d.ch n).ampOn && (d.ch n).ramp == .none then d.updCh n (fun x => { x with ramp := .toAdd })
  else d.startClose n

/-- EXTEST or HIGHZ acts (R512). -/
def Dev.scanning (d : Dev) : Bool := d.rf 0x1E040 3 2 == 2 && (d.mon.ir == .extest || d.mon.ir == .highz)

/-- A thermal hold of Stove stands over the channel (R266). -/
def Dev.hotCause (d : Dev) (n : Nat) : Bool := decide (d.zTmax (n / 32) + 80 ≤ d.tz (n / 32)) || decide (d.pTmax + 80 ≤ d.tp)

/-- The causes for which a channel is held again (R82): ILK low, a scan, a thermal hold, a packet that waits. -/
def Dev.holdCause (d : Dev) (n : Nat) : Bool :=
  !d.pwr.ilk || d.scanning || d.hotCause n ||
    d.fab.pend.any (fun p => match p.un with
      | some (.chan m) => m == n
      | some (.float i) => i / 4 == n
      | _ => false)

/-- Effects of changed registers outside channels and streams; `old` is the device before the pitch. -/
def Dev.fieldsChanged (old d : Dev) (regs : List Nat) : Dev :=
  let has := fun (a : Nat) => regs.contains a
  let diff := fun (a hi lo : Nat) => fld (old.rd a) hi lo != fld (d.rd a) hi lo
  -- Compass
  let d := forRange 2 (fun x (d : Dev) =>
    if (diff (encAt x) 0 0 && d.encEn x) || diff (encAt x + 4) 24 0 then d.encRestart x else d) d
  let d := if diff 0x3040 2 0 then d.selectSource old.phSrc
    else
      let d := if has 0x3054 || (d.phSrc == 4 && has 0x40A0) then d.posJump (old.inputPos d.phSrc) else d
      let d := if diff 0x3040 9 9 then d.interpChange else d
      let d := if d.phSrc = 1 ∧ has (encAt 0 + 4) ∨ d.phSrc = 2 ∧ has (encAt 1 + 4) then
          ((d.setCps { d.cps with edges := [] }).histCut none none).jump (d.inputPos d.phSrc) (.track 0 1 (some 0))
        else d
      d.idxNote d.now
  let d := if has 0x304C && !diff 0x3040 2 0 then d.vincChange else d
  let d := forEach (regs.filter (fun a => decide (0x5000 ≤ a ∧ a < 0x8000) && (a % 0x1000 % 16 == 0 || a % 0x1000 % 16 == 8)))
    (fun a (d : Dev) => d.wb (a - a % 16 + 0xC) 0 false) d
  -- timers, queues, Ocpen, Stove
  let d := forRange 32 (fun t (d : Dev) =>
    if diff (tmAt t + 8) 3 0 || has (tmAt t + 0xC) then d.tmClearA t else d) d
  let groups := ((regs.filter (fun a => decide (0x500000 ≤ a ∧ a < 0x510000))).filterMap (fun a => match slotOf a with
    | some (.queue q) => some (q / 32)
    | _ => none)).dedup
  let d := forEach groups (fun w (d : Dev) => d.sampleGroup w) d
  let d := if diff 0x14048 31 31 then d.ocEmpty else d
  let d := if regs.any (fun a => (decide (0x8040 ≤ a ∧ a < 0x8068)) ||
      (decide (0x100000 ≤ a ∧ a < 0x200000) && a / 0x1000 % 16 == 4 && decide (a % 0x1000 < 0x50))) then
      d.setStove { d.stove with walkDue := true }
    else d
  -- BASE_DECL below the standing MEAS_BASE (R264)
  let d := if has 0x8044 && decide (d.baseDecl < d.stove.measBase) then d.fault stovePage 4 else d
  -- Reedbeds that stop or start
  forRange 16 (fun c (d : Dev) =>
    if !diff (rbPage c + 0x40) 0 0 then d
    else if d.rb (rbPage c + 0x40) 0 then d.startReed c
    else forRange 64 (fun k (d : Dev) => d.setStrm c k {}) d) d

/-- Floats whose slots a pitch touches: by a register, or by their STATE (R97). -/
def floatsIn (regs : List Nat) (us : List Un) : List Nat :=
  (regs.filterMap (fun a => match slotOf a with | some (.float i) => some i | _ => none) ++
    us.filterMap (fun u => match u with | .float i => some i | _ => none)).dedup

/-- Floats whose slots changed: a fresh start, and a gate that GMODE 0 leaves open ends its edges (R243, R248). -/
def Dev.floatsChanged (d : Dev) (is_ : List Nat) : Dev :=
  forEach is_ (fun i (d : Dev) =>
    let d := d.flFresh i
    if d.flGmode i == 0 then d.updFl i (fun x => { x with gate := false, edges := [], openEdge := none, lastOpen := none }) else d) d

/-! ### The pitch -/

/-- A pitch sets a unit's STATE. -/
def Dev.pitchState (d : Dev) (u : Un) (b a : UState) : Dev :=
  let d := (d.setUnit u { last := a, held := false }).leave u b a
  match u with
  | .chan n => if a == .run then d.chanStart n else d
  | _ => d

/-- The PITCH or PITCH_CANCEL record (R302). -/
def Dev.whenWord (d : Dev) (k : Nat) : Word := d.rd (0x1104 + 0x20 * k)

/-- A checking or armed pitch is abandoned (R99, R106). -/
def Dev.pitchCancel (d : Dev) (k result : Nat) (off : Word) : Dev :=
  (d.setCtl k { d.ctl k with ps := .cancelled, result := result, offender := off, arming := false }).fabRec 0x81 0x2000
    (w32 (result * 2 ^ 24 + k * 2 ^ 16)) (d.whenWord k) off

/-- Every staged field in scope that differs takes effect (R105): the queues first, which take what the other units write in
this cycle, and then, under the order of R256, units leave RUN, fields change, units enter RUN. -/
def Dev.pitchTake (d : Dev) (k : Nat) : Dev :=
  let old := d
  let devB := d.devState
  let regs := d.diffRegs k
  let coefs := d.diffCoefs k
  let moves := ((d.diffStates k).insertionSort (fun u v => u.addr ≤ v.addr)).map (fun u => (u, d.ust u, d.stagedState u))
  let stay := (d.someUnits.filterMap (fun u => match u with | .chan n => some n | _ => none)).filter (fun n =>
    d.ust (.chan n) == .run && d.nextState k (.chan n) == .run && regs.contains (chanPage n + 0x40) ||
    d.ust (.chan n) == .run && d.nextState k (.chan n) == .run && (regs.contains (chanPage n + 0x44) || regs.contains (chanPage n + 0x48)))
  let n := (d.touchedIds k).length
  let isQ := fun (u : Un) => match u with | .queue _ => true | _ => false
  let d := forEach (regs.filter (fun a => decide (0x500000 ≤ a ∧ a < 0x510000))) (fun a (d : Dev) => d.wr a (d.stagedWord a)) d
  let d := forEach (moves.filter (fun m => isQ m.1)) (fun m (d : Dev) => d.pitchState m.1 m.2.1 m.2.2) d
  let rest := moves.filter (fun m => !isQ m.1)
  let restarts := d.restarts regs
  let cals := (SMap.keys d.chans).filter (fun n => (d.ch n).cal != 0 && (d.touched k).contains (.chan n))
  let d := forEach cals (fun n (d : Dev) => d.calAbort n) d
  let d := forEach (rest.filter (fun m => m.2.2 != .run)) (fun m (d : Dev) => d.pitchState m.1 m.2.1 m.2.2) d
  -- episodes are cut under the configuration that they ran by (R256)
  let floats := floatsIn regs (moves.map (·.1))
  let d := forEach floats (fun i (d : Dev) => d.flCut i true) d
  let d := forEach restarts (fun ck (d : Dev) => d.closeBlock ck.1 ck.2) d
  let stops := (List.range 16).filter (fun c => regs.contains (rbPage c + 0x40) && old.rb (rbPage c + 0x40) 0)
  let d := forEach stops (fun c (d : Dev) => forRange 64 (fun k (d : Dev) => d.closeBlock c k) d) d
  let d := forEach regs (fun a (d : Dev) => d.wr a (d.stagedWord a)) (d.markKeep regs)
  -- a pitch that applies CFG returns the channel to four-wire sensing (R125)
  let d := forEach (regs.filter (fun a => decide (0x200000 ≤ a ∧ a < 0x400000) && a % 0x1000 == 0x40)) (fun a (d : Dev) =>
    d.updCh ((a - 0x200000) / 0x1000) (fun x => { x with localSense := false })) d
  let d := forEach coefs (fun c (d : Dev) => d.setReed c { d.reed c with coefA := (d.reed c).coefS, loading := true }) d
  let d := old.fieldsChanged d regs
  let d := forEach restarts (fun ck (d : Dev) => if d.rbOn ck.1 then d.restart ck.1 ck.2 else d) d
  let d := d.floatsChanged floats
  let d := forEach stay (fun n (d : Dev) => old.chanChanged d n) d
  let d := forEach (rest.filter (fun m => m.2.2 == .run)) (fun m (d : Dev) => d.pitchState m.1 m.2.1 m.2.2) d
  let pages := (regs.map genAt ++ moves.flatMap (fun m => unitPages m.1) ++ coefs.map rbcPage ++
    (if devB ≠ d.devState then unitPages .device else [])).dedup
  let d := forEach pages (fun p (d : Dev) => d.gen p) d
  -- no pitch sets the device's STATE: it follows the units (R87), and its change is the device's (R92)
  let d := if devB ≠ d.devState then forEach (unitPages .device) (fun p (d : Dev) => d.stateEvent p) d else d
  let d := { d with settling :=
    ((old.settleKeys k).foldl (fun (m : SMap Bool) (a : Nat) => SMap.put false m a true) d.settling) }
  let d := (d.setCtl k { d.ctl k with ps := .applied, result := 0, offender := 0, appliedAt := d.now }).fabRec 0x80 0x2000
    (w32 (k * 2 ^ 16 + satU 16 n)) (d.whenWord k) 0
  -- a cause that persists holds the unit again in the next cycle (R82)
  let again := (moves.filter (fun m => m.2.1 == .held)).filterMap (fun m => match m.1 with
    | .chan n => if d.holdCause n then some (m.1, d.hotCause n) else none
    | .float i => if d.holdCause (i / 4) then some (m.1, d.hotCause (i / 4)) else none
    | u => if d.scanning then some (u, false) else none)
  { d with again := d.again ++ again }

/-- The instant of an armed controller (R104, R106). -/
def Dev.pitchApply (d : Dev) (k : Nat) : Dev :=
  if (d.ctl k).ps != .armed then d
  else match firstFinding (d.checkUnits k) with
    | some f => d.pitchCancel k f.code f.off
    | none => d.pitchTake k

/-- Controllers armed for an instant of a kind, lowest first. -/
def Dev.armedFor (d : Dev) (p : Word → Bool) : List Nat :=
  (List.range 17).filter (fun k => (d.ctl k).ps == .armed && p (d.whenWord k))

/-- Mark m fires: pitches armed on it take effect (R104). -/
def Dev.pitchesOnMark (d : Dev) (m : Nat) : Dev :=
  forEach (d.armedFor (fun w => fld w 2 0 == 1 && fld w 15 8 == m)) (fun k (d : Dev) => d.pitchApply k) d

/-! ### Commands (R99, R111) -/

def Dev.pitchFail (d : Dev) (k code : Nat) : Dev :=
  d.setCtl k { d.ctl k with ps := .failed, result := code, offender := 0, arming := false }

def Dev.pitchBusy (d : Dev) (k : Nat) : Bool := (overlapping k).any (fun j => (d.ctl j).ps.locks)

/-- CHECK and ARM. -/
def Dev.pitchStart (d : Dev) (k : Nat) (arm : Bool) : Dev :=
  let c := d.ctl k
  if c.ps.locks then d
  else if d.pitchBusy k then d.pitchFail k 9
  else if arm && c.ps == .passed then
    if d.noInstant k then d.pitchFail k 10 else d.setCtl k { c with ps := .armed }
  else d.setCtl k { c with ps := .checking, arming := arm }

/-- The check ends. A failed one leaves STAT.EMPTY as the last passed check wrote it: R100 lets it change PSTATE, RESULT and
OFFENDER only, where R113 speaks of the last check. After a check that passes, and after a pitch that applies, OFFENDER reads 0: the spec gives
it no value then (DESIGN CHOICE, notes/assumptions/84). -/
def Dev.checkEnd (d : Dev) (k : Nat) : Dev :=
  let c := d.ctl k
  if c.ps != .checking then d
  else
    let (f, plan) := d.check k
    match f with
    | some f => d.setCtl k { c with ps := .failed, result := f.code, offender := f.off, arming := false }
    | none =>
      let empty := d.diffRegs k == [] && d.stagedStates k == [] && d.diffCoefs k == []
      let d := match plan with
        | some p => d.setStove { d.stove with planSus := p.sus, planPeak := p.peak, planBurst := p.burst }
        | none => d
      d.setCtl k { c with ps := if c.arming then .armed else .passed, result := 0, offender := 0, empty := empty, arming := false }

def Dev.pitchDisarm (d : Dev) (k : Nat) : Dev := if (d.ctl k).ps.locks then d.pitchCancel k 12 0 else d

/-- DISCARD (R111). -/
def Dev.pitchDiscard (d : Dev) (k : Nat) : Dev :=
  if (d.ctl k).ps.locks then d
  else if d.pitchBusy k then d.fault 0x1000 30
  else
    let d := forEach (d.diffRegs k) (fun a (d : Dev) => d.revertReg a) d
    let d := forEach (d.stagedStates k) (fun u (d : Dev) => d.revertState u) d
    let d := forEach (d.diffCoefs k) (fun c (d : Dev) => d.revertCoefs c) d
    forEach (d.checkLost k) (fun f (d : Dev) =>
      if (slotOf f.at_).isSome then d.wb f.at_ 29 false else d.wb (f.at_ + 0x800) 2 false) d

/-- A reset cancels the pitches that would change a unit within its reach, given by UNIT_ID (R53). -/
def Dev.pitchReset (d : Dev) (reach : Nat → Bool) : Dev :=
  forEach ((List.range 17).filter (fun k => (d.ctl k).ps.locks && (d.touchedIds k).any reach)) (fun k (d : Dev) => d.pitchCancel k 13 0) d

end Sys2Proof.Machine
end

