-- ==== Sys2Proof/Machine/PowerOps.lean ====
section
/-! DEFINITION. Power states, resets and start-ups (R34, R39–R42, R46–R73), Efyon-S restarts (R492, R493), and what the
end of a command brings. -/

namespace Sys2Proof.Machine

def clkPage : Nat := 0x2000
def rstCause : Nat := 0x204C

/-- A sequencer's write that R54 or R369 refuses. -/
def Dev.pathFault (d : Dev) (page : Nat) : Dev := d.fault page 29

/-- A cause of attention (R440). -/
def Dev.atn (d : Dev) (i : Nat) : Dev := { d with mgmt := { d.mgmt with atnPend := bset d.mgmt.atnPend i true } }

/-! ### The READY ball (R41) -/

def Dev.readyOk (d : Dev) : Bool :=
  d.pwr.st == .ready && !d.pwr.poreset && !d.pwr.trip && d.pwr.ilk && !d.pwr.factory && !d.scanning

/-- The ball falls: FAULT.READY_DROP in READY or RUN (R88), and a cause of attention (R440). -/
def Dev.ballFall (d : Dev) : Dev :=
  if d.pwr.ball then
    let d := ({ d with pwr := { d.pwr with ball := false } } : Dev).atn 0
    if d.pwr.st == .ready then d.fault 0 2 else d
  else d

/-- 1 ms after the last condition holds again, the ball rises; an outage ends (R41, R497). -/
def Dev.ballRise (d : Dev) : Dev :=
  if d.readyOk && !d.pwr.ball then
    let h := d.health
    let h := match h.downAt with
      | some a => { h with downAt := none, downMs := satU 32 (h.downMs + (d.pwr.aonCnt - a).toNat * 1000 / 32768) }
      | none => h
    { d with pwr := { d.pwr with ball := true }, health := h }
  else d

/-! ### The thermal trip (R39) -/

/-- A sensor reads its trip point or more: 120 °C on a die, 90 °C in the module, in 1/16 °C (R265). -/
def Dev.tripOver (d : Dev) : Bool :=
  (List.range 36).any (fun i => decide ((if i < 32 then 1920 else 1440) ≤ (d.stove.temps.getD i 0).toInt))

/-- Every sensor has fallen 15 °C below its trip point. -/
def Dev.tripCool (d : Dev) : Bool :=
  (List.range 36).all (fun i => decide ((d.stove.temps.getD i 0).toInt ≤ (if i < 32 then 1680 else 1200)))

/-- The trip's faults: DEV FAULT.THERM_TRIP, and every camp in FAULT. -/
def Dev.tripFaults (d : Dev) : Dev :=
  (d.fault 0 3).changeH ((List.range 16).flatMap Un.ofCamp)
    (fun d => forRange 16 (fun c (d : Dev) => d.fault (Un.camp c).addr 28) d)

/-- The trip fires: READY falls, every flap hard-opens, every camp enters FAULT. In a reset only the latch moves, and the faults
stand when the pages have their reset values (DEDUCED, notes/assumptions/85). -/
def Dev.thermalTrip (d : Dev) : Dev :=
  let d : Dev := { d with pwr := { d.pwr with trip := true, tripHot := true } }
  if d.alive && !d.pwr.devOff then (d.ballFall.hardOpenAll).tripFaults else d

/-- Every sensor has fallen; a sample that says otherwise stands. -/
def Dev.thermalClear (d : Dev) : Dev := if d.tripCool then { d with pwr := { d.pwr with tripHot := false } } else d

/-- A sample of the sensors meets the trip. -/
def Dev.tripSample (d : Dev) : Dev :=
  if d.tripOver then (if d.pwr.tripHot then d else d.thermalTrip) else d.thermalClear

/-- An outage of the device begins (R497). -/
def Dev.downCore (d : Dev) : Dev :=
  let h := d.health
  { d with health := { h with downCore := satU 16 (h.downCore + 1), downAt := some (h.downAt.getD d.pwr.aonCnt) } }

/-! ### Efyon-S restarts (R403, R492, R493) -/

/-- Bits of the edge sources. -/
def edgeMask : BitVec 1024 := ~~~(BitVec.ofNat 1024 ((2 ^ 32 - 1) * 2 ^ 32))

/-- Sources ACTIVE for the host (`h`) or for Efyon-S are offered again (R403). -/
def Dev.reoffer (d : Dev) (h : Bool) : Dev :=
  let c := d.ic
  let hit := if h then c.active &&& c.actH else c.active &&& ~~~c.actH
  let d := d.icUpd (fun c => { c with active := c.active &&& ~~~hit, pend := c.pend ||| (hit &&& edgeMask) })
  forRange 32 (fun w (d : Dev) =>
    if hit.getLsbD (32 + w) && !c.stormed.getLsbD (32 + w) && d.groupLevel w then d.icUpd (fun c => { c with pend := bset c.pend (32 + w) true }) else d) d

/-- A path restarts: its open packet is lost (R288). -/
def Dev.resetPath (d : Dev) (p : Path) : Dev := (d.abortOpen p (some 11) false).setPath p {}

def Dev.slot (d : Dev) (i : Nat) : Slot := if i = 1 then d.pwr.slotA else d.pwr.slotB
def Dev.setSlot (d : Dev) (i : Nat) (x : Slot) : Dev :=
  { d with pwr := if i = 1 then { d.pwr with slotA := x } else { d.pwr with slotB := x } }

def SlotState.code : SlotState → Nat
  | .new => 0 | .trial => 1 | .good => 2 | .bad => 3

/-- A slot that can start (R59). -/
def Slot.cand (x : Slot) : Bool := x.magic && x.crc && (x.st == .new || x.st == .good)

/-- Slots in TRIAL become BAD. -/
def Slot.judged (x : Slot) : Slot := if x.st == .trial then { x with st := .bad } else x

/-- Boot slot selection (R59): the slot, or none. `prefer` is the slot that a warm record names. -/
def Dev.bootSelect (d : Dev) (prefer : Option Nat) : Dev × Option Nat :=
  let a := d.pwr.slotA.judged
  let b := d.pwr.slotB.judged
  let bad := d.pwr.slotA.st == .trial || d.pwr.slotB.st == .trial
  let d := { d with pwr := { d.pwr with slotA := a, slotB := b, markedBad := bad } }
  let force := d.rf 0x2058 1 0
  let byRule :=
    if force = 1 ∧ a.cand then some 1
    else if force = 2 ∧ b.cand then some 2
    else if !a.cand && !b.cand then none
    else if !b.cand then some 1
    else if !a.cand then some 2
    else if b.seq.toNat ≤ a.seq.toNat then some 1 else some 2
  match prefer with
  | some i => (d, if (d.slot i).cand then some i else byRule)
  | none => (d, byRule)

/-- Efyon-S firmware of a slot starts (R383, R384). A NEW slot becomes TRIAL. -/
def Dev.startFw (d : Dev) (i : Nat) : Dev :=
  let x := d.slot i
  let d := d.setSlot i (if x.st == .new then { x with st := .trial } else x)
  let d := { d with pwr := { d.pwr with slot := i, fwSeq := x.seq } }
  d.escStart (Config.slotEntry x.image) (Config.slotStack x.image) 2000

/-- Firmware that judges itself sound makes its slot GOOD (R59). The spec says neither when nor how it judges: the model asks at
each kick of the watchdog, and the answer is free (DESIGN CHOICE, notes/assumptions/87). -/
def Dev.fwConfirm (d : Dev) : Dev :=
  let x := d.slot d.pwr.slot
  if d.pwr.slot ≠ 0 ∧ x.st = .trial ∧ Config.fwSound d.now.toNat then d.setSlot d.pwr.slot { x with st := .good } else d

/-- A record of the HEALTH page (R496). -/
def Dev.healthRec (d : Dev) (type source : Nat) (t : Time) (p5 p6 p7 : Word) : Dev :=
  d.record (d.rf 0x1C040 9 0) none type 0 source t p5 p6 p7

/-- FW_SWITCH (R496): cause 1 SWITCH, 2 core reset, 3 watchdog fall-back. -/
def Dev.fwRec (d : Dev) (cause : Nat) (ns : Word) : Dev :=
  d.healthRec 0x8B 0x2000 d.now (w32 (cause * 4 + d.pwr.slot)) d.pwr.fwSeq ns

/-- What a core reset does beside the restart (R51, R403). -/
def Dev.coreStop (d : Dev) : Dev := (d.escStop.reoffer false).resetPath .efyonS

/-- At the end of a start-up RST_CAUSE takes the causes of the reset, and CLK_STAT.PLL_LOSS a loss of lock among them (R67, R68). -/
def Dev.reportCauses (d : Dev) : Dev :=
  let p := d.pwr
  let d := d.wr rstCause (d.rd rstCause ||| w32 (p.causes % 1024))
  let d := if p.pllLoss then d.wb 0x2048 26 true else d
  { d with pwr := { d.pwr with pllLoss := false } }

/-- What persists through a reset is recorded anew once the pages have their reset values: a low interlock and the thermal trip
(R39, R42; DEDUCED, notes/assumptions/85). -/
def Dev.persisting (d : Dev) : Dev :=
  let d : Dev := { d with pwr := { d.pwr with ilk := d.pwr.ilkBall } }
  let d := if d.pwr.ilk then d else d.fault 0 4
  if d.pwr.trip then d.tripFaults else d

/-- START_FAILED (R60): the device is in FAULT, and so is every unit below it. START_MS is 0 where no start-up led here, but a
selection after a watchdog expiry that found no slot (DESIGN CHOICE, notes/assumptions/84). -/
def Dev.startFailed (d : Dev) (ms : Nat) : Dev :=
  let d := d.reportCauses.hardOpenAll
  let d := { d with pwr := { d.pwr with st := .startFailed, startMs := ms, slot := 0, fwSeq := 0, biasing := false, causes := 0 } }
  (d.changeH Un.all (fun d => ({ d with pwr := { d.pwr with devOff := false, unitsOff := false } } : Dev).fault 0 5)).atn 3

/-- Units that a watchdog expiry holds (R51, R85, R361): every camp, its children in RUN and its contexts. -/
def Dev.wdogHeld (d : Dev) : List Un :=
  (List.range 16).map .camp ++ (List.range 160).map .ctx ++
    d.knownUnits.filter (fun u => match u with | .chan _ | .float _ => d.ust u == .run | _ => false)

/-! ### Resets (R51–R53) -/

/-- Registers that a reset outside the VAON domain leaves: the island's, and those it retains (R71, R463, R479). In a device
reset, which starts behind the step that fills the memories (R51, R57), also the memories. -/
def keepReg (dev : Bool) (a : Nat) : Bool :=
  a == 0x2058 || a == 0x1A040 || decide (0x19000 ≤ a ∧ a < 0x1A000) || (dev && decide (0x800000 ≤ a))

/-- Wear counts outlive every reset (R131, R487), and the flash's copy of the coefficients stands in for those that a failed
calibration leaves (R145, R486). -/
def ChanDyn.worn (x : ChanDyn) : ChanDyn := { fF := { wear := x.fF.wear }, fS := { wear := x.fS.wear }, coef := x.coef }

/-- What a camp reset leaves of a channel: the calibration stays in use (R144). -/
def ChanDyn.campKept (x : ChanDyn) : ChanDyn :=
  { x.worn with calValid := x.calValid, calAt := x.calAt, quickAt := x.quickAt, flapAt := x.flapAt }

/-- The channels behind a reset of the device, which opens every flap (R131). -/
def Dev.wornChans (d : Dev) : SMap ChanDyn :=
  (d.chans.map (fun kv => (kv.1, (d.resetWear kv.1).worn))).filter (fun kv => kv.2 != {})

/-- A reset of a reach that holds the CLK page, or its start-up, is in progress (R51, R52). -/
def Dev.inReset (d : Dev) : Bool :=
  d.pwr.st == .starting || d.pwr.biasing || d.pwr.st == .reset || (d.pwr.st == .campwatch && d.pwr.causes % 2 == 1)

/-- A pitch controller through a reset that reaches the PITCH page (R53). -/
def Dev.ctlAfter (d : Dev) (k : Nat) : PitchCtl :=
  let c := d.ctl k
  -- a reset that merges with this one leaves what it cancelled (R52)
  if c.ps = .cancelled ∧ c.result = 13 ∧ d.inReset then { ps := .cancelled, result := 13 }
  else if !c.ps.locks then {}
  else if d.touchedIds k = [] then { ps := c.ps, arming := c.arming }
  else { ps := .cancelled, result := 13 }

/-- What flash keeps (R486, R487, R497); an FW_CMD in progress ends with RESULT 6 (R500). -/
def Health.kept (h : Health) : Health :=
  { saved := h.saved, savedAt := h.savedAt, gaps := h.gaps, daily := h.daily, eol := h.eol, restarts := h.restarts,
    downMs := h.downMs, downCore := h.downCore, downCamp := h.downCamp, downAt := h.downAt,
    result := if h.op ≠ 0 then 6 else 0 }

/-- Everything outside the VAON domain returns to its reset state; a device reset keeps the host port's link and
configuration space, LTIME and CK_SYS (R51, R53). The thermal trip is no register: it stands until R39 clears it. -/
def Dev.wipe (d : Dev) (dev : Bool) : Dev :=
  let p := d.pwr
  let i := d.health.opImg
  -- a slot whose programming a reset interrupts has no valid MAGIC (R491)
  let p := if d.health.op = 1 then (if i = 1 then { p with slotA := {} } else { p with slotB := {} }) else p
  { regs := d.regs.filter (fun kv => keepReg dev kv.1)
    pitch := forRange 17 (fun k (m : SMap PitchCtl) => SMap.put {} m k (d.ctlAfter k)) []
    pwr := { p with devOff := true, unitsOff := true, biasing := false, campOff := [], campWait := [], startMs := 0,
                    markedBad := false, warm := false, stopping := false, kept := 0, leaving := 0, refused := false, drainTimeout := false,
                    ball := false, ilk := false, ckSys := dev && p.ckSys, slot := 0, fwSeq := 0, wakeReq := false }
    host := if dev then { d.host with outlets := [], dmaBytes := 0 } else { perst := d.host.perst, pmeEn := d.host.pmeEn, pmeStatus := d.host.pmeStatus, mem := d.host.mem }
    chans := d.wornChans
    cw := d.cw
    health := d.health.kept
    ue := if dev then d.ue else []
    lbUe := if dev then d.lbUe else []
    mon := {} }

/-- Causes of resets that merge (R52): one whose reach the reach of another contains is absorbed. -/
def mergeCauses (a b : Nat) : Nat :=
  let c := a ||| b
  if c % 2 = 1 then 1 else if c % 16 ≠ 0 then c % 16 else c

/-- Everything outside the VAON domain is held in reset, for a cause of R68. -/
def Dev.holdReset (d : Dev) (cause : Nat) : Dev :=
  let busy := d.inReset
  let d := d.wipe false
  { d with pwr := { d.pwr with st := if d.pwr.st == .campwatch then .campwatch else .reset,
                               causes := mergeCauses (if busy then d.pwr.causes else 0) (2 ^ cause) } }

/-! ### LTIME across resets and the start of a start-up (R55, R57, R58) -/

/-- The warm record is valid: each of the four module sensors, 32 to 35, within 10 °C of it (R58). -/
def Dev.warmOk (d : Dev) (temps : List (BitVec 16)) : Bool :=
  match d.pwr.warmRec with
  | some r =>
    r.rcClear && decide ((d.pwr.aonCnt - r.aon).toNat ≤ 24 * 3600 * 32768) &&
      [32, 33, 34, 35].all (fun i => decide (((r.temps.getD i 0).toInt - (temps.getD i 0).toInt).natAbs ≤ 160))
  | none => false

/-- The start-up begins: the PLL locks and LTIME restarts. -/
def Dev.beginStart (d : Dev) (warm : Bool) : Dev :=
  let p := d.pwr
  let resumed : Option Time := match p.pair with
    | some (l, ap) => if p.aonRc then none else some (l + BitVec.ofNat 64 ((p.aonCnt - ap).toNat * 1000000000 / 32768))
    | none => none
  let d := { d with pwr := { p with st := .starting, ckSys := true, fill := true, warm := warm, ltime := resumed.getD 0,
                                    origin := if resumed.isSome then 1 else 0,
                                    colds := if resumed.isSome then p.colds else p.colds + 1 } }
  { d with health := { d.health with savedAt := d.now } }

/-! ### Resets that meet another (R52) -/

/-- A reset or start-up absorbs a reset of smaller reach, and the start-up begins again from its first step (R52): that of a
device reset is the boot slot selection, that of a larger reset the lock of the PLL. -/
def Dev.startAgain (d : Dev) : Dev :=
  if d.pwr.st == .starting || d.pwr.biasing then
    let full := decide (d.pwr.causes % 16 ≠ 0)
    let warm := d.pwr.warm
    let temps := d.stove.temps
    let d := d.wipe (!full)
    let d := { d with stove := { d.stove with temps := temps } }
    if full then d.beginStart warm else { d with pwr := { d.pwr with st := .starting } }
  else d

/-- A device reset (R51): a cold start-up from the boot slot selection step. -/
def Dev.deviceReset (d : Dev) : Dev :=
  if !d.alive then d
  else if d.inReset && decide (d.pwr.causes % 16 ≠ 0) then d.startAgain
  else
    -- the reset of a PERST# that is low merges: neither reach contains the other (R52)
    let perst := if d.host.perst then 256 else 0
    let causes := mergeCauses (if d.inReset then d.pwr.causes else 0) (16 ||| perst)
    let d := d.wipe true
    { d with pwr := { d.pwr with st := .starting, causes := causes } }

/-- A reset of a reach outside that of a device reset, recorded in bit b of RST_CAUSE: alone, or merged with a reset or start-up
in progress, which begins again and records the causes at its end; a reset of everything outside VAON absorbs it (R51, R52). -/
def Dev.sideReset (d : Dev) (b : Nat) : Dev :=
  if d.inReset then
    if d.pwr.causes % 16 ≠ 0 then d.startAgain
    else ({ d with pwr := { d.pwr with causes := d.pwr.causes ||| 2 ^ b } } : Dev).startAgain
  else d.wb rstCause b true

/-- A core reset (R493); a start-up absorbs it. -/
def Dev.coreReset (d : Dev) : Dev :=
  if d.inReset then d.startAgain
  else if d.esc.running then
    let d := (d.coreStop).wb rstCause 6 true
    (d.startFw d.pwr.slot).fwRec 2 (Config.restartNs d.now.toNat)
  else d.wb rstCause 6 true

/-- The Efyon-S watchdog expires, or a double fault acts as its expiry (R51, R377, R383, R493);
a start-up absorbs it. -/
def Dev.wdogExpire (d : Dev) : Dev :=
  if d.inReset then d.startAgain
  else
  let d := ((d.fault escPage 1).wb rstCause 5 true).atn 4
  let d := d.downCore
  let d := (d.holdUnits d.wdogHeld).hardOpenAll
  let d := d.ballFall
  let d := d.coreStop
  match d.bootSelect none with
  | (d, some i) =>
    -- a slot that is resident in either half starts without a load (R493)
    let h := d.health
    let h := if i = d.pwr.slot then h else if h.loaded = some i then { h with half := 1 - h.half, loaded := none }
      else { h with load := some (i, h.half) }
    (({ d with health := h } : Dev).startFw i).fwRec 3 (Config.restartNs d.now.toNat)
  | (d, none) => d.startFailed 0

/-- Latch the pair of LTIME and the island count (R55). -/
def Dev.latchPair (d : Dev) : Dev :=
  let old := match d.pwr.pair with | some (l, a) => (l, a, d.pwr.pairColds) :: d.pwr.pairOld | none => d.pwr.pairOld
  if d.pwr.ckSys then
    { d with pwr := { d.pwr with pair := some (d.pwr.ltime, d.pwr.aonCnt), pairColds := d.pwr.colds, pairOld := old.take 8 } }
  else d

/-! ### Power requests (R62, R64, R66) -/

/-- A transition is in progress, during which a request is kept. -/
def Dev.inTransition (d : Dev) : Bool :=
  d.pwr.stopping || d.pwr.st == .starting || d.pwr.biasing || d.pwr.st == .entering ||
    (d.pwr.st == .safeOff && (d.pwr.leaving != 0 || d.pwr.wakeReq))

/-- Channels and camps in READY or RUN enter PARKED without a pitch (R62, R64, R82), and with them what lies below a camp: under
a PARKED camp no child is READY (R83; DEDUCED, notes/assumptions/91). -/
def Dev.parkAll (d : Dev) : Dev :=
  let us := d.knownUnits.filter (fun u => u.camp?.isSome && (d.ust u == .ready || d.ust u == .run))
  d.changeH (us.insertionSort (fun u v => u.addr ≤ v.addr)) (fun d =>
    forEach us (fun u (d : Dev) => d.setUnit u { last := .parked }) d)

/-- Carry out a power request; 2 STANDBY, 3 READY, 5 CAMPWATCH. A request for which R62 has no row does nothing: one that names
the present state, and any in START_FAILED, for which the spec gives none (DESIGN CHOICE, notes/assumptions/84). -/
def Dev.pwrDo (d : Dev) (target : Nat) : Dev :=
  match target, d.pwr.st with
  | 2, .ready =>
    if d.anyActive true then { d with pwr := { d.pwr with refused := true } }
    else
      let d := d.parkAll
      { d with pwr := { d.pwr with stopping := true } }
  | 3, .standby => { d with pwr := { d.pwr with st := .ready } }
  | 5, .standby | 5, .ready =>
    if d.anyActive true then { d with pwr := { d.pwr with refused := true } }
    else
      let d := d.parkAll
      { d with pwr := { d.pwr with st := .entering } }
  | _, _ => d

/-- A write of PWR_REQ (R62, R66): kept while a transition is in progress. In SAFE_OFF 2 and 3 begin the return, which SAFE_OFF_WAKE
completes, and assert WAKE# (R64); 5 there, for which R62 has no row, does nothing (DESIGN CHOICE, notes/assumptions/84). -/
def Dev.pwrRequest (d : Dev) (p : Path) (target : Nat) : Dev :=
  match p with
  | .ctx _ => d.pathFault clkPage
  | _ =>
    let d := { d with pwr := { d.pwr with refused := false, drainTimeout := false } }
    if target = 0 then { d with pwr := { d.pwr with kept := 0 } }
    else if d.pwr.st == .safeOff && !d.inTransition then
      if target = 5 then d else { d with pwr := { d.pwr with leaving := target }, cw := { d.cw with wakeDrv := true } }
    else if d.inTransition then { d with pwr := { d.pwr with kept := target } }
    else d.pwrDo target

/-- A kept request is carried out when the transition in progress completes. -/
def Dev.keptRun (d : Dev) : Dev :=
  if d.pwr.kept ≠ 0 ∧ !d.inTransition ∧ d.pwr.st ≠ .safeOff then
    let t := d.pwr.kept
    ({ d with pwr := { d.pwr with kept := 0 } } : Dev).pwrDo t
  else d

/-- PWR_REQ.TARGET (R66). -/
def Dev.pwrTarget (d : Dev) : Nat :=
  if d.pwr.kept ≠ 0 then d.pwr.kept else if d.pwr.leaving ≠ 0 then d.pwr.leaving else if d.pwr.stopping then 2 else if d.pwr.st == .entering then 5 else 0

/-- A wake event abandons an entry to CAMPWATCH (R64, R458, R461). -/
def Dev.abandonEntry (d : Dev) : Dev :=
  if d.inEntry then { d with pwr := { d.pwr with st := .standby } } else d

/-- Every MUST_DELIVER item has been taken (R64). -/
def Dev.drained (d : Dev) : Bool :=
  d.fab.queues.all (fun kv => d.qClass kv.1 != 2 || kv.2.pkts == []) && d.fab.pend.all (fun p => d.qClass p.q != 2)

/-- The wear counts of every flap, by 2 × channel + flap (R487). -/
def Dev.wearNow (d : Dev) : SMap Nat :=
  d.chans.flatMap (fun kv => (if kv.2.fF.wear = 0 then [] else [(2 * kv.1, kv.2.fF.wear)]) ++
    (if kv.2.fS.wear = 0 then [] else [(2 * kv.1 + 1, kv.2.fS.wear)]))

def Dev.saveWear (d : Dev) : Dev := { d with health := { d.health with saved := d.wearNow, savedAt := d.now } }

/-- The module loses power other than through R64: wear since the last save is lost (R487). -/
def Dev.loseWear (d : Dev) : Dev :=
  let h := d.health
  let back := forEach h.saved (fun kv (l : SMap ChanDyn) =>
    let x := SMap.get ({} : ChanDyn) l (kv.1 / 2)
    SMap.put {} l (kv.1 / 2)
      (if kv.1 % 2 = 0 then { x with fF := { x.fF with wear := kv.2 } } else { x with fS := { x.fS with wear := kv.2 } }))
    (d.chans.filterMap (fun kv =>
      let x := { kv.2 with fF := { kv.2.fF with wear := 0 }, fS := { kv.2.fS with wear := 0 } }
      if x = {} then none else some (kv.1, x)))
  { d with chans := back, health := { h with gaps := satU 16 (h.gaps + 1) } }

/-- Step 3 of R64: items of the other classes are discarded, the Ocpen window empties (R303), flash and Campwatch take what they
keep, SAFE_OFF. -/
def Dev.enterSafeOff (d : Dev) : Dev :=
  let d := forEach (SMap.keys d.fab.queues) (fun q (d : Dev) =>
    let ps := (d.queue q).pkts
    if ps = [] then d else (d.setQueue q { d.queue q with pkts := [], rd := 0 }).removed q 9 ps) d
  let d := d.saveWear.latchPair.ocEmpty
  let rec_ : WarmRec :=
    { aon := d.pwr.aonCnt, temps := d.stove.temps, slot := d.pwr.slot, rcClear := !d.pwr.aonRc
      coefs := d.chans.filterMap (fun kv => if kv.2.calValid || kv.2.coef != [] then some (kv.1, kv.2.calValid, kv.2.coef) else none)
      ratios := d.regs.filter (fun kv => decide (0x100000 ≤ kv.1 ∧ kv.1 < 0x200000) && kv.1 / 0x1000 % 16 == 3 &&
        decide (0x80 ≤ kv.1 % 0x1000 ∧ kv.1 % 0x1000 < 0x800)) }
  let watch := forRange 32 (fun i (m : SMap Word) => SMap.put 0 m i (d.rd (0xC080 + 4 * i))) []
  let d := d.setCw { d.cw with watch := watch }
  { d with pwr := { d.pwr with st := .safeOff, warmRec := some rec_, safeAt := some d.now } }

/-- The device leaves SAFE_OFF for the requested state (R64). -/
def Dev.leaveSafeOff (d : Dev) (target : Nat) : Dev :=
  { d with pwr := { d.pwr with st := if target = 3 then .ready else .standby,
                               leaving := 0, wakeReq := false } }

/-! ### The end of a command -/

/-- A unit below the device reads FAULT (SUMMARY.ANY_FAULT, R95). -/
def Dev.anyFault (d : Dev) : Bool :=
  d.regs.any (fun kv =>
    let a := kv.1
    if isStaged a then false
    else
      (match Un.ofAddr (a - 0xC) with
       | some u => !u.inSlot && 0xC ≤ a && d.scFault u && (d.ust u == .fault || (u == .device && (descendants .device).any (fun v => d.ust v == .fault)))
       | none => false) ||
      (match Un.ofAddr (a - 0x48) with
       | some (.outlet o) => d.ust (.outlet o) == .fault
       | _ => false))

/-- A unit below the device reads HELD (SUMMARY.ANY_HELD). -/
def Dev.anyHeld (d : Dev) : Bool := d.units.any (fun kv => kv.2.held && (match Un.ofAddr kv.1 with
  | some u => d.ust u == .held
  | none => false))

/-- Causes 1 and 2 of R440. -/
def Dev.atnSummary (d : Dev) : Dev :=
  let f := d.anyFault
  let h := d.anyHeld
  let d := if f && !d.mgmt.anyFault then d.atn 1 else d
  let d := if h && !d.mgmt.anyHeld then d.atn 2 else d
  { d with mgmt := { d.mgmt with anyFault := f, anyHeld := h } }

/-- The trip clears once every sensor has fallen and each camp's THERM_TRIP has been acknowledged (R39, R91); a camp within a
reset has none to acknowledge before the reset's end records it anew. -/
def Dev.tripCheck (d : Dev) : Dev :=
  if d.pwr.trip && !d.pwr.tripHot && !d.pwr.devOff && d.pwr.campOff == [] && (List.range 16).all (fun c => !d.rb ((Un.camp c).addr + 0xC) 28) then
    { d with pwr := { d.pwr with trip := false } }
  else d

/-- A scan holds every unit in RUN (R512) but queues and timers, which never enter HELD (R283, R313), and a unit that a pitch of
this cycle took out of HELD, which the next cycle holds again (R82). -/
def Dev.scanHolds (d : Dev) (u : Un) : Bool :=
  d.ust u == .run && !d.again.any (fun x => x.1 == u) && (match u with | .queue _ | .timer _ => false | _ => true)

/-- While EXTEST or HIGHZ acts, every flap is hard-opened and every unit in RUN enters HELD (R512). -/
def Dev.scanHold (d : Dev) : Dev :=
  if d.scanning then (d.holdUnits (d.knownUnits.filter d.scanHolds)).hardOpenAll else d

/-- What follows a command in the same cycle: holds and walks, a scan, first halves of apertures, the ends of a Weir run, wake events, the READY ball, attention. -/
def Dev.fin (d : Dev) : Dev :=
  let d := (Dev.settle 64 d).scanHold
  let d := (forEach d.apsDue (fun n (d : Dev) => d.apFirst n) d).weirStops.weirFinish
  let d := if d.pwr.wakeReq then d.abandonEntry else d
  let d := if d.pwr.wakeReq && d.pwr.st != .safeOff then { d with pwr := { d.pwr with wakeReq := false } } else d
  let d := d.tripCheck
  let d := if d.readyOk then d else d.ballFall
  d.atnSummary

end Sys2Proof.Machine
end

