-- ==== Sys2Proof/Machine/View.lean ====
section
/-! DEFINITION. What each register of BAR0 shows: the value that a read returns, without the read's side effects. -/

namespace Sys2Proof.Machine

/-! ### The common header (R75–R79, R90–R95) -/

/-- The pages of a unit that carry a header. -/
def headPages (u : Un) : List Nat := if u.inSlot then [] else unitPages u

/-- STATUS.SETTLING of a unit's page (R90); a Reedbed's settles with its streams (R230). -/
def Dev.settles (d : Dev) (page : Nat) : Bool :=
  if 0x100000 ≤ page ∧ page < 0x200000 ∧ page / 0x1000 % 16 = 1 then d.rbFilling ((page - 0x100000) / 0x10000)
  else match pageUnit page with
    | some u => SMap.get false d.settling u.addr
    | none => SMap.get false d.settling (settleKey page)

/-- A word of flags: bit i of the list is bit `lo + i`. -/
def flagWord (lo : Nat) (l : List Bool) : Nat :=
  ((List.range l.length).zip l).foldl (fun n x => n + (if x.2 then 2 ^ (lo + x.1) else 0)) 0

/-- SUMMARY of a main page (R95), exact in every cycle. -/
def Dev.summary (d : Dev) (u : Un) : Word :=
  let ds := descendants u
  let st := ds.map d.ust
  let direct := match u with
    | .device => (List.range 16).map Un.camp
    | .camp c => (List.range 32).map (fun j => Un.chan (32 * c + j))
    | _ => []
  let ps := ds.flatMap headPages
  w32 ((direct.filter (fun x => d.ust x == .run)).length +
    flagWord 25 [st.contains .off, ps.any d.dirty, ds.any (fun x => !x.inSlot && SMap.get false d.settling x.addr),
      st.contains .run, st.contains .held, st.contains .quarantine, st.contains .fault])

/-- GEN of a page, SLOT_GEN of a slot (R93): a unit's exit from OFF counts, and within a reset it reads 0. -/
def Dev.genView (d : Dev) (a : Nat) : Word :=
  let u := match slotOf a with | some u => some u | none => pageUnit a
  let g := SMap.get 0 d.gens a
  match u with
  | some u => if d.state u == .off then 0 else g + 1
  | none => g

/-- CHILD and CHILD_BASE of a main page (R94). -/
def childOf : Un → Nat × Nat
  | .device => (16 * 2 ^ 14 + 16, 0x100000)
  | .camp c => (32 * 2 ^ 14 + 12, 0x200000 + c * 0x20000)
  | _ => (0, 0)

/-! ### The field (R467, R468, R475) -/

def linkPage : Nat := 0x1A000
def fieldPage : Nat := 0x1B000

/-- The device is its field's root. -/
def Dev.root (d : Dev) : Bool := d.rb 0x1A040 1 && d.rb 0x1A040 0 && d.vl.addr == some 1

/-- BCAST_LAT in ns: the farthest member's hops at the longest delay of the root's ports and 400 ns each (R466; DEDUCED,
notes/assumptions/45). -/
def Dev.bcastLat (d : Dev) : Nat :=
  (d.vl.members.map (·.hops)).foldl max 0 * (cdiv ((d.vl.ports.map (fun p => if p.2.role = 3 then p.2.dly else 0)).foldl max 0) 1000 + 400)

/-- MIN_LEAD in µs (R473). -/
def Dev.minLead (d : Dev) : Nat := cdiv (3 * d.bcastLat + 2000) 1000

/-- STATE of the field page (R475). -/
def Dev.fieldState (d : Dev) : UState :=
  if !(d.vl.formed && d.root) then .off
  else if d.rb (fieldPage + 0xC) 2 then .fault
  else if d.devState == .run || d.vl.members.any (·.running) then .run
  else .ready

/-- SUMMARY of the field page. -/
def Dev.fieldSummary (d : Dev) : Word :=
  if d.fieldState == .off then 0
  else
    let own := d.summary .device
    let flags := d.vl.members.foldl (fun w m => w ||| m.summary) own
    w32 (fld flags 31 25 * 2 ^ 25 + (d.vl.members.filter (·.running)).length + (d.devState == .run).toNat)

/-! ### STATUS.UNIT -/

def Dev.freeCells (d : Dev) (pool : Nat) : Nat := d.poolCells pool - (d.liveQueues.map (d.inPool pool)).sum

/-- Clock domains that run (R44). -/
def Dev.running (d : Dev) (p : Path) : Nat :=
  let s := d.pwr.ckSys
  let r := d.pwr.st == .ready
  let ext := fun (i : Nat) => Config.extClock i d.now.toNat
  flagWord 0 [true, d.pwr.refclk, s, s, s, r, r, d.phSrc != 0, d.pwr.refclk && !d.host.perst,
    d.rb 0x1A040 0 && d.rf 0x1A040 7 4 != 0, s, p == .mgmt || ext 11, d.pwr.refclk && d.rb 0x1E040 0, ext 13, r]

/-- A calibration of a channel runs. -/
def Dev.calibrating (d : Dev) (n : Nat) : Bool := (d.ch n).cal != 0

/-- Committed sums exceed a limit (R275). -/
def Dev.overLimit (d : Dev) : Bool :=
  decide (d.pkgSus < d.sus) || decide (d.pkgPeak < d.peak) ||
    (List.range 16).any (fun z =>
      decide ((d.rd (zonePage z + 0x40)).toNat * 1000000 < zSusOf d.burstT z d.admitted) ||
        decide ((d.rd (zonePage z + 0x44)).toNat * 1000000 < zPeakOf z d.admitted))

/-- COOL_T runs (R263). -/
def Dev.cooling (d : Dev) : Bool :=
  match d.stove.burstEnd with
  | some e => d.stove.burst.isNone && decide ((d.now - e).toNat < (d.rd 0x8058).toNat * 1000)
  | none => false

/-- The selected source last moved in reverse. -/
def Dev.phRev (d : Dev) : Bool :=
  match d.phSrc with
  | 1 => d.cps.enc0.rev
  | 2 => d.cps.enc1.rev
  | 5 => decide (d.rate.1 < 0)
  | _ => false

def Dev.statusDevice (d : Dev) (p : Path) (page : Nat) : Nat :=
  match page / 0x1000 with
  | 0x0 => d.pwr.trip.toNat * 128 + d.pwr.ilk.toNat * 64 + d.pwr.ball.toNat * 32 + d.pwrCode
  | 0x3 =>
    let ph := d.tracked
    d.phSrc * 16 + ph.st * 4 + d.phRev.toNat * 2 + ph.idx.toNat
  | 0x8 => d.overLimit.toNat * 8 + d.stoveDet.toNat * 4 + d.stove.burst.isSome.toNat * 2 + d.cooling.toNat
  | 0xA => (match d.weir.run with | some w => w.cfg.field | none => false).toNat * 2 + d.weirBusy.toNat
  | 0xC => d.ic.owed.toNat * 4 + (d.ic.modLeft != 0).toNat * 2 + d.ic.wake.toNat
  | 0xE => flagWord 0 ((List.range 4).map (fun n => (d.tin n).stuck) ++ (List.range 4).map (fun n => (d.tin n).level))
  | 0x10 => (d.poolCells 1 != 0 && d.freeCells 1 == 0).toNat * 2 + (d.freeCells 0 == 0).toNat
  | 0x14 =>
    let n := d.fab.ocpen.fifo.length
    (n == 16777216).toNat * 4 + (n == 0).toNat * 2 + d.ocEn.toNat
  | 0x15 => d.host.speed * 2 ^ 8 + d.host.lanes * 2 ^ 3 + d.host.l1.toNat * 4 + (if d.host.d3 then 3 else 0)
  | 0x18 => d.mgmt.backoff.isSome.toNat * 8 + d.mgmt.atnActive.toNat * 4 + (d.mgmt.busy || p == .mgmt).toNat * 2 + (d.rb 0x18040 0).toNat
  | 0x19 =>
    d.cw.wakeDrv.toNat * 16 + 8 + (d.cw.writes != []).toNat * 4 + (d.rb 0x19040 31 && d.cw.batch != []).toNat * 2 +
      (decide (2816 ≤ d.cw.batch.length)).toNat
  | 0x1A => d.vl.timeOk.toNat * 8 + d.inField.toNat * 4 + d.vl.stby.isSome.toNat * 2 + d.vl.up.isSome.toNat
  | 0x1B => d.vl.formed.toNat
  | 0x1C => (d.health.op != 0).toNat * 4 + d.health.refRun.toNat * 2 + d.health.loaded.isSome.toNat
  | 0x1D => d.esc.halted.toNat * 8 + d.esc.inFast.toNat * 4 + d.esc.inNormal.toNat * 2 + d.esc.running.toNat
  | 0x1E => d.esc.monHalt.toNat * 4 + d.mon.level
  | _ => 0

/-- Camp c's Weir slice takes part in steps 4 to 6 of a run. -/
def Dev.weirPart (d : Dev) (c : Nat) : Bool :=
  decide (2 ≤ d.weir.rstate ∧ d.weir.rstate ≤ 4) &&
    (match d.weir.run with | some w => w.parts.any (fun p => p.1 / 32 == c && !w.drops.contains p.1) | none => false)

/-- STATUS.WAIT of a context (R387): WAITPH, divide, register load, SYNC, distance. -/
def Core.waitCode (c : Core) (now : Time) : Nat :=
  let yet := fun (t : Time) => decide (now.toNat < t.toNat)
  let far := match c.work with | some (due, t) => if decide (due ≤ c.n) && yet t then 5 else 0 | none => 0
  if c.wait.isSome then 1
  else match c.busy with
    | some (k, t) => if yet t then k else far
    | none => far

def Dev.statusCamp (d : Dev) (c page : Nat) : Nat :=
  match page with
  | 0 => ((List.range 10).filter (fun k => d.ust (.ctx (10 * c + k)) == .run)).length * 2 ^ 8 +
      ((List.range 32).any (fun j => d.calibrating (32 * c + j))).toNat * 4 + (d.weirPart c).toNat * 2 + (d.rbOn c).toNat
  | 1 => (d.rbFilling c).toNat * 4 + (d.reed c).loading.toNat * 2 + (d.rbOn c).toNat
  | 4 => (decide (d.zTmax c + 80 ≤ d.tz c)).toNat * 2 + (d.stove.zLim.contains c).toNat
  | n =>
    if 6 ≤ n then
      let x := d.ctx (10 * c + n - 6)
      (match x.wait with | some (m, _) => m * 2 ^ 8 | none => 0) + x.waitCode d.now
    else 0

def Dev.statusChan (d : Dev) (n : Nat) : Nat :=
  let x := d.ch n
  flagWord 0 [x.fF.ph == .closed, x.fS.ph == .closed, x.comply, x.cmp.getLsbD 0, x.cmp.getLsbD 1, x.cmp.getLsbD 2,
    x.cmp.getLsbD 3, x.ovlV, x.ovlI, x.localSense, x.cal != 0, x.ap, x.calValid]

def Dev.statusUnit (d : Dev) (p : Path) (page : Nat) : Nat :=
  if page < 0x100000 then d.statusDevice p page
  else if page < 0x200000 then d.statusCamp ((page - 0x100000) / 0x10000) (page / 0x1000 % 16)
  else d.statusChan ((page - 0x200000) / 0x1000)

/-- A header register of the applied view. -/
def Dev.header (d : Dev) (p : Path) (page o : Nat) : Word :=
  let main := isMain page
  let fieldHdr := page == fieldPage && d.fieldState != .off
  match o with
  | 0x00 => w32 (pageId page)
  | 0x04 =>
    match pageUnit page with
    | some u => w32 (d.state u).code
    | none => if page = linkPage ∨ page = fieldPage then w32 d.fieldState.code else 0
  | 0x08 => w32 ((d.settles page).toNat * 2 ^ 31 + (d.dirty page).toNat * 2 ^ 30 + d.statusUnit p page)
  | 0x0C | 0x10 => d.rd (page + o)
  | 0x14 => d.genView page
  | 0x18 =>
    match pageUnit page with
    | some u => (d.rd (u.addr + 0x18) &&& 0xFF01) ||| w32 ((d.quarInherited u).toNat * 2)
    | none => 0
  | 0x1C => if fieldHdr then w32 ((d.vl.members.length + 1) * 2 ^ 14) else
      match pageUnit page with | some u => if main then w32 (childOf u).1 else 0 | none => 0
  | 0x20 => if fieldHdr then 0x2000000 else
      match pageUnit page with | some u => if main then w32 (childOf u).2 else 0 | none => 0
  | 0x24 => if fieldHdr then d.fieldSummary else
      match pageUnit page with | some u => if main then d.summary u else 0 | none => 0
  | _ => 0

/-- A page with ST fields, counting a unit's STATE (R79). -/
def hasSt (page : Nat) : Bool :=
  isMain page && page != 0 || page == rbcPage ((page - 0x100000) / 0x10000) && 0x100000 ≤ page && page < 0x200000 ||
    (List.range 480).any (fun i => stMask (page + 0x40 + 4 * i) != 0)

/-- A header register of the staged view (R79). -/
def Dev.stagedHeader (d : Dev) (page o : Nat) : Word :=
  match o with
  | 0x00 => w32 (pageId page)
  | 0x04 =>
    match pageUnit page with
    | some u => w32 (d.stagedState u).code
    | none => if page = linkPage ∨ page = fieldPage then w32 d.fieldState.code else 0
  | 0x08 => if hasSt page then (d.rd (page + 0x808) &&& 4) ||| w32 (d.dirty page).toNat else 0
  | _ => 0

/-! ### Slots (R77) -/

/-- The unit-specific faults of a slot's unit: word and mask. -/
def slotFaults (u : Un) : Nat × Word :=
  match u with
  | .float _ => (u.addr + 0x70, 0xFF)
  | .queue _ => (u.addr + 0x10, 0xF0000)
  | .timer _ => (u.addr + 0x58, 0x4)
  | .outlet _ => (u.addr + 0x48, 0xF0000)
  | _ => (u.addr, 0)

def Dev.slotFault (d : Dev) (u : Un) : Bool := d.rd (slotFaults u).1 &&& (slotFaults u).2 != 0

def Dev.slotHdr (d : Dev) (u : Un) (staged : Bool) : Word :=
  if staged then w32 ((d.stagedState u).code * 2 ^ 24 + u.id)
  else w32 ((d.rb u.addr 31).toNat * 2 ^ 31 + (d.slotFault u).toNat * 2 ^ 30 + (d.rb u.addr 29).toNat * 2 ^ 29 +
    (d.ust u).code * 2 ^ 24 + u.id)

def Dev.floatView (d : Dev) (i o : Nat) : Word :=
  let x := d.fl i
  match o with
  | 0x60 =>
    let waits := d.fab.pend.any (fun p => p.un == some (.float i))
    -- GATE_OPEN of GMODE 0, which R260 resets to 0: 1 in RUN (DESIGN CHOICE, notes/assumptions/90)
    let open_ := if d.flGmode i == 0 then d.ust (.float i) == .run else x.gate
    w32 (x.seq.toNat * 2 ^ 16 + flagWord 3 [x.c, open_, x.ep.isSome, x.latched, waits] + x.seg)
  | 0x64 => x.count
  | 0x68 => x.bval
  | _ => 0

def Dev.queueView (d : Dev) (q o : Nat) : Word :=
  let x := d.queue q
  match o with
  | 0x10 => w32 (flagWord 29 [decide (0 < d.spillCells q), x.pkts == [], d.credit q == 0] + x.nextSeq.toNat) |||
      (d.rd (Dev.qAddr q + 0x10) &&& 0xF0000)
  | 0x14 => w32 (d.qFill q)
  | _ => 0

def Dev.timerView (d : Dev) (t o : Nat) : Word :=
  let x := d.tmShown t
  let f := x.front
  match o with
  | 0x40 => lo32 x.count
  | 0x44 => hi32 x.count
  | 0x48 => match f with | some c => lo32 c.1 | none => 0
  | 0x4C => match f with | some c => hi32 c.1 | none => 0
  | 0x50 => match f with | some c => lo32 c.2 | none => 0
  | 0x54 => match f with | some c => hi32 c.2 | none => 0
  | 0x58 => w32 (flagWord 29 [x.back.isSome, f.isSome, x.running]) ||| (d.rd (tmAt t + 0x58) &&& 7)
  | _ => 0

def Dev.outletView (d : Dev) (o a : Nat) : Word :=
  let x := d.ol o
  match a with
  | 0x40 => w32 x.tail.toNat
  | 0x44 => w32 x.head.toNat
  | 0x48 => w32 (flagWord 29 [d.olStopped, x.noDesc, x.buf.isSome] + (d.olQueues o).headD 0) |||
      (d.rd (olAt o + 0x48) &&& 0xF0000)
  | 0x4C => x.bufs
  | _ => 0

/-! ### Computed registers, by page -/

def PState.code : PState → Nat
  | .idle => 0 | .checking => 1 | .passed => 2 | .failed => 3 | .armed => 4 | .applied => 5 | .cancelled => 6

def Dev.pitchView (d : Dev) (o : Nat) : Word :=
  if 0x100 ≤ o ∧ o < 0x320 then
    let c := d.ctl ((o - 0x100) / 0x20)
    match o % 0x20 with
    | 0x10 => w32 (c.result * 2 ^ 24 + c.empty.toNat * 8 + c.ps.code)
    | 0x14 => c.offender
    | 0x18 => lo32 c.appliedAt
    | 0x1C => hi32 c.appliedAt
    | _ => 0
  else 0

def Dev.clkView (d : Dev) (p : Path) (o : Nat) : Word :=
  let w := d.pwr
  match o with
  | 0x40 => w32 (w.drainTimeout.toNat * 2 ^ 9 + w.refused.toNat * 2 ^ 8 + d.pwrCode)
  | 0x44 => w32 d.pwrTarget
  | 0x48 => (d.rd 0x2048 &&& 0xC000000) ||| w32 (w.aonRc.toNat * 2 ^ 25 + d.running p)
  | 0x54 =>
    let st := if w.slot = 0 then 3 else (d.slot w.slot).st.code
    -- the page takes its reset values when firmware starts or the start-up fails (R57, R70)
    if w.devOff then 0 else w32 (satU 16 w.startMs * 2 ^ 16 + w.markedBad.toNat * 2 ^ 5 + w.warm.toNat * 2 ^ 4 + st * 4 + w.slot)
  | 0x60 => lo32 d.now
  | 0x64 => hi32 d.now
  | 0x68 => w32 w.origin
  | _ => 0

def Dev.encView (d : Dev) (x o : Nat) : Word :=
  let e := d.enc x
  match o with
  | 0x8 => w32 e.count
  | 0x10 => setFld (w32 (flagWord 4 [e.lineA, e.lineB, e.lineZ, e.zStuck] + e.rev.toNat * 2 + e.idxSeen.toNat)) 31 8
      (BitVec.ofInt 24 e.idxDev).toNat
  | _ => 0

/-- PH_FRAC, PH_TURN and PH_LT as a read of PH_FRAC takes them (R180). -/
def Dev.phNow (d : Dev) : Word × Word := d.tracked.items

def Dev.compassView (d : Dev) (o : Nat) : Word :=
  match o with
  | 0x60 => d.phNow.1
  | 0x70 => d.rateWord
  | 0x7C => d.rd 0x307C
  | _ => 0

def Dev.compassInView (d : Dev) (o : Nat) : Word :=
  if 0x40 ≤ o ∧ o < 0x60 then d.encView 0 (o - 0x40)
  else if 0x60 ≤ o ∧ o < 0x80 then d.encView 1 (o - 0x60)
  else match o with
    | 0x84 => w32 d.cps.mains.period
    | 0xA8 => w32 d.cps.pulse.stuck.toNat
    | _ => 0

/-- Energy above PKG_PSUS of the present burst, as projected (R263), in µJ. -/
def Dev.burstUsed (d : Dev) : Nat :=
  match d.stove.burst with
  | none => 0
  | some b =>
    let prof := profile d.baseDecl d.now.toNat d.admitted
    let e := ((prof.find? (fun p => decide (p.2 ≤ d.pkgSus))).map (·.1)).getD d.now.toNat
    cdiv (integrate d.pkgSus d.pastPeak b.toNat d.now.toNat + integrate d.pkgSus prof d.now.toNat e) 1000000

def Dev.stoveView (d : Dev) (o : Nat) : Word :=
  let s := d.stove
  match o with
  | 0x80 => w32 d.sus
  | 0x84 => w32 d.peak
  | 0x88 => w32 (satU 32 d.burstUsed)
  | 0x8C => w32 d.waiting.length
  | 0x90 => w32 s.planSus
  | 0x94 => w32 s.planPeak
  | 0x98 => w32 s.planBurst
  | 0x9C => w32 s.measBase
  | 0xA0 | 0xA4 | 0xA8 | 0xAC => w32 (s.temps.getD (32 + (o - 0xA0) / 4) 0).toNat
  | _ => 0

def Dev.weirView (d : Dev) (o : Nat) : Word :=
  let w := d.weir
  let part := match w.last with | some l => l.partCount | none => 0
  match o with
  | 0x84 => w32 (w.runs % 4096 * 2 ^ 20 + w.frames % 512 * 2 ^ 11 + w.rstate)
  | 0x88 => (d.rd 0xA088 &&& 0xFFFF0000) ||| w32 (satU 16 w.excs)
  | 0x90 => match w.last with | some l => lo32 l.stamp | none => 0
  | 0x94 => match w.last with | some l => hi32 l.stamp | none => 0
  | 0x98 => match w.last with | some _ => w32 ((512 - part) * 2 ^ 16 + part) | none => 0
  | 0x9C => match w.last with | some l => b32Sqrt l.sigmaMax | none => 0
  | _ => 0

def icWord (v : BitVec 1024) (o b : Nat) : Word := (v >>> (8 * (o - b))).truncate 32

/-- The source that a path's claim would return (R394): the lowest claimable one, for Efyon-S a normal one. -/
def IntCtl.claimable (c : IntCtl) (p : Path) : Option Nat :=
  match p with
  | .efyonS => (List.range 1024).find? (fun i => decide (16 ≤ i) && c.claimS.getLsbD i)
  | .host => (List.range 1024).find? (fun i => c.claimH.getLsbD i)
  | _ => none

def claimWord : Option Nat → Word
  | some i => w32 (2 ^ 31 + i)
  | none => 0

def Dev.icView (d : Dev) (o : Nat) : Word :=
  let c := d.ic
  if o = 0x48 then claimWord (c.claimable .efyonS)
  else if o = 0x50 then claimWord (c.claimable .host)
  else if o = 0x58 then d.rd 0xC058
  else if o = 0x68 then w32 (cdiv c.modLeft 1000)
  else if o = 0x6C then c.msgs
  else if 0x100 ≤ o ∧ o < 0x180 then icWord c.pend o 0x100
  else if 0x180 ≤ o ∧ o < 0x200 then icWord c.enS o 0x180
  else if 0x200 ≤ o ∧ o < 0x280 then icWord c.enH o 0x200
  else if 0x280 ≤ o ∧ o < 0x300 then icWord c.active o 0x280
  else if 0x300 ≤ o ∧ o < 0x380 then icWord (c.actH &&& c.active) o 0x300
  else if 0x380 ≤ o ∧ o < 0x400 then icWord c.stormed o 0x380
  else if o = 0x404 then w32 (flagWord 0 ((List.range 32).map d.groupLevel))
  else 0

def Dev.fabView (d : Dev) (o : Nat) : Word :=
  match o with
  | 0x70 => w32 (d.freeCells 0)
  | 0x74 => w32 (d.freeCells 1)
  | 0x78 => w32 ((d.liveQueues.map d.spillCells).sum)
  | _ => 0

def Dev.fabMaskView (d : Dev) (o : Nat) : Word :=
  let mask := fun (b : Nat) (f : Nat → Bool) => w32 (flagWord 0 ((List.range 32).map (fun i => f (8 * (o - b) + i))))
  if 0x40 ≤ o ∧ o < 0xC0 then mask 0x40 (fun q => d.credit q == 0)
  else if 0xC0 ≤ o ∧ o < 0x140 then mask 0xC0 (fun q => (d.queue q).pkts != [])
  else if 0x1C0 ≤ o ∧ o < 0x240 then mask 0x1C0 (fun q => d.slotFault (.queue q))
  else 0

def Dev.hostView (d : Dev) (o : Nat) : Word :=
  match o with
  | 0x44 => d.host.aer
  | 0x48 => d.host.dmaBytes
  | _ => 0

def Dev.mgmtView (d : Dev) (o : Nat) : Word :=
  match o with
  | 0x4C => w32 d.mgmt.atnPend.toNat
  | 0x54 => d.mgmt.xfers
  | 0x58 => w32 d.mgmt.last.toNat
  | _ => 0

def Dev.cwView (d : Dev) (o : Nat) : Word :=
  let p := d.pwr.pair
  match o with
  | 0x50 => w32 (d.pwr.aonCnt.toNat % 2 ^ 32)
  | 0x54 => w32 (d.pwr.aonCnt.toNat / 2 ^ 32)
  | 0x58 => w32 d.cw.batch.length
  | 0x60 => match p with | some x => lo32 x.1 | none => 0
  | 0x64 => match p with | some x => hi32 x.1 | none => 0
  | 0x68 => match p with | some x => w32 (x.2.toNat % 2 ^ 32) | none => 0
  | 0x6C => match p with | some x => w32 (x.2.toNat / 2 ^ 32) | none => 0
  | 0x70 => w32 d.pollLoad
  | 0x74 => w32 (flagWord 0 ((List.range 8).map (fun n => (d.sns n).level)) + flagWord 8 ((List.range 8).map (fun n => (d.sns n).stuck)))
  | 0x7C => d.tblWord (d.rf 0x19078 10 0)
  | _ => if Regs.isArr o 0xA0 4 8 then d.rd (0x19000 + o) else 0

def Dev.linkView (d : Dev) (o : Nat) : Word :=
  let v := d.vl
  if o = 0x44 then match v.addr with | some a => w32 (2 ^ 31 + a) | none => 0
  else if o = 0x48 then
    w32 (v.hops * 2 ^ 16 + v.stby.isSome.toNat * 32 + v.up.isSome.toNat * 16 + v.stby.getD 0 * 4 + v.up.getD 0)
  else if o = 0x50 then wInt v.terr
  else if o = 0x54 then wInt v.step
  else if o = 0x58 then hi32 (BitVec.ofInt 64 v.step)
  else if 0x80 ≤ o ∧ o < 0xC0 then
    let p := SMap.get ({} : Port) v.ports ((o - 0x80) / 0x10)
    if o % 0x10 = 0 then w32 (p.role * 4 + p.link) else if o % 0x10 = 4 then w32 p.dly else 0
  else 0

def Dev.fieldView (d : Dev) (o : Nat) : Word :=
  match o with
  | 0x48 => if d.root then w32 (satU 16 d.minLead * 2 ^ 16 + satU 16 d.bcastLat) else 0
  | 0x4C => d.vl.vote
  | _ => 0

/-- Minutes since an instant of LTIME, limited to 16 bits. -/
def Dev.minutes (d : Dev) (t : Time) : Nat := satU 16 ((d.now - t).toNat / 60000000000)

/-- AGE_MIN of a channel (R155). -/
def Dev.calAge (d : Dev) (n : Nat) : Nat := match (d.ch n).calAt with | some t => d.minutes t | none => 0xFFFF

/-- Channels overdue for a full calibration (R489). -/
def Dev.calDue (d : Dev) : Nat :=
  ((List.range 512).filter (fun n => decide (d.rf 0x1C070 31 16 + 1440 < d.calAge n))).length

def Dev.healthView (d : Dev) (o : Nat) : Word :=
  let h := d.health
  match o with
  | 0x5C => w32 (h.scrubLake.toNat * 2 ^ 16 + h.scrubBasin.toNat)
  | 0x64 => w32 (satU 16 h.gaps * 2 ^ 16 + d.minutes h.savedAt)
  | 0x68 => h.eolWorst
  | 0x78 => w32 d.calDue
  | 0x80 => w32 ((BitVec.ofInt 16 h.refWorst).toNat * 2 ^ 16 + h.refMask.toNat)
  | 0x90 => w32 (h.pct * 2 ^ 24 + h.result)
  | 0x98 => w32 h.downMs
  | 0x9C => w32 (satU 16 h.downCamp * 2 ^ 16 + satU 16 h.downCore)
  | _ => 0

def Dev.escView (d : Dev) (o : Nat) : Word :=
  match o with
  | 0x4C => w32 (d.esc.wdog / 1000000)
  | 0x50 | 0x54 | 0x58 => d.rd (escPage + o)
  | 0x60 => w32 d.esc.curSrc
  | _ => 0

def Dev.deviceView (d : Dev) (p : Path) (a : Nat) : Word :=
  let o := a % 0x1000
  match a / 0x1000 with
  | 0x0 => match o with
    | 0x40 => lo32 Config.serial
    | 0x44 => hi32 Config.serial
    | 0x48 => w32 Config.hwRev.toNat
    | 0x4C => d.pwr.fwSeq
    | _ => 0
  | 0x1 => d.pitchView o
  | 0x2 => d.clkView p o
  | 0x3 => d.compassView o
  | 0x4 => d.compassInView o
  | 0x5 | 0x6 | 0x7 => if 0x40 ≤ o ∧ o % 16 = 12 ∧ Regs.marks (a / 0x1000 - 5) o = [] ∧ (o - 0x40) / 16 + 96 * (a / 0x1000 - 5) < 256 ∧ (o - 0x40) / 16 < 96
      then d.rd a else 0
  | 0x8 => d.stoveView o
  | 0xA => d.weirView o
  | 0xC => d.icView o
  | 0x10 => d.fabView o
  | 0x11 => d.fabMaskView o
  | 0x14 =>
    match o with
    | 0x40 => match d.fab.ocpen.fifo with | v :: _ => w32 v.toNat | [] => 0x8000
    | 0x60 => w32 d.fab.ocpen.fifo.length
    | _ => 0
  | 0x15 => d.hostView o
  | 0x16 => if o = 0x800 then w32 (d.ic.owed && (d.host.msixMask || d.rb 0x1600C 0)).toNat else 0
  | 0x18 => d.mgmtView o
  | 0x19 => d.cwView o
  | 0x1A => d.linkView o
  | 0x1B => d.fieldView o
  | 0x1C => d.healthView o
  | 0x1D => d.escView o
  | 0x1E => if o = 0x4C then w32 d.mon.baud else 0
  | _ => 0

/-- A register of a context's register file (R388). -/
def Core.regView (c : Core) (o : Nat) : Word :=
  if 0x100 ≤ o ∧ o < 0x180 then c.dr ((o - 0x100) / 4)
  else if 0x180 ≤ o ∧ o < 0x200 then c.xr ((o - 0x180) / 4)
  else if 0x200 ≤ o ∧ o < 0x240 then
    let v := c.ar ((o - 0x200) / 0x10)
    match o % 0x10 with
    | 0x0 => v.truncate 32
    | 0x4 => (v >>> 32).truncate 32
    | 0x8 => ((v >>> 64).truncate 8 : BitVec 8).zeroExtend 32
    | _ => 0
  else if o = 0x240 then c.lc
  else if o = 0x244 then c.flags.zeroExtend 32
  else 0

/-- A context is ready to issue (R362). -/
def Dev.ctxReady (d : Dev) (x : Nat) : Bool := d.ust (.ctx x) == .run && (d.ctx x).waitCode d.now = 0

def Dev.campView (d : Dev) (a : Nat) : Word :=
  let c := (a - 0x100000) / 0x10000
  let o := a % 0x1000
  match a / 0x1000 % 16 with
  | 1 =>
    if 0x480 ≤ o ∧ o < 0x680 then
      let k := (o - 0x480) / 8
      if o % 8 = 0 then w32 ((d.rbCfg c k).delay * 1000)
      else if (d.rbCfg c k).mode = 3 then w32 (d.phLag c k) else 0
    else 0
  | 2 =>
    let i := d.rf (rbcPage c + 0x40) 15 0
    match o with
    | 0x44 => if coefReserved i then 0 else (coefAt (d.reed c).coefA i).zeroExtend 32
    | 0x48 => Config.imageCrc (d.reed c).coefA
    | 0x4C => Config.imageCrc (d.reed c).coefS
    | _ => 0
  | 3 =>
    let mask := fun (f : WeirData → Nat → Bool) => match d.weir.last with
      | some w => w32 (flagWord 0 ((List.range 32).map (fun j => f w (32 * c + j))))
      | none => 0
    match o with
    | 0x44 => mask WeirData.ovl
    | 0x48 => mask WeirData.unsettled
    | 0x4C => mask WeirData.extSrc
    | 0x50 => mask WeirData.notMeas
    | 0x54 => w32 (satU 8 (SMap.get 0 d.weir.load c))
    | _ => if 0x80 ≤ o ∧ o < 0x200 then d.rd a else 0
  | 4 =>
    let t := fun (i : Nat) => (d.stove.temps.getD i 0).toNat
    match o with
    | 0x100 => w32 (cdiv (zSusOf d.burstT c d.admitted) 1000000)
    | 0x104 => w32 (cdiv (zPeakOf c d.admitted) 1000000)
    | 0x108 => w32 (t (2 * c + 1) * 2 ^ 16 + t (2 * c))
    | 0x10C => w32 (flagWord 0 ((List.range 32).map (fun j => (d.taskOf 1 (32 * c + j) false).isSome)))
    | 0x110 => w32 (flagWord 0 ((List.range 32).map (fun j =>
        (d.ch (32 * c + j)).stoveHeld && d.ust (.chan (32 * c + j)) == .held)))
    | _ => 0
  | 5 =>
    match o with
    | 0x40 => w32 (flagWord 16 ((List.range 10).map (fun k => d.ctxReady (10 * c + k))) +
        flagWord 0 ((List.range 10).map (fun k => d.ust (.ctx (10 * c + k)) == .run)))
    | 0x44 => d.rd a
    | 0x48 => d.rd a
    | _ => 0
  | n =>
    if 6 ≤ n then
      let x := 10 * c + n - 6
      let st := d.ust (.ctx x)
      match o with
      | 0x50 => w32 ((d.ctx x).pc.toNat % 2 ^ 16)
      | 0x54 | 0x58 | 0x5C => d.rd a
      | _ => if st == .parked || st == .fault then (d.ctx x).regView o else (SMap.get ({} : Core) d.stops x).regView o
    else 0

def Dev.chanView (d : Dev) (a : Nat) : Word :=
  let n := (a - 0x200000) / 0x1000
  let x := d.ch n
  let ph := fun (f : FlapDyn) => match f.ph with | .opened => 0 | .closing => 1 | .closed => 2 | .opening => 3
  match a % 0x1000 with
  | 0x80 => x.vword
  | 0x84 => x.iword
  | 0x88 => x.vmean
  | 0x8C => x.imean
  | 0x90 => (d.rd a &&& 0xFFFF0000) ||| w32 x.ap.toNat
  | 0x94 => w32 (x.fS.cls * 2 ^ 10 + x.fF.cls * 2 ^ 8 + ph x.fS * 4 + ph x.fF)
  | 0x98 => w32 (satU 32 x.fF.wear)
  | 0x9C => w32 (satU 32 x.fS.wear)
  | 0xA0 => w32 (satU 16 x.fS.ron * 2 ^ 16 + satU 16 x.fF.ron)
  | 0xA4 => w32 (d.calAge n * 2 ^ 16 + x.calKind * 16 + x.calResult)
  | _ => 0

/-! ### Every offset -/

/-- Matrix windows (R212). -/
def Dev.matrixView (d : Dev) (a : Nat) : Word :=
  if a < 0x1100000 then
    match d.weir.last with
    | some w => let i := (a - 0x1000000) / 4; w.entry (i / 512) (i % 512)
    | none => 0
  else if a < 0x1300000 then
    match d.weir.last with
    | some w => if w.cfg.field then 0 else let i := (a - 0x1100000) / 4; w.coefWord (i / 1024) (i % 1024)
    | none => 0
  else if a < 0x1320000 then
    let o := a % 0x10000
    -- word 1 of an entry whose KIND is not 1 reads 0 (R201)
    if 0x4000 ≤ o ∧ o < 0xC000 ∧ o % 8 = 4 ∧ fld (d.rd (a - 4)) 31 28 ≠ 1 then 0 else d.rd a
  else 0

/-- The bits of a stored register that a read returns. -/
def readMask (a : Nat) : Word := w32 ((fieldsAt a).foldl (fun m f => m ||| maskOf f.hi f.lo) 0)

/-- A 32-bit register of BAR0 below the proxy window, as path p would read it, without side effects. -/
def Dev.view (d : Dev) (p : Path) (a : Nat) : Word :=
  let o := a % 0x1000
  let page := a - o
  if a < 0x400000 then
    match slotOf a with
    | some u =>
      let s := unstaged a - u.addr
      if s = 0 then d.slotHdr u (isStaged a)
      else if s = 4 then d.genView u.addr
      else if isStaged a then d.rd a &&& w32 (stMask (a - 0x800))
      else
        (d.rd a &&& readMask a) |||
          (match u with
           | .timer t => d.timerView t s
           | .outlet x => d.outletView x s
           | _ => 0)
    | none =>
      if a / 0x1000 = 0x16 then (if o < 0x10 then d.rd a &&& readMask a else d.deviceView p a)
      else if !isPage page then 0
      else if o < 0x40 then d.header p page o
      else if 0x800 ≤ o ∧ o < 0x840 then d.stagedHeader page (o - 0x800)
      else if 0x800 ≤ o then
        if 0x100000 ≤ a ∧ a < 0x200000 ∧ a % 0x10000 = 0x2844 then
          let c := (a - 0x100000) / 0x10000
          let i := d.rf (rbcPage c + 0x40) 15 0
          if coefReserved i then 0 else (coefAt (d.reed c).coefS i).zeroExtend 32
        else d.rd a &&& w32 (stMask (a - 0x800))
      else
        (d.rd a &&& readMask a) |||
          (if a < 0x100000 then d.deviceView p a else if a < 0x200000 then d.campView a else d.chanView a)
  else if a < 0x480000 ∨ (0x500000 ≤ a ∧ a < 0x510000) then
    match slotOf a with
    | some u =>
      let s := unstaged a - u.addr
      if s = 0 then d.slotHdr u (isStaged a)
      else if s = 4 then d.genView u.addr
      else if isStaged a then d.rd a &&& w32 (stMask (a - 0x800))
      else
        (d.rd a &&& readMask a) |||
          (match u with
           | .float i => d.floatView i s
           | .queue q => d.queueView q s
           | _ => 0)
    | none => 0
  else if 0x510000 ≤ a ∧ a < 0x514000 then
    if a % 16 = 12 then
      let q := (a - 0x510000) / 16
      let opn := match (d.path p).pkt with | some k => k.q == q | none => false
      w32 ((d.credit q == 0).toNat * 2 ^ 31 + opn.toNat * 2 ^ 30 + d.credit q)
    else 0
  else if 0x520000 ≤ a ∧ a < 0x524000 then
    match (d.path p).latch with
    | some (q, i1, i2, t) =>
      if q = (a - 0x520000) / 16 then (if a % 16 = 4 then i1 else if a % 16 = 8 then i2 else if a % 16 = 12 then t else 0) else 0
    | none => 0
  else if 0x800000 ≤ a ∧ a < 0xC00000 then (if a % 0x40000 < 0x30000 then d.rd a else 0)
  else if 0x1000000 ≤ a ∧ a < 0x2000000 then d.matrixView a
  else 0

end Sys2Proof.Machine
end

