-- ==== Sys2Proof/Machine/IntOps.lean ====
section
/-! DEFINITION. The interrupt controller's operations: doorbell, single-source commands, claims, completions, bitmap writes,
storm windows and moderation (R391–R404). -/

namespace Sys2Proof.Machine

def icPage : Nat := 0xC000

/-- An invalid value written to a page (R6, R91). -/
def Dev.invalid (d : Dev) (page : Nat) : Dev := d.fault page 31

/-- DOORBELL (R391, R406). -/
def Dev.doorbell (d : Dev) (v : Word) : Dev := if v.toNat < 1024 then d.msg v.toNat else d.invalid icPage

/-- STORMED of a source clears: its count restarts, and a level input is sampled (R400). -/
def Dev.unstorm (d : Dev) (i : Nat) : Dev :=
  if !d.ic.stormed.getLsbD i then d
  else
    let c := d.ic
    let d : Dev := { d with ic := { c with stormed := bset c.stormed i false, counts := SMap.put 0 c.counts i 0,
                                           level := if isLevel i then bset c.level (i - 32) false else c.level } }
    if isLevel i then d.sampleGroup (i - 32) else d

/-- SRC_CMD operations on one source (R406). -/
def Dev.srcOp (d : Dev) (op i : Nat) : Dev :=
  match op with
  | 1 => d.icUpd (fun c => { c with pend := bset c.pend i false })
  | 2 => d.icUpd (fun c => { c with enS := bset c.enS i true })
  | 3 => d.icUpd (fun c => { c with enS := bset c.enS i false })
  | 4 => d.icUpd (fun c => { c with enH := bset c.enH i true })
  | 5 => d.icUpd (fun c => { c with enH := bset c.enH i false })
  | 6 => d.unstorm i
  | _ => d

/-- A write of SRC_CMD. -/
def Dev.srcCmd (d : Dev) (v : Word) : Dev :=
  if 6 < fld v 31 28 then d.invalid icPage else d.srcOp (fld v 31 28) (fld v 9 0)

/-- A claim of source i (R394). -/
def Dev.claim (d : Dev) (i : Nat) (host : Bool) : Dev :=
  d.icUpd (fun c => { c with pend := bset c.pend i false, active := bset c.active i true, actH := bset c.actH i host })

/-- A read of CLAIM_S or CLAIM_H by a path: what it claims (R394). -/
def Dev.claimRead (d : Dev) (p : Path) (host : Bool) : Dev :=
  match p, host with
  | .efyonS, false => match d.ic.claimable .efyonS with | some i => d.claim i false | none => d
  | .host, true => match d.ic.claimable .host with | some i => d.claim i true | none => d
  | _, _ => d

/-- A write of COMPLETE_S or COMPLETE_H (R395). -/
def Dev.complete (d : Dev) (p : Path) (host : Bool) (v : Word) : Dev :=
  if p ≠ (if host then Path.host else Path.efyonS) then d.pathFault icPage
  else
    let i := v.toNat
    let c := d.ic
    if i < 1024 ∧ c.active.getLsbD i ∧ c.actH.getLsbD i = host then
      let again := isLevel i && !c.stormed.getLsbD i && d.groupLevel (i - 32)
      -- after a completion through COMPLETE_H a source that is claimable for the host is owed a message (R397)
      d.icUpd (fun c => { c with active := bset c.active i false, pend := if again then bset c.pend i true else c.pend,
                                 owed := c.owed || host })
    else ((d.wf 0xC058 9 0 (fld v 9 0)).count 0xC058 31 16).fault icPage 0

/-- Replace word w of a bitmap. -/
def setWord (b : BitVec 1024) (w : Nat) (v : Word) : BitVec 1024 :=
  let m := BitVec.ofNat 1024 ((2 ^ 32 - 1) * 2 ^ (32 * w))
  (b &&& ~~~m) ||| BitVec.ofNat 1024 (v.toNat * 2 ^ (32 * w))

/-- A write of a bitmap word (R401). -/
def Dev.bitmapWrite (d : Dev) (b : IcBitmap) (w : Nat) (v : Word) : Dev :=
  match b with
  | .pend => d.icUpd (fun c => { c with pend := setWord c.pend w v })
  | .enS => d.icUpd (fun c => { c with enS := setWord c.enS w v })
  | .enH => d.icUpd (fun c => { c with enH := setWord c.enH w v })
  | .stormed => forRange 32 (fun j (d : Dev) => if bit v j then d.unstorm (32 * w + j) else d) d

/-- A storm window ends (R400). -/
def Dev.stormEnd (d : Dev) : Dev := { d with ic := { d.ic with counts := [] } }

/-- A moderation interval ends (R397, R398); with none running, an owed message counts as at its end (notes/assumptions/48). -/
def Dev.modEnd (d : Dev) : Dev :=
  let d : Dev := { d with ic := { d.ic with modLeft := 0 } }
  if d.ic.owed && d.host.d3 then d.hostWake else d

end Sys2Proof.Machine
end

