-- ==== Sys2Proof/Machine/ViermaOps.lean ====
section
/-! DEFINITION. The Vierma link and the field: enumeration, join, field events, Weir field runs, forwarding and losses
(R464–R482). -/

namespace Sys2Proof.Machine

def Dev.setVl (d : Dev) (v : Vierma) : Dev := { d with vl := v }
def Dev.updVl (d : Dev) (f : Vierma → Vierma) : Dev := d.setVl (f d.vl)

def Dev.port (d : Dev) (p : Nat) : Port := SMap.get {} d.vl.ports p
def Dev.setPort (d : Dev) (p : Nat) (x : Port) : Dev := d.updVl (fun v => { v with ports := SMap.put {} v.ports p x })

/-- VL_CTL.EN and PORT_EN of a port (R481). -/
def Dev.portOn (d : Dev) (p : Nat) : Bool := d.rb 0x1A040 0 && d.rb 0x1A040 (4 + p)

/-- The field page's STATE is noted: a change counts in GEN of the two pages that show it (R93, R475). -/
def Dev.vlNote (d : Dev) : Dev :=
  let s := d.fieldState.code
  if s = d.vl.seen then d
  else (((d.updVl (fun v => { v with seen := s })).gen fieldPage).gen linkPage |>.stateEvent fieldPage).stateEvent linkPage

/-- A change of membership counts in GEN of the field page (R475). -/
def Dev.vlMembers (d : Dev) (l : List Member) : Dev :=
  if l.map (·.addr) = d.vl.members.map (·.addr) then d.updVl (fun v => { v with members := l })
  else (d.updVl (fun v => { v with members := l })).gen fieldPage

/-! ### Field pitches (R104, R473) -/

/-- Controllers whose WHEN names field event n. -/
def namesEvent (n : Nat) (w : Word) : Bool := fld w 2 0 == 3 && fld w 23 16 == n

/-- REFUSE(n): every controller armed on the event is cancelled, with OFFENDER 0 (R113 does not list FIELD_REFUSED; DESIGN
CHOICE, notes/assumptions/84). -/
def Dev.fieldRefuse (d : Dev) (n : Nat) : Dev :=
  forEach (d.armedFor (namesEvent n)) (fun k (d : Dev) => d.pitchCancel k 0x0B 0) d

def Dev.setEvent (d : Dev) (n : Nat) (e : Option FieldEv) : Dev :=
  d.updVl (fun v => { v with evs := SMap.put none v.evs n e })
def Dev.event (d : Dev) (n : Nat) : Option FieldEv := SMap.get none d.vl.evs n

/-- The device's vote (step 3 of R473): 1 OK, 2 REFUSE, 3 NONE. -/
def Dev.voteOf (d : Dev) (n : Nat) : Nat :=
  let on := fun (f : PState → Bool) => (List.range 17).any (fun k => f (d.ctl k).ps && namesEvent n (d.whenWord k))
  if on (fun s => s == .checking || s == .failed) then 2 else if on (· == .armed) then 1 else 3

/-- A trigger of event n at the root (steps 1 to 3 of R473; the root votes at once). -/
def Dev.fieldTrigger (d : Dev) (n : Nat) : Dev :=
  let w := d.rd (fieldPage + 0x100 + 4 * n)
  if !d.root || !bit w 31 || (d.event n).isSome then d
  else if fld w 23 8 < d.minLead then (d.fault fieldPage 1).fieldRefuse n
  else
    let v := d.voteOf n
    (d.updVl (fun x => { x with voted := SMap.put 0 x.voted n v })).setEvent n
      (some { t := d.now + BitVec.ofNat 64 (fld w 23 8 * 1000), votes := [(1, v != 2)], go := false })

/-- A QUERY reaches a member, which votes. -/
def Dev.fieldQuery (d : Dev) (n : Nat) : Dev :=
  if d.root || !d.inField then d
  else
    let v := d.voteOf n
    d.updVl (fun x => { x with voted := SMap.put 0 x.voted n v })

/-- A vote reaches the root. -/
def Dev.fieldVote (d : Dev) (n a : Nat) (ok : Bool) : Dev :=
  match d.event n with
  | some e =>
    if d.root && !e.go then d.setEvent n (some { e with votes := e.votes.filter (fun x => x.1 != a) ++ [(a, ok)] }) else d
  | none => d

/-- The root decides (step 4), from T − BCAST_LAT − 1 µs on: the first member that refused or is silent, by address, decides
against. -/
def Dev.fieldDecide (d : Dev) (n : Nat) : Dev :=
  match d.event n with
  | some e =>
    if !d.root || e.go || d.now.toNat + d.bcastLat + 1000 < e.t.toNat then d
    else
      let addrs := 1 :: d.vl.members.map (·.addr)
      let against := addrs.find? (fun a => match e.votes.find? (fun x => x.1 == a) with
        | some x => !x.2
        | none => true)
      match against with
      | none => (d.setEvent n (some { e with go := true })).updVl (fun v => { v with vote := w32 (n * 2 ^ 24 + 2 ^ 22) })
      | some a =>
        let r := if e.votes.any (fun x => x.1 == a) then 2 else 3
        ((((d.setEvent n none).updVl (fun v => { v with vote := w32 (n * 2 ^ 24 + r * 2 ^ 22 + a) })).fault fieldPage 0
          ).fieldRefuse n)
  | none => d

/-- GO(n, T) reaches a member; after T it is late. -/
def Dev.fieldGo (d : Dev) (n : Nat) (t : Time) : Dev :=
  if d.root || !d.inField then d
  else if t < d.now then (d.fieldRefuse n).fault linkPage 6
  else d.setEvent n (some { t := t, votes := [], go := true })

/-- LTIME equals T (step 5): armed controllers pitch first, then Weir runs trigger (R480). -/
def Dev.fieldInstant (d : Dev) (n : Nat) : Dev :=
  match d.event n with
  | some e =>
    if e.go && e.t == d.now then
      let d := d.setEvent n none
      let d := forEach (d.armedFor (namesEvent n)) (fun k (d : Dev) => d.pitchApply k) d
      d.weirOn 3 n (d.rf 0x1A04C 2 0)
    else d
  | none => d

/-- Phase mark m of the root fires: events with TRIG = 1 on it (R472). -/
def Dev.fieldOnMark (d : Dev) (m : Nat) : Dev :=
  if !d.root then d
  else
    forRange 256 (fun n (d : Dev) =>
      let w := d.rd (fieldPage + 0x100 + 4 * n)
      if bit w 31 && bit w 30 && fld w 7 0 == m then d.fieldTrigger n else d) d

/-! ### Leaving and losses (R478) -/

/-- The device leaves the field. -/
def Dev.leaveField (d : Dev) : Dev :=
  let armed := d.armedFor (fun w => fld w 2 0 == 3)
  let d := forEach armed (fun k (d : Dev) => d.pitchCancel k 0x0B 0) d
  let d := if armed = [] then d else d.fault linkPage 6
  let d := d.weirSyncLost
  let d := d.updVl (fun v => { v with joined := false, timeOk := false, evs := [], wready := [], fstart := none })
  if d.phSrc = 5 then d.stallEntry else d

/-- The uplink is lost: the standby takes over, or the device leaves the field. -/
def Dev.uplinkLoss (d : Dev) : Dev :=
  match d.vl.up with
  | none => d
  | some u =>
    let d := d.setPort u { d.port u with link := 3, role := 0 }
    match d.vl.stby with
    | some s =>
      let d := (d.setPort s { d.port s with role := 1 }).updVl (fun v => { v with up := some s, stby := none, timeOk := false })
      let d := if d.weirDriving then d.weirSyncLost else d
      d.fault linkPage 2
    | none => ((d.updVl (fun v => { v with up := none })).leaveField).fault linkPage 3

/-- A downlink is lost with the members below it. -/
def Dev.downlinkLoss (d : Dev) (p : Nat) (gone : List Nat) : Dev :=
  if (d.port p).role ≠ 3 then d
  else
    let d := d.setPort p { d.port p with link := 3, role := 0 }
    let hit := (d.vl.members.map (·.addr)).filter gone.contains
    if hit = [] then d
    else
      let left := d.vl.members.filter (fun m => !gone.contains m.addr)
      ((d.vlMembers left).updVl (fun v => { v with lost := (v.lost ++ hit).dedup })).fault fieldPage 2

/-- A port's line fails or shows CRC errors (R464, R465). -/
def Dev.portLoss (d : Dev) (p : Nat) (lost : Bool) (crc : Nat) : Dev :=
  if !d.portOn p then d
  else
    let a := linkPage + 0x88 + 0x10 * p
    let d := if crc = 0 then d else (d.count a 31 16 crc).fault linkPage 0
    let d := if lost then d.count a 15 0 else d
    if !lost && decide (crc ≤ 16) then d
    else (d.setPort p { d.port p with link := 3 }).fault linkPage 1

/-! ### Enumeration (R467, R468) -/

/-- VL_CTL takes effect: ports switch on or off, the root takes its address. -/
def Dev.vlCtl (d : Dev) : Dev :=
  let en := d.rb 0x1A040 0
  let d := forRange 4 (fun p (d : Dev) =>
    if d.portOn p then (if (d.port p).link = 0 then d.setPort p { d.port p with link := 1 } else d)
    else
      let d := if d.vl.up = some p then (d.updVl (fun v => { v with stby := if v.stby = some p then none else v.stby })).uplinkLoss
        else if d.vl.stby = some p then d.updVl (fun v => { v with stby := none }) else d
      d.setPort p {}) d
  if en && d.rb 0x1A040 1 then
    if d.vl.addr = some 1 ∧ d.vl.up = none then d
    else
      d.updVl (fun v => { v with addr := some 1, hops := 0, up := none, stby := none, joined := true, timeOk := true,
                                 terr := 0, formed := false, members := [], lost := [] })
  else if !en || d.vl.addr = some 1 then
    let d := if d.vl.addr.isSome then d.leaveField else d
    d.updVl (fun v => { v with addr := none, hops := 0, up := none, stby := none, formed := false, members := [], lost := [] })
  else d

/-- A link trains (R464). -/
def Dev.linkUp (d : Dev) (p : Nat) : Dev :=
  if d.portOn p then d.setPort p { d.port p with link := 2 } else d

/-- A device waits to join: its uplink is up while a unit is in RUN (R470). -/
def Dev.joinWaits (d : Dev) : Bool := d.vl.up.isSome && !d.vl.joined && d.anyActive false

/-- Enumeration frames. -/
def Dev.enum (d : Dev) (f : EnumFrame) : Dev :=
  match f with
  | .assign p a hops =>
    if !d.portOn p.val || a.toNat = 0 || a.toNat = 0x3FFFF || 63 < hops then d
    else
      -- a second root is enumerated as a member (R467)
      let second := d.root
      let d := d.setPort p.val { d.port p.val with link := 2 }
      let d :=
        if !second && d.vl.up.isSome && d.vl.up != some p.val then
          (d.setPort p.val { d.port p.val with role := 2 }).updVl (fun v => { v with stby := some p.val })
        else
          (d.setPort p.val { d.port p.val with role := 1 }).updVl (fun v =>
            { v with up := some p.val, addr := some a.toNat, hops := hops, formed := false, members := [],
                     joined := v.joined && !second, timeOk := v.timeOk && !second })
      let d := if second then d.fault linkPage 3 else d
      if d.joinWaits then d.fault linkPage 7 else d
  | .downlink p => if d.portOn p.val then d.setPort p.val { d.port p.val with link := 2, role := 3 } else d
  | .member a hops running summary =>
    if !d.root then d
    else
      let m : Member := ⟨a.toNat, hops, running, summary⟩
      let l := ((d.vl.members.filter (fun x => x.addr != a.toNat)) ++ [m]).insertionSort (fun x y => x.addr ≤ y.addr)
      (d.vlMembers l).updVl (fun v => { v with lost := v.lost.filter (· != a.toNat) })
  | .complete => if d.root then d.updVl (fun v => { v with formed := true }) else d
  | .tooDeep => if d.rb 0x1A040 0 then d.fault linkPage 1 else d
  | .otherRoot => if d.rb 0x1A040 0 then d.fault linkPage 3 else d

/-- A DELAY measurement (R469). -/
def Dev.portDelay (d : Dev) (p rt : Nat) : Dev :=
  if (d.port p).link = 2 then d.setPort p { d.port p with dly := rt / 2 } else d

/-! ### Time and phase (R163, R470, R471) -/

/-- The join steps LTIME by `step`: what the device keeps as instants of physical time moves with it. -/
def Dev.moveTimes (d : Dev) (step : Int) : Dev :=
  let mv := fun (x : Time) => x + BitVec.ofInt 64 step
  let mvE := fun (l : List (Time × BitVec 48)) => l.map (fun e => (mv e.1, e.2))
  let s := d.stove
  let c := d.cps
  { d with
    stove := { s with tasks := s.tasks.map (fun x => { x with req := mv x.req, adm := x.adm.map mv })
                      past := s.past.map (fun p => (mv p.1, p.2))
                      burst := s.burst.map mv, burstEnd := s.burstEnd.map mv }
    cps := { c with
      hist := c.hist.map (fun k => { k with t := mv k.t }), edges := mvE c.edges, rootEdges := mvE c.rootEdges
      ents := c.ents.map (fun e => ⟨mv e.t, match e.kind with
        | .edge f p j => .edge (mv f) p j
        | .shift n t => .shift n (mv t)
        | .cut st => .cut st⟩)
      idxLog := c.idxLog.map (fun e => (mv e.1, e.2)), lastAcc := c.lastAcc.map mv, stallT0 := mv c.stallT0
      jumpAt := c.jumpAt.map mv, badFine := c.badFine.map (fun a => (((a * 1000 : Nat) + step) / 1000).toNat)
      badCoarse := c.badCoarse.map (fun a => (((a * 64000 : Nat) + step) / 64000).toNat)
      enc0 := { c.enc0 with last := c.enc0.last.map mv, edges := mvE c.enc0.edges, acc := c.enc0.acc.map mv }
      enc1 := { c.enc1 with last := c.enc1.last.map mv, edges := mvE c.enc1.edges, acc := c.enc1.acc.map mv }
      mains := { c.mains with last := c.mains.last.map mv, edges := mvE c.mains.edges, acc := c.mains.acc.map mv }
      pulse := { c.pulse with last := c.pulse.last.map mv, edges := mvE c.pulse.edges, acc := c.pulse.acc.map mv } }
    chans := d.chans.map (fun kv => (kv.1, { kv.2 with
      apAt := kv.2.apAt.map mv, hardAt := kv.2.hardAt.map mv, closeAt := kv.2.closeAt.map mv, calAt := kv.2.calAt.map mv
      quickAt := kv.2.quickAt.map mv, flapAt := kv.2.flapAt.map mv }))
    host := { d.host with outlets := d.host.outlets.map (fun kv =>
      (kv.1, { kv.2 with buf := kv.2.buf.map (fun b => { b with openAt := mv b.openAt }) })) }
    -- the arm cycles of Efyon-S's WAITPHs; no context is in RUN (R470)
    esc := { d.esc with
      core := { d.esc.core with wait := d.esc.core.wait.map (fun w => (w.1, mv w.2)) }
      waits := d.esc.waits.map (fun w => { w with arm := mv w.arm }) }
    tins := d.tins.map (fun kv => (kv.1, { kv.2 with last := kv.2.last.map mv }))
    health := { d.health with savedAt := mv d.health.savedAt } }

/-- The join step: LTIME moves once, and pitches armed on an instant that it passes are cancelled. -/
def Dev.join (d : Dev) (t : Time) : Dev :=
  if d.root || d.vl.addr.isNone || d.vl.up.isNone || d.vl.joined then d
  else if d.anyActive false then d.fault linkPage 7
  else
    let step : Int := (t.toNat : Int) - d.now.toNat
    let d := d.moveTimes step
    let d := { d with
      pwr := { d.pwr with ltime := t, origin := 2 }
      vl := { d.vl with joined := true, step := step, terr := 0 } }
    let passed := d.armedFor (fun w => fld w 2 0 == 2)
    forEach (passed.filter (fun k => decide (join64 (d.rd (0x110C + 0x20 * k)) (d.rd (0x1108 + 0x20 * k)) ≤ t)))
      (fun k (d : Dev) => d.pitchCancel k 10 0) d

/-- A PHASE frame steers a member and feeds its history with the edges it carries; a frame without one brings the root's tracked
state (R163, R471). A virtual phase has no edges, and each of its frames gives the rate. The tracked phase is the root's with the
hop delay removed: it has travelled since the frame's instant. -/
def Dev.phaseFrame (d : Dev) (f : PhaseFrame) : Dev :=
  if d.root || !d.inField then d
  else
    let old := d.vl.rootPh
    let d := d.updVl (fun v => { v with terr := f.offsetPs, timeOk := f.settled, rootPh := some f })
    let d := if !f.settled && d.weirDriving then d.weirSyncLost else d
    -- another source of the root, and a phase that jumps, begin anew
    let fresh := d.cps.resync || old.any (fun o => o.src != f.src)
    let es := if fresh then [] else d.cps.rootEdges
    let es := if f.edge || f.src.val == 6 then (f.t, f.pos) :: es.take 1 else es
    let d := d.setCps { d.cps with rootEdges := es }
    if d.phSrc ≠ 5 then d
    else
      let c := d.cps
      let t := if d.now < f.t then d.now else f.t
      let was := d.tracked
      let diff := phDiff was.pos f.pos
      let rev := match c.edges with | (_, p) :: _ => decide (phDiff p f.pos < 0) | [] => false
      let ahead := if rev then decide (diff < 0) else decide (0 < diff)
      let jumps := c.resync || (c.stalled && d.stallMode == 1 && !ahead)
      let d := d.setCps { c with edges := es, lastAcc := some d.now, stalled := false, resync := false,
                                 resume := if c.stalled then 2 else if f.edge then c.resume - 1 else c.resume }
      let d := if fresh then d.histCut none none else d
      -- the root stalls: the entries after its last edge are final (R173)
      let d := if (f.st.val == 1 || f.st.val == 2) && old.any (fun o => o.st.val == 0) then d.histCut (some f.st.val) none else d
      let d := if f.edge then d.ents (histEdge t jumps f.pos) else d
      let since := d.now.toNat - t.toNat
      let mv := d.rootTravel f
      let d := if jumps then d.jump f.pos mv since
        else (d.knot { t := d.now, pos := f.pos, cont := true, src := f.src.val, mv := mv, since := since }).idxNote t
      if c.stalled then
        d.cpsRec 0x61 0x9FFF f.t (w32 (d.stallMode * 2 + 1)) (wInt (satS 32 diff))
          (w32 (satU 32 ((f.t.toNat - c.stallT0.toNat) / 1000)))
      else d

/-! ### Weir field runs (R209, R210, R474) -/

def Dev.weirOut (d : Dev) (f : WeirFrame) : Dev := d.updVl (fun v => { v with wout := v.wout ++ [f] })

/-- The root holds one more WREADY, its own among them; with the last one it sends FSTART, or it ends the run in every device, where
two differ or two positions are one (R209, R474). -/
def Dev.wreadyAt (d : Dev) (a : Nat) (cfg amp avg : Word) (pos : Nat) : Dev :=
  let l := d.vl.wready.filter (fun x => x.1 != a) ++ [(a, cfg, amp, avg, pos)]
  let d := d.updVl (fun v => { v with wready := l })
  if !(1 :: d.vl.members.map (·.addr)).all (fun m => l.any (fun x => x.1 == m)) then d
  else
    let same := l.all (fun x => x.2.1 == cfg && x.2.2.1 == amp && x.2.2.2.1 == avg)
    let ps := l.map (fun x => x.2.2.2.2)
    let d := d.updVl (fun v => { v with wready := [] })
    if !same || ps.dedup.length != ps.length then (d.weirAbort 3).weirOut (.start none)
    else
      let s : Time := BitVec.ofNat 64 (cdiv (d.now.toNat + d.bcastLat + 1000) 125 * 125)
      (d.updVl (fun v => { v with fstart := some s })).weirOut (.start (some s))

/-- A member's WREADY reaches the root. -/
def Dev.wready (d : Dev) (a : Nat) (cfg amp avg : Word) (pos : Nat) : Dev :=
  if !d.root || a = 1 then d else d.wreadyAt a cfg amp avg pos

/-- A device that has finished steps 2 and 3 of a field run sends its WREADY, the root to itself (R209, R474). -/
def Dev.weirTell (d : Dev) : Dev :=
  match d.weir.run with
  | some w =>
    if w.cfg.field && !w.told && d.weirSettled then
      let c := w.cfg
      let d := d.setWeir { d.weir with run := some { w with told := true } }
      if d.root then d.wreadyAt 1 c.wcfg c.amp c.avg c.pos else d.weirOut (.wready c.wcfg c.amp c.avg c.pos)
    else d
  | none => d

/-- FSTART reaches a device with a field run in progress, or the root's word that two WREADYs differ (R209). -/
def Dev.fstartIn (d : Dev) (t : Option Time) : Dev :=
  match d.weir.run with
  | some w =>
    if w.cfg.field && d.weir.rstate == 1 then
      match t with
      | some t => d.updVl (fun v => { v with fstart := some t })
      | none => d.weirAbort 3
    else d
  | none => d

/-- Another device's V values or component reports, by its field position (R210). V values bring new reports of this device. The root
sends on the values that it takes, and of the reports what it has joined; at a member they come from the root. The spec does not
say how the devices learn the components (DESIGN CHOICE, notes/assumptions/89). -/
def Dev.fieldData (d : Dev) (x : FieldData) : Dev :=
  match d.weir.run with
  | none => d
  | some w =>
    if !w.cfg.field then d
    else
      match x with
      | .values a v =>
        let d := if d.root then d.weirOut (.values a v) else d
        let l := (List.range v.length).zip v
        let w := { w with
          fieldV := l.foldl (fun m x => SMap.put 0 m (512 * a + x.1) x.2.1) w.fieldV
          fieldU := l.foldl (fun m x => SMap.put 0 m (512 * a + x.1) (16 + x.2.2.toNat)) w.fieldU }
        let d := d.setWeir { d.weir with run := some w }
        if d.weir.rstate != 4 then d else d.weirOut (.components w.cfg.pos (d.components w))
      | .components _ c =>
        let w := { w with fieldC := w.fieldC ++ c }
        let d := d.setWeir { d.weir with run := some w }
        if d.root then d.weirOut (.components w.cfg.pos (joinReports (d.components w ++ w.fieldC))) else d

/-! ### Forwarding (R24, R477) -/

/-- A packet as the root commits it: the origin item, and FLAGS.FWD in a standard record. A packet carries no mark of its kind,
and the spec does not say how the root tells a record from another packet of eight items: each of eight items takes FWD
(DESIGN CHOICE, notes/assumptions/84). -/
def forwarded (origin : Nat) (items : List Word) : List Word :=
  w32 (0xFF000000 + origin) :: (match items with
    | i0 :: rest => (if items.length = 8 then i0 ||| 0x800000 else i0) :: rest
    | [] => [])

/-- Forwarding frames. -/
def Dev.forward (d : Dev) (m : RecordMsg) : Dev :=
  match m with
  | .committed k =>
    let w := d.rd (linkPage + 0xC0 + 4 * k.val)
    let q := fld w 9 0
    if !bit w 31 || !d.inField || d.root || d.qOen q || (d.queue q).pkts == [] then d
    else
      let x := d.queue q
      d.setQueue q { x with pkts := headIn x.pkts.tail, rd := 0, lossTag := false }
  | .weirCommitted =>
    let rec_ := fun (f : WeirFrame) => match f with | .record _ => true | _ => false
    match d.vl.wout.find? rec_ with
    | some f => d.updVl (fun v => { v with wout := v.wout.erase f })
    | none => d
  | .arrived q origin items =>
    if !d.root || items = [] then d
    else
      let items := forwarded origin.toNat items
      match d.qState q.val with
      | .off => d
      | .run =>
        if cellsOf items.length ≤ d.credit q.val then d.commit q.val items 4
        else if d.qClass q.val = 2 then d
        else d.lose q.val 1 false
      | .quarantine => d.lose q.val 4 false
      | _ => d.lose q.val 2 false

/-! ### The proxy window (R475, R476) -/

/-- The address that a path's proxy selection holds. -/
def Dev.proxySel (d : Dev) (p : Path) : Nat := if p = .host then d.rf 0x1A060 17 0 else d.rf 0x1A064 17 0

/-- A remote device has the address. -/
def Dev.proxyAssigned (d : Dev) (a : Nat) : Bool :=
  d.inField && a != 0 && a != 0x3FFFF && (!d.root || d.vl.members.any (fun m => m.addr == a))

/-- FD_SEL selects the member with the k-th lowest address for the path. -/
def Dev.fieldSel (d : Dev) (p : Path) (k : Nat) : Dev :=
  let l := if d.root then 1 :: d.vl.members.map (·.addr) else []
  match p, l[k]? with
  | .host, some a => d.wf 0x1A060 17 0 a
  | .efyonS, some a => d.wf 0x1A064 17 0 a
  | _, _ => d

/-- Field reset at the root: T = now + MIN_LEAD (R479). -/
def Dev.fieldReset (d : Dev) : Dev :=
  if d.root then d.updVl (fun v => { v with resetAt := some (d.now + BitVec.ofNat 64 (d.minLead * 1000)) }) else d

/-- LTIME reaches T: a device reset at every member. -/
def Dev.fieldResetAct (d : Dev) : Dev :=
  if !d.inField || (d.root && !d.vl.resetAt.any (fun t => decide (t ≤ d.now))) then d else d.deviceReset

end Sys2Proof.Machine
end

