-- ==== Sys2Proof/Machine/ResetOps.lean ====
section
/-! DEFINITION. Camp resets (R51–R53, R494), the automatic ones among them, and the steps of a start-up (R57, R58, R495). -/

namespace Sys2Proof.Machine

/-! ### Calibration (R145) -/

/-- A calibration that runs ends with what it measured. -/
def Dev.calDone (d : Dev) (n : Nat) (o : CalOutcome) : Dev :=
  let k := (d.ch n).cal
  if k = 0 || (d.taskOf 3 n true).isNone then d else d.changeH (Un.ofChan n) (fun d => d.calEnd n k o)

/-- Calibrations end in the cycle of a command, in the order listed. -/
def Dev.calsEnd (d : Dev) (l : List (Chan × CalOutcome)) : Dev := forEach l (fun x (d : Dev) => d.calDone x.1.val x.2) d

/-! ### Camp resets -/

/-- Channels of a camp with a flap that does not read OPEN. -/
def Dev.campShut (d : Dev) (c : Nat) : List Nat :=
  ((List.range 32).map (fun j => 32 * c + j)).filter (fun n => (d.ch n).fF.ph != .opened || (d.ch n).fS.ph != .opened)

/-- The quick calibrations of a camp reset (R144): every channel of the camp, one after another. -/
def Dev.campCals (d : Dev) (c : Nat) : Dev :=
  let mine := fun (n : Nat) => n / 32 == c
  let d := d.setStove { d.stove with tasks := d.stove.tasks.filter (fun t => !(t.kind == 3 && mine t.unit)),
                                     calQ := d.stove.calQ.filter (fun n => !mine n) }
  forRange 32 (fun j (d : Dev) => d.calQueue (32 * c + j) 2) d

/-- CLK.RESET with REACH = 3: every closed flap of the camp soft-opens first (R51). A larger reset absorbs it, and one of the
same camp begins its start-up again (R52). -/
def Dev.campReset (d : Dev) (c : Nat) : Dev :=
  if d.inReset then d.startAgain
  else if d.pwr.campOff.contains c then d.campCals c
  else if d.pwr.campWait.contains c then d
  else
    let d := { d with pwr := { d.pwr with campWait := d.pwr.campWait ++ [c] } }
    forRange 32 (fun j (d : Dev) => d.softOpen (32 * c + j) true true) d

/-- The reset of the camp can act: its last flap reads OPEN. -/
def Dev.campReady (d : Dev) (c : Nat) : Bool := d.pwr.campWait.contains c && d.campShut c == []

/-- Registers of a camp's pages, channels and Floats. The RS words stay with the calibration (R217). -/
def campReg (c a : Nat) : Bool :=
  (decide (0x100000 + c * 0x10000 ≤ a ∧ a < 0x110000 + c * 0x10000) &&
      !decide (0x103080 + c * 0x10000 ≤ a ∧ a < 0x103800 + c * 0x10000)) ||
    decide (0x200000 + c * 0x20000 ≤ a ∧ a < 0x220000 + c * 0x20000) ||
    decide (0x400000 + c * 0x8000 ≤ a ∧ a < 0x408000 + c * 0x8000)

/-- UNIT_IDs within a camp reset's reach: the camp, its channels, Floats, contexts, Weir slice and zone (R10, R51). -/
def campId (c i : Nat) : Bool :=
  i == 0x3000 + c || i == 0xA000 + c || i == 0xB000 + c || decide (0x4000 ≤ i ∧ i < 0x4200 ∧ (i - 0x4000) / 32 = c) ||
    decide (0x5000 ≤ i ∧ i < 0x5800 ∧ (i - 0x5000) / 128 = c) || decide (0x8000 ≤ i ∧ i < 0x80A0 ∧ (i - 0x8000) / 10 = c)

/-- The reset of the camp acts (R51, R53): its units go OFF, its registers take their reset values. -/
def Dev.campAct (d : Dev) (c : Nat) : Dev :=
  if !d.campReady c then d
  else
    let us := Un.ofCamp c
    let isIn := fun (u : Un) => u.camp? == some c
    let d := d.pitchReset (campId c)
    let d := forRange 32 (fun j (d : Dev) =>
      let n := 32 * c + j
      let d := if d.ust (.chan n) == .run then (d.losePartner n).weirDrop n else d
      (((d.release 1 n).release 3 n).setCh n (d.ch n).campKept)) d
    let d := d.dropPend us
    let d := forRange 10 (fun k (d : Dev) =>
      if h : 10 * c + k < 160 then d.resetPath (.ctx ⟨10 * c + k, h⟩) else d) d
    let inMap := fun (a : Nat) => campReg c a
    -- the device's own STATE follows the units that leave RUN (R87, R92, R93)
    let d := (d.change [] (fun d => { d with
      regs := d.regs.filter (fun kv => !inMap kv.1)
      units := d.units.filter (fun kv => !inMap kv.1)
      gens := d.gens.filter (fun kv => !inMap kv.1)
      settling := d.settling.filter (fun kv => !inMap kv.1)
      streams := d.streams.filter (fun kv => kv.1 / 64 != c)
      reeds := d.reeds.filter (fun kv => kv.1 != c)
      floats := d.floats.filter (fun kv => kv.1 / 128 != c)
      ctxs := d.ctxs.filter (fun kv => kv.1 / 10 != c)
      stops := d.stops.filter (fun kv => kv.1 / 10 != c)
      steps := d.steps.filter (fun x => x / 10 != c)
      holds := d.holds.filter (fun u => !isIn u)
      again := d.again.filter (fun x => !isIn x.1)
      stove := { d.stove with walkDue := true }
      pwr := { d.pwr with campWait := d.pwr.campWait.erase c, campOff := d.pwr.campOff ++ [c] } })).1
    (d.wb rstCause 7 true).campCals c

/-- The camp reset completes with the last of its calibrations: the camp's units leave OFF (R51, R86, R144, R145), into FAULT
while the thermal trip stands (R39; DEDUCED, notes/assumptions/85). -/
def Dev.campDone (d : Dev) (c : Nat) : Dev :=
  if !d.pwr.campOff.contains c || (List.range 32).any (fun j => d.calibrating (32 * c + j)) then d
  else
    let d := (d.change (Un.ofCamp c) (fun d =>
      let d : Dev := { d with pwr := { d.pwr with campOff := d.pwr.campOff.erase c } }
      if d.pwr.trip then d.fault (Un.camp c).addr 28 else d)).1
    let h := d.health
    let h := match SMap.find? h.campDown c with
      | some a => { h with campDown := SMap.erase h.campDown c,
                           downMs := satU 32 (h.downMs + (d.pwr.aonCnt - a).toNat * 1000 / 32768) }
      | none => h
    ({ d with health := h } : Dev).fault (Un.camp c).addr 0

/-- Firmware answers a sequencer's MEM_UE (1) or FETCH (2) with a camp reset (R494). -/
def Dev.campRestart (d : Dev) (c cause : Nat) : Dev :=
  if !d.rb 0x1C094 0 || !d.esc.running then d
  else
    let past := (SMap.get [] d.health.restarts c).filter (fun t => decide ((d.now - t).toNat < 3600000000000))
    if d.rf 0x1C094 15 8 ≤ past.length then d.fault 0x1C000 6
    else
      let h := d.health
      let past := past ++ [d.now]
      let d := { d with health := { h with
        restarts := SMap.put [] h.restarts c past, downCamp := satU 16 (h.downCamp + 1),
        campDown := SMap.insert h.campDown c d.pwr.aonCnt } }
      (d.campReset c).healthRec 0x8C (0x3000 + c) d.now (w32 cause) (w32 past.length) 0

/-! ### Start-up -/

/-- A RAIL_LOG record is due after a start-up that follows a rail fault (R495, R496). -/
def Dev.railRecord (d : Dev) : Dev :=
  match d.pwr.railLog with
  | none => d
  | some r =>
    let k := match r.rail with | .vcore => 0 | .vmem => 1 | .vio => 2 | .vana => 3 | .vpos => 4 | .vneg => 5
    ({ d with pwr := { d.pwr with railLog := none } } : Dev).healthRec 0x8D 0x2000 r.t (w32 k)
      (w32 (decide (d.pwr.origin ≠ 1)).toNat) 0

/-- The warm record's calibration comes into use (R58). CAL_STAT.AGE_MIN reads 0xFFFF, its reset value, for a full calibration of
before the reset (DESIGN CHOICE, notes/assumptions/84). -/
def Dev.warmCal (d : Dev) : Dev :=
  match d.pwr.warmRec with
  | none => d
  | some r =>
    let d := forEach r.coefs (fun kv (d : Dev) =>
      d.updCh kv.1 (fun x => { x with calValid := kv.2.1, coef := kv.2.2 })) d
    forEach r.ratios (fun kv (d : Dev) => d.wr kv.1 kv.2) d

/-- The start-up is complete (R53): every unit leaves OFF. START_MS is its duration, also where it ends in STANDBY (DESIGN
CHOICE, notes/assumptions/84). -/
def Dev.startDone (d : Dev) (ms : Nat) (st : PwrState) : Dev :=
  let d := d.reportCauses
  let d : Dev := { d with pwr := { d.pwr with st := st, biasing := false, causes := 0, startMs := ms } }
  (d.change Un.all (fun d => { d with pwr := { d.pwr with unitsOff := false } })).1

/-- A start-up reads the data areas of the flash: the data of one whose copies all fail are taken as zero (R486). -/
def Dev.flashRead (d : Dev) : Dev :=
  let bad := fun (i : Nat) => !Config.flashOk i d.now.toNat
  let noWear := fun (l : SMap ChanDyn) => (l.map (fun kv => (kv.1, { kv.2 with
    fF := { kv.2.fF with wear := 0 }, fS := { kv.2.fS with wear := 0 } }))).filter (fun kv => kv.2 != {})
  let noCoef := fun (l : SMap ChanDyn) => (l.map (fun kv => (kv.1, { kv.2 with coef := [] }))).filter (fun kv => kv.2 != {})
  let d := if bad 0 then { d with chans := noWear d.chans, health := { d.health with saved := [], gaps := 0 } } else d
  let d := if bad 1 then { d with chans := noCoef d.chans } else d
  let d := if bad 2 then { d with health := { d.health with
      daily := [], eol := [], restarts := [], downMs := 0, downCore := 0, downCamp := 0 } } else d
  if bad 0 || bad 1 || bad 2 then d.fault 0x1C000 7 else d

/-- Pages take their reset values when firmware starts, whatever a path has written since the start-up began (R57, R58, R409): the
registers, what they hold beside, and the units. Memories, the host's link, the management bus, the island, flash, the monitor
and the sensors are no pages. -/
def Dev.pagesReset (d : Dev) : Dev :=
  let w := d.wipe true
  { w with pwr := d.pwr, host := { d.host with outlets := [], dmaBytes := 0 }, mgmt := d.mgmt, cw := d.cw, vl := d.vl, health := d.health, mon := d.mon, esc := d.esc
           chans := d.chans, ue := d.ue, lbUe := d.lbUe, stove := { w.stove with temps := d.stove.temps } }

/-- The end of the boot selection, image and firmware steps (steps 4 to 6 of R57, 4 and 5 of R58): the pages have their reset
values, the device leaves OFF into STANDBY, and its Vierma ports train (R479). The channels begin to bias and, after a cold
start-up, to calibrate; a warm one for STANDBY is complete. -/
def Dev.startFirmware (d : Dev) (ms : Nat) : Dev :=
  let named := if d.pwr.warm then d.pwr.warmRec.map (·.slot) else none
  let fits := match named with | some i => (d.slot i).judged.cand | none => true
  let d := if fits then d else { d with pwr := { d.pwr with warm := false } }
  match d.bootSelect named with
  | (d, none) => (d.startFailed ms).persisting
  | (d, some i) =>
    let d := (d.pagesReset.change [] (fun d =>
      { d with pwr := { d.pwr with devOff := false, st := .standby, biasing := true } })).1
    let d := forEach d.cw.watch (fun kv (d : Dev) => d.wr (0xC080 + 4 * kv.1) kv.2) d
    let d := { d with health := { d.health with load := some (i, 0), half := 0 } }
    let d := ((d.startFw i).vlCtl).flashRead.railRecord.persisting
    if !d.pwr.warm then forRange 512 (fun n (d : Dev) => d.calQueue n 1) d
    else if d.rf 0x19044 17 16 == 2 then (d.startDone ms .standby).warmCal
    else d.warmCal

/-- The last step of a start-up (step 7 of R57, 6 of R58): the channels are biased and calibrated, and the device is READY. -/
def Dev.startReady (d : Dev) (ms : Nat) : Dev :=
  if (List.range 512).any d.calibrating then d else (d.startDone ms .ready).atn 3

/-- Steps of the start-up in progress complete, with the calibrations that end in the same cycle. -/
def Dev.startUp (d : Dev) (ms : Nat) (cals : List (Chan × CalOutcome)) : Dev :=
  if d.pwr.st == .starting then d.startFirmware ms
  else if d.pwr.biasing then (d.calsEnd cals).startReady ms
  else d

end Sys2Proof.Machine
end

