-- ==== Sys2Proof/Machine/HealthOps.lean ====
section
/-! DEFINITION. Scrubbing, flap wear and its prediction, idle-slot calibration, the reference check and firmware images
(R483–R500). -/

namespace Sys2Proof.Machine

def healthPage : Nat := 0x1C000

def Dev.setHealth (d : Dev) (h : Health) : Dev := { d with health := h }
def Dev.updHealth (d : Dev) (f : Health → Health) : Dev := d.setHealth (f d.health)

/-! ### Error-correcting codes (R483, R484) -/

/-- MEM_ERR, and FAULT.UE_SEEN: one codeword with a UE outside the fabric. -/
def Dev.memErr (d : Dev) (mem camp : Nat) (scrub : Bool) (a : Nat) : Dev :=
  (d.healthRec 0x88 0x2000 d.now (w32 (mem * 2 ^ 28 + camp * 2 ^ 24 + scrub.toNat)) (w32 a) 1).fault healthPage 0

/-- Count a CE or a UE in a pair of counters: CE above, UE below. -/
def Dev.eccCount (d : Dev) (a : Nat) (ue : Bool) : Dev := if ue then d.count a 15 0 else d.count a 31 16

/-- Scrub words of the pools are numbered by queue and place in the queue: q × 2²⁴ + word. -/
def Dev.poolWord (d : Dev) (a : Nat) : Option (Nat × Nat × Nat) :=
  let q := a / 2 ^ 24
  let rec go : List Packet → Nat → Nat → Option (Nat × Nat × Nat)
    | [], _, _ => none
    | p :: ps, i, w => if w < p.words then some (q, i, w) else go ps (i + 1) (w - p.words)
  go (d.queue q).pkts 0 (a % 2 ^ 24)

/-- Every path, in ascending number (R301). -/
def allPaths : List Path := [.host, .mgmt, .efyonS] ++ (List.finRange 160).map Path.ctx

/-- The path whose open packet holds the word at an address, and its place there: behind the committed words, in ascending path
number. -/
def Dev.poolOpen (d : Dev) (a : Nat) : Option (Path × Nat) :=
  let q := a / 2 ^ 24
  let rec go : List (Path × Nat) → Nat → Option (Path × Nat)
    | [], _ => none
    | (p, k) :: l, w => if w < k then some (p, w) else go l (w - k)
  go (allPaths.filterMap (fun p => match (d.path p).pkt with
      | some o => if o.q = q then some (p, cdiv o.items.length 3) else none
      | none => none))
    (a % 2 ^ 24 - ((d.queue q).pkts.map Packet.words).sum)

/-- An error in a pool. A word keeps its place and is marked CE or, once committed, UE (R299, R300); a UE aborts an open packet, cause
6; a free cell is rewritten (R484). -/
def Dev.poolErr (d : Dev) (pool a : Nat) (ue : Bool) : Dev :=
  let q := a / 2 ^ 24
  let note := fun (d : Dev) =>
    let d := d.eccCount (Dev.qAddr q + 0x1C) ue
    if ue then ((d.qErr q 18).fault fabPage 1).fabRec 0x83 (0x6000 + q) (w32 (pool * 2 ^ 31)) (Config.linkCell q) 0 else d
  let mark := fun (l : List Nat) (w : Nat) => if l.contains w then l else l ++ [w]
  match d.poolWord a with
  | some (_, i, w) =>
    let x := d.queue q
    match x.pkts[i]? with
    | none => d
    | some p =>
      note (d.putQueue q { x with pkts := x.pkts.set i (if ue then { p with ue := mark p.ue w } else { p with ce := mark p.ce w }) })
  | none =>
    match d.poolOpen a with
    | some (p, w) =>
      if ue then note (d.abortOpen p (some 6) false)
      else note (d.setPath p { d.path p with pkt := (d.path p).pkt.map (fun o => { o with ce := mark o.ce w }) })
    | none => d

/-- A UE in the retained memory, by region (R445). -/
def Dev.retainedUe (d : Dev) (a : Nat) : Dev :=
  let d :=
    if a < 0x2000 then
      let i := a / 32 * 8
      d.setCw { d.cw with table := SMap.put 0 d.cw.table i (setBit (d.tblWord i) 31 false)
                          due := d.cw.due.filter (· != a / 32), first := d.cw.first.filter (· != a / 32) }
    else if a < 0x2400 then { d with pwr := { d.pwr with warmRec := none } }
    else
      let k := (a - 0x2400) / 20
      match d.cw.batch[k]? with
      | some e => (d.setCw { d.cw with batch := d.cw.batch.eraseIdx k }).cwDiscard e
      | none => d
  (d.cwFault 7).cwInput 15 7 0xFFF

/-- A memory that BAR0 maps: whether the codeword at an offset holds data. -/
def Dev.holdsData (d : Dev) (a : Nat) : Bool := d.rd (a / 8 * 8) != 0 || d.rd (a / 8 * 8 + 4) != 0

def Dev.markUe (d : Dev) (a : Nat) : Dev := { d with ue := if d.ue.contains (a / 8) then d.ue else d.ue ++ [a / 8] }

/-- Items of the Ocpen region in a codeword with a UE read 0x8001 and count in OC_ERR.UE (R305, R312), as corrected ones count in
OC_ERR.CE; items lie from the region's start, oldest first. -/
def Dev.ocErr (d : Dev) (a : Nat) (ue : Bool) : Dev :=
  let base := d.rf 0x14048 6 0 * 0x2000000
  let k := (a - base) / 8 * 4
  let o := d.fab.ocpen
  let n := min 4 (o.fifo.length - k)
  if !d.ocEn || a < base || n = 0 then d
  else if !ue then d.count 0x14068 31 16 n
  else
    let fifo := o.fifo.take k ++ List.replicate n 0x8001 ++ o.fifo.drop (k + n)
    (({ d with fab := { d.fab with ocpen := { o with fifo := fifo } } } : Dev).count 0x14068 15 0 n).fault 0x14000 1

/-- The scrubber runs (R485). -/
def Dev.scrubs (d : Dev) : Bool := d.pwr.st == .standby || d.pwr.st == .ready

/-- A scrub access reads the codeword at byte address `a` of a memory. -/
def Dev.scrub (d : Dev) (m : ScrubMem) (a : Nat) (r : ScrubResult) : Dev :=
  let hit := fun (f : Bool → Dev) => match r with
    | .corrected => f false
    | .uncorrectable => f true
    | _ => d
  match m, r with
  | .retained, _ => if d.pwr.st == .off then d else hit (fun ue =>
      let d := if d.asleep then d else d.eccCount 0x1C050 ue
      if ue then (d.retainedUe a) |> fun d => if d.asleep then d else d.memErr 5 0 true a else d)
  | .history coarse, .uncorrectable =>
    -- `a` is the entry's LTIME in its units; stamps that use it carry no phase (R173)
    let c := d.cps
    if coarse && c.badCoarse.contains a || !coarse && c.badFine.contains a then d
    else
      (((d.setCps (if coarse then { c with badCoarse := (a :: c.badCoarse).take 65536 }
        else { c with badFine := (a :: c.badFine).take 65536 })).count 0x3078 15 0).fault cpsPage 8)
  | .history _, _ => d
  | .l1 code, _ => if d.esc.running then hit (fun _ => if code then d.count 0x1C058 31 16 else d.count 0x1C058 15 0) else d
  | .basin, .passEnd => if d.scrubs then d.updHealth (fun h => { h with scrubBasin := h.scrubBasin + 1 }) else d
  | .lakebed, .passEnd => if d.scrubs then d.updHealth (fun h => { h with scrubLake := h.scrubLake + 1 }) else d
  | _, _ =>
    if !d.scrubs then d
    else hit (fun ue =>
      match m with
      | .basin => (d.eccCount 0x10094 ue).poolErr 0 a ue
      | .pool => (d.eccCount 0x10098 ue).poolErr 1 a ue
      -- a broken link entry is reported when its sweep ends (R300)
      | .link => if ue then d else d.count 0x1009C 31 16
      | .lakebed =>
        let d := (d.eccCount 0x1C054 ue).ocErr a ue
        if ue then ({ d with lbUe := if d.lbUe.contains (a / 8) then d.lbUe else d.lbUe ++ [a / 8] } : Dev).memErr 6 0 true a else d
      | .program c =>
        let d := (d.eccCount 0x1C044 ue).eccCount (0x10504C + c.val * 0x10000) ue
        let b := progMem c.val + a
        if ue && d.holdsData b then ((d.markUe b).fault (0x105000 + c.val * 0x10000) 0).memErr 1 c.val true a else d
      | .data c =>
        let d := (d.eccCount 0x1C044 ue).eccCount (0x105050 + c.val * 0x10000) ue
        let b := dataMem c.val + a
        if ue && d.holdsData b then ((d.markUe b).fault (0x105000 + c.val * 0x10000) 0).memErr 2 c.val true a else d
      | .wref =>
        let d := d.eccCount 0x1C048 ue
        if ue then (d.markUe (0x1300000 + a)).memErr 3 0 true a else d
      | .l2 =>
        -- `a` is the address of the codeword's data in Lakebed
        let d := d.eccCount 0x1C04C ue
        if ue then (d.setEsc { d.esc with l2Ue := (a / 8 :: d.esc.l2Ue).dedup }).memErr 4 0 true a else d
      | .retained | .history _ | .l1 _ => d)

/-! ### Flap wear (R487, R488) -/

/-- A snapshot of the wear counts. -/
def Dev.wearSnapshot (d : Dev) (ok : Bool) : Dev := if ok then d.saveWear else d.fault healthPage 1

/-- Predicted days of a flap, by 2 × channel + flap, from the logged wear of the days before. -/
def predictDays (units : Nat) (log : List (SMap Nat)) (i : Nat) : Nat :=
  let k := min 30 log.length
  match log[k - 1]? with
  | none => 0xFFFF
  | some old =>
    let gained := units - SMap.get 0 old i
    if gained = 0 then 0xFFFF else min 0xFFFF ((1000000000 - units) * k / gained)

/-- The daily prediction of every flap's end of life. -/
def Dev.eolPredict (d : Dev) : Dev :=
  let h := d.health
  let now := d.wearNow
  let all := (List.range 1024).map (fun i => (i, predictDays (SMap.get 0 now i) h.daily i))
  let worst := all.foldl (fun (m : Nat × Nat) x => if x.2 < m.2 then x else m) (0, 0xFFFF)
  let warn := d.rf 0x1C06C 15 0
  let low := all.filter (fun x => decide (x.2 < warn))
  let fresh := low.filter (fun x => !h.eol.contains x.1)
  let d := d.setHealth { h with
    daily := (now :: h.daily).take 31
    -- a flap may be reported again once its days have risen above EOL_WARN
    eol := (h.eol.filter (fun i => all.all (fun x => x.1 != i || decide (x.2 ≤ warn)))) ++ fresh.map (·.1)
    eolWorst := w32 (worst.1 % 2 * 2 ^ 31 + worst.1 / 2 * 2 ^ 16 + worst.2) }
  forEach fresh (fun x (d : Dev) =>
    (d.healthRec 0x89 (0x4000 + x.1 / 2) d.now (w32 (x.1 % 2)) (w32 (SMap.get 0 now x.1)) (w32 x.2)).fault healthPage 2) d

/-! ### Idle slots and the reference check (R489, R490) -/

/-- A channel lies in an idle slot. -/
def Dev.idleSlot (d : Dev) (n : Nat) : Bool :=
  d.ust (.chan n) == .ready && !(d.ctl 0).ps.locks && !(d.ctl (1 + n / 32)).ps.locks &&
    (List.range 32).all (fun j => !d.calibrating (32 * (n / 32) + j))

/-- Some time has passed since an instant, or there was none. -/
def Dev.passed (d : Dev) (t : Option Time) (ns : Nat) : Bool :=
  match t with | some x => decide (ns ≤ (d.now - x).toNat) | none => true

/-- The calibration that a channel is due for: its KIND, 0 for none. -/
def Dev.dueKind (d : Dev) (n : Nat) : Nat :=
  let x := d.ch n
  if d.rf 0x1C070 31 16 ≤ d.calAge n ∧ !d.health.refMask.getLsbD (n / 32) then 1
  else if x.quickAt.isNone ∨ (d.rf 0x1C074 15 0 ≠ 0 ∧ d.passed x.quickAt (d.rf 0x1C074 15 0 * 60000000000)) then 2
  else if d.rf 0x1C070 15 8 ≠ 0 ∧ d.passed x.flapAt (d.rf 0x1C070 15 8 * 3600000000000) then 3
  else 0

/-- Firmware starts a calibration of the oldest channel in an idle slot. -/
def Dev.idleCal (d : Dev) : Dev :=
  if !d.esc.running then d
  else
    let d := if d.calDue ≠ 0 then d.fault healthPage 3 else d
    if !d.rb 0x1C070 0 then d
    else
      let cand := (List.range 512).filter (fun n => d.idleSlot n && d.dueKind n != 0)
      match cand with
      | [] => d
      | n0 :: rest =>
        let n := rest.foldl (fun m n => if d.calAge m < d.calAge n then n else m) n0
        d.calStart n (d.dueKind n)

/-- The reference check starts. -/
def Dev.refStart (d : Dev) : Dev := d.updHealth (fun h => { h with refRun := true })

/-- The reference check ends with each camp's deviation in ppm. -/
def Dev.refDone (d : Dev) (ppm : List Int) : Dev :=
  if !d.health.refRun then d
  else
    let dev := fun (c : Nat) => ppm.getD c 0
    let lim := d.rf 0x1C07C 7 0
    let mask := flagWord 0 ((List.range 16).map (fun c => decide (lim < (dev c).natAbs)))
    let worst := largest ((List.range 16).map dev)
    let d := d.updHealth (fun h => { h with refRun := false, refMask := BitVec.ofNat 16 mask, refWorst := worst })
    let d := if mask ≠ 0 then d.fault healthPage 4 else d
    d.healthRec 0x8A 0x2000 d.now (w32 (decide (mask ≠ 0)).toNat) (wInt worst) (w32 mask)

/-! ### Firmware images (R491, R492) -/

def Dev.imgSlot (d : Dev) : Nat := d.rf 0x1C08C 17 16

/-- An FW_CMD is refused. -/
def Dev.fwRefuse (d : Dev) (r : Nat) : Dev := (d.updHealth (fun h => { h with op := 0, result := r, pct := 0 })).fault healthPage 5

/-- The regions that a programmed image must not overlap, in units of 32 MiB: base and size. -/
def Dev.lakeRegions (d : Dev) : List (Nat × Nat) :=
  let pool := d.rd 0x10040
  let fs := d.rd 0xA070
  [(fld pool 6 0, fld pool 22 16), (fld fs 6 0, if bit fs 31 then 1 else 0), (d.rf 0x14048 6 0, if d.ocEn then 1 else 0)]

/-- PROGRAM: accepted, or refused under R491. -/
def Dev.fwProgram (d : Dev) (hdr : Bool) : Dev :=
  let base := d.rf 0x1C08C 6 0
  let i := d.imgSlot
  if base < 8 || d.lakeRegions.any (fun r => overlap base 1 r.1 r.2) || i = 0 || i = 3 || i = d.pwr.slot || !hdr then d.fwRefuse 3
  else (d.setSlot i { d.slot i with magic := false }).updHealth (fun h => { h with op := 1, opImg := i, opBase := base, result := 1, pct := 0 })

/-- LOAD: accepted, or refused under R492. -/
def Dev.fwLoad (d : Dev) : Dev :=
  let i := d.imgSlot
  let x := d.slot i
  if i = 0 || i = 3 || i = d.pwr.slot || !x.magic || !(x.st == .new || x.st == .good) then d.fwRefuse 3
  else d.updHealth (fun h => { h with op := 2, opImg := i, result := 1, pct := 0, loaded := none })

/-- SWITCH: Efyon-S restarts in the other half, within the command (R492). -/
def Dev.fwSwitch (d : Dev) (ns : Word) : Dev :=
  match d.health.loaded with
  | none => d.fwRefuse 3
  | some i =>
    let d := (d.saveWear.coreStop).wb rstCause 6 true
    let d := d.updHealth (fun h => { h with half := 1 - h.half, loaded := none, result := 2, pct := 100 })
    let d := d.setSlot i { d.slot i with st := .trial }
    (d.startFw i).fwRec 1 ns

/-- A write of FW_CMD; `hdr` tells whether the header's CRC holds, `ns` the duration of a switch-over. -/
def Dev.fwCmd (d : Dev) (p : Path) (v : Word) (hdr : Bool) (ns : Word) : Dev :=
  match p with
  | .ctx _ => d.pathFault healthPage
  | _ =>
    if fld v 15 4 ≠ 0 ∨ 3 < fld v 3 0 ∨ (fld v 3 0 ≠ 0 ∧ fld v 31 16 ≠ 0x4B53) then d.invalid healthPage
    else if d.health.op ≠ 0 then d
    else match fld v 3 0 with
      | 1 => d.fwProgram hdr
      | 2 => d.fwLoad
      | 3 => d.fwSwitch ns
      | _ => d

/-- Programming ends with the image's bytes. -/
def Dev.fwProgrammed (d : Dev) (ok : Bool) (image : List Host.Cell) : Dev :=
  if d.health.op ≠ 1 then d
  else if !ok then d.fwRefuse 5
  else
    let i := d.health.opImg
    let other := d.slot (3 - i)
    (d.setSlot i { magic := true, seq := other.seq + 1, st := .new, crc := true, image := image }).updHealth
      (fun h => { h with op := 0, result := 2, pct := 100 })

/-- Loading ends; the caller copies the image into the standby half. -/
def Dev.fwLoaded (d : Dev) (ok : Bool) : Dev :=
  if d.health.op ≠ 2 then d
  else if !ok then d.fwRefuse 4
  else d.updHealth (fun h => { h with op := 0, result := 2, pct := 100, loaded := some h.opImg,
                                      load := some (h.opImg, 1 - h.half) })

end Sys2Proof.Machine
end

