-- ==== Sys2Proof/Machine/Bus.lean ====
section
/-! DEFINITION. Reads and writes of BAR0 by a path: the access codes, the common header, staging, the paths' limits and the
command registers of every page (R4–R6, R74–R79, R91, R101, R102, R109, R369, R515). -/

namespace Sys2Proof.Machine

/-- What follows a command in the same cycle. -/
def Dev.close (d : Dev) : Dev := d.fin.weirTell.vlNote.trySend

/-- A path can reach the registers: CK_SYS serves them, the host's link is up and its function is not in D3hot (R409,
R415), and Efyon-S runs firmware. -/
def Dev.pathOk (d : Dev) (p : Path) : Bool :=
  d.alive &&
    (match p with
     | .host => d.host.linkUp && !d.host.d3
     | .efyonS => d.esc.running
     | _ => true)

/-! ### Reads -/

/-- RC fields of an applied register clear with the read (R4). -/
def Dev.readClear (d : Dev) (a : Nat) : Dev :=
  if isStaged a || decide (0x510000 ≤ a) then d
  else
    let m := Field.mask .rc (fieldsAt a)
    if m = 0 then d else d.wr a (d.rd a &&& ~~~(w32 m))

/-- The address in CW_ADDR advances (R240). -/
def Dev.coefNext (d : Dev) (c : Nat) : Dev :=
  let r := rbcPage c + 0x40
  if d.rb r 31 then d.wf r 15 0 ((d.rf r 15 0 + 1) % 65536) else d

/-- The device as pages show it until firmware starts: every register at its reset value, but those that no reset reaches
(R409, R429). -/
def Dev.unstarted (d : Dev) : Dev := { regs := d.regs.filter (fun kv => keepReg true kv.1), pwr := d.pwr, cw := d.cw }

/-- A register of a page reads its reset value as firmware has not started; LTIME and the island's page read as ever (R55, R463;
DEDUCED, notes/assumptions/107). -/
def Dev.readsReset (d : Dev) (a : Nat) : Bool :=
  d.pwr.st == .starting && decide (a < 0x510000) && a != 0x2060 && a != 0x2064 && !decide (0x19000 ≤ a ∧ a < 0x1A000)

/-- A read of a register below the proxy window: its value and its side effects. -/
def Dev.regRead (d : Dev) (p : Path) (a : Nat) : Dev × Word :=
  let v := d.view p a
  let x := d.path p
  if d.readsReset a then (d, d.unstarted.view p a)
  else if a = 0x2060 then (d.setPath p { x with ltHi := some (hi32 d.now) }, v)
  else if a = 0x2064 then (d, x.ltHi.getD v)
  else if a = 0x3060 then (d.setPath p { x with phTurn := some d.phNow.2, phLt := d.now }, v)
  else if a = 0x3064 then (d, x.phTurn.getD 0x0C000000)
  else if a = 0x3068 then (d, lo32 x.phLt)
  else if a = 0x306C then (d, hi32 x.phLt)
  else if a = 0x19050 then (d.setPath p { x with aonHi := some (w32 (d.pwr.aonCnt.toNat / 2 ^ 32)) }, v)
  else if a = 0x19054 then (d, x.aonHi.getD v)
  else if a = 0x1907C then (d.tblNext, v)
  else if a = 0xC048 then (d.claimRead p false, if p = .efyonS then v else 0)
  else if a = 0xC050 then (d.claimRead p true, if p = .host then v else 0)
  else if a = 0x14040 then
    match d.fab.ocpen.fifo with
    | y :: rest => ((({ d with fab := { d.fab with ocpen := { d.fab.ocpen with fifo := rest } } } : Dev).setPath p
        { x with ocLast := w32 y.toNat }), v)
    | [] => (d, v)
  -- bytes 0x041 to 0x043 alone (R305)
  else if 0x14040 < a ∧ a < 0x14044 then (d, x.ocLast)
  else if 0x520000 ≤ a ∧ a < 0x524000 ∧ a % 16 = 0 then d.portRead p ((a - 0x520000) / 16)
  else if 0x100000 ≤ a ∧ a < 0x200000 ∧ (a % 0x10000 = 0x2044 ∨ a % 0x10000 = 0x2844) then
    (d.coefNext ((a - 0x100000) / 0x10000), v)
  else
    match slotOf a with
    | some (.timer t) =>
      -- the registers from +0x3C on exist in the applied slot only (R327)
      if isStaged a then (d, v)
      else match a - tmAt t with
      | 0x40 => (d.setPath p { x with countHi := SMap.put none x.countHi t (some (hi32 (d.tmShown t).count)) }, v)
      | 0x44 => (d, (SMap.get none x.countHi t).getD v)
      | 0x54 => (d.tmRelease t, v)
      | _ => (d.readClear a, v)
    | _ => (d.readClear a, v)

/-- A read by a path; through the proxy window the answer comes later, or 0 at once (R475, R476). -/
def Dev.busRead (d : Dev) (p : Path) (a : Nat) : Dev × Word :=
  let done := fun (r : Dev × Word) => (r.1.setPath p { r.1.path p with ans := r.2 }, r.2)
  if a < 0x2000000 then done (d.regRead p a)
  else if a < 0x4000000 && (p == .host || p == .efyonS) then
    let t := d.proxySel p
    if d.vl.addr = some t then done (d.regRead p (a - 0x2000000))
    else if d.proxyAssigned t then
      (d.updVl (fun v => { v with proxy := v.proxy.erase p.num ++ [p.num] }), (d.path p).ans)
    else done (d.fault linkPage 4, 0)
  else done (d, 0)

/-! ### Faults of a write -/

/-- A common fault of a write (R91, R515): 0 INVALID, 1 STAGED_LOCKED, 2 PATH. -/
def Dev.common (d : Dev) (a k : Nat) : Dev :=
  match slotOf a with
  | some (.float i) => d.flFault i (5 + k)
  | some (.queue _) => d.fault fabPage (31 - k)
  | some (.timer t) => d.fault (0xE000 + t / 16 * 0x1000) (31 - k)
  | some (.outlet _) => d.fault hostPage (31 - k)
  | _ => if isPage (a - a % 0x1000) then d.fault (a - a % 0x1000) (31 - k) else d

/-- The cause of a FAULT bit persists (R91). -/
def Dev.persists (d : Dev) (page b : Nat) : Bool :=
  if page = 0 then (b == 5 && d.pwr.st == .startFailed) || (b == 4 && !d.pwr.ilk) || (b == 3 && d.pwr.trip)
  else if page = 0x3000 then
    (b == 4 && (d.cps.enc0.lineA || d.cps.enc0.lineB || d.cps.enc0.lineZ)) ||
      (b == 4 && (d.cps.enc1.lineA || d.cps.enc1.lineB || d.cps.enc1.lineZ)) ||
      (b == 5 && (d.cps.enc0.zStuck || d.cps.enc1.zStuck)) || (b == 6 && d.cps.pulse.stuck)
  else if page = stovePage then
    (b == 4 && decide (d.baseDecl < d.stove.measBase)) || (b == 3 && decide (d.pTmax + 80 ≤ d.tp))
  else if page = 0xE000 then decide (b < 4) && (d.tin b).stuck
  else if page = 0x18000 then b == 6 && d.mgmt.stuck
  else if page = cwPage then b == 1 && (List.range 8).any (fun n => (d.sns n).stuck)
  else if page = linkPage then b == 7 && d.joinWaits
  else if page = fieldPage then b == 2 && d.vl.lost != []
  else if page = healthPage then (b == 4 && d.health.refMask != 0) || (b == 3 && d.calDue != 0)
  else if page = 0x1E000 then b == 2 && d.mon.lockout
  else if 0x100000 ≤ page ∧ page < 0x200000 ∧ page % 0x10000 = 0 then b == 28 && d.pwr.tripHot
  else if 0x200000 ≤ page ∧ page < 0x400000 then
    let x := d.ch ((page - 0x200000) / 0x1000)
    (b == 7 && x.flapBad) || (b == 8 && x.calBad)
  else false

/-- Units whose STATE a fault of a page, or an outlet's OL_STAT, may change. -/
def scUnits (page : Nat) : List Un :=
  match pageUnit page with
  | some u => if isMain page then (if u = .device then descendants u else u :: descendants u) else []
  | none => []

/-- Acknowledge bits of FAULT (R91). -/
def Dev.faultAck (d : Dev) (page : Nat) (v : Word) : Dev :=
  let cur := d.rd (page + 0xC)
  let clr := (List.range 32).foldl (fun (m : Word) b => if bit cur b && bit v b && !d.persists page b then setBit m b true else m) 0
  if clr = 0 then d
  else
    let f := fun (d : Dev) => d.wr (page + 0xC) (cur &&& ~~~clr)
    match pageUnit page with
    | some u => if isMain page && d.scFault u != (f d).scFault u then d.changeH (scUnits page) f else f d
    | none => f d

/-! ### Quarantine (R108, R109) -/

/-- A change of QUAR of a unit: its word changes under `f`, states follow, and GEN counts once in every page whose QUAR
changes (R93). -/
def Dev.quarWrite (d : Dev) (u : Un) (f : Dev → Dev) (reason : Bool) : Dev :=
  let below := descendants u
  let before := below.map (fun x => (x, d.quarInherited x))
  let snap := d.gens
  let self := d.quarSelf u
  let d := d.changeH (if u = .device then below else u :: below) f
  let us := (if reason || d.quarSelf u != self then [u] else []) ++ (before.filter (fun x => d.quarInherited x.1 != x.2)).map (·.1)
  forEach (us.flatMap unitPages) (fun p (d : Dev) =>
    { d with gens := SMap.put 0 d.gens p (SMap.get 0 snap p + 1) }) d

/-- A management write of QUAR of a main page. -/
def Dev.quarPage (d : Dev) (u : Un) (v : Word) : Dev :=
  let a := u.addr + 0x18
  let w := v &&& 0xFF01
  if d.rd a &&& 0xFF01 = w then d
  else d.quarWrite u (fun d => d.wr a w) (fld (d.rd a) 15 8 != fld w 15 8)

/-! ### Fields -/

/-- Write the fields of a register that a code lets a path write; whether some value was invalid (R6). -/
def writeFields (p : Path) (fs : List Field) (cur v : Word) : Word × Bool :=
  fs.foldl (fun (r : Word × Bool) f =>
    let x := fld v f.hi f.lo
    let plain := if f.ok x then (setFld r.1 f.hi f.lo x, r.2) else (r.1, true)
    match f.acc with
    | .rw => plain
    | .qm => if p = .mgmt then plain else r
    | .w1c => (r.1 &&& ~~~(v &&& w32 (maskOf f.hi f.lo)), r.2)
    | .w1s => (r.1 ||| (v &&& w32 (maskOf f.hi f.lo)), r.2)
    | _ => r) (cur, false)

/-- A write of an applied register without effects of its own. -/
def Dev.plainWrite (d : Dev) (p : Path) (a : Nat) (v : Word) : Dev :=
  let (w, bad) := writeFields p (fieldsAt a) (d.rd a) v
  let d := if w = d.rd a then d else d.wr a w
  if bad then d.common a 0 else d

/-- A write of the staged view of the applied register `b` (R74, R99, R101). -/
def Dev.stageWrite (d : Dev) (b : Nat) (v : Word) : Dev :=
  let fs := (fieldsAt b).filter (fun f => f.acc = .st)
  if fs = [] then d
  else if d.stageLocked b then d.common (b + 0x800) 1
  else
    let cur := d.rd (b + 0x800)
    let (w, bad) := fs.foldl (fun (r : Word × Bool) f =>
      let x := fld v f.hi f.lo
      if f.ok x then (setFld r.1 f.hi f.lo x, r.2) else (r.1, true)) (cur, false)
    let d := if w = cur then d else (d.wr (b + 0x800) w).restaged b
    if bad then d.common (b + 0x800) 0 else d

/-- A write of a unit's staged STATE (R80). -/
def Dev.stageState (d : Dev) (u : Un) (s : Nat) (a : Nat) : Dev :=
  if d.stageLocked u.addr then d.common a 1
  else if s = 0 ∨ 3 < s then d.common a 0
  else if (d.stagedState u).code = s then d
  else (d.setStagedState u (UState.ofCode s)).restaged u.addr

/-- STAGE_STAT (R79). -/
def Dev.stageStat (d : Dev) (page : Nat) (v : Word) : Dev :=
  let d := if bit v 2 && isMain page then d.wb (page + 0x808) 2 false else d
  if bit v 1 && hasSt page then
    if d.stageLocked page then d.common page 1 else d.revertPage page
  else d

/-- A write of CW_DATA in the staged view (R232, R240). -/
def Dev.coefWrite (d : Dev) (c : Nat) (v : Word) : Dev :=
  let i := d.rf (rbcPage c + 0x40) 15 0
  let d :=
    if coefReserved i then d
    else if d.stageLocked (rbcPage c) then d.common (rbcPage c) 1
    else
      let r := d.reed c
      let x : BitVec 20 := v.truncate 20
      if coefAt r.coefS i = x then d
      else (d.setReed c { r with coefS := SMap.put (factoryAt i) r.coefS i x }).restaged (rbcPage c)
  d.coefNext c

/-! ### Command registers -/

/-- CLK.RESET (R54, R69). -/
def Dev.resetWrite (d : Dev) (p : Path) (v : Word) : Dev :=
  match p with
  | .ctx _ => d.pathFault clkPage
  | _ =>
    if fld v 31 16 ≠ 0x4B53 then d.invalid clkPage
    else match fld v 3 0 with
      | 1 => d.deviceReset
      | 2 => d.coreReset
      | 3 => d.campReset (fld v 11 8)
      | _ => d.invalid clkPage

/-- CLK.PWR_REQ (R62, R66). A value that the field does not list is no request: REFUSED and DRAIN_TIMEOUT stay as they are (R65;
DESIGN CHOICE, notes/assumptions/84). -/
def Dev.pwrReqWrite (d : Dev) (p : Path) (v : Word) : Dev :=
  match p with
  | .ctx _ => d.pathFault clkPage
  | _ =>
    let t := fld v 2 0
    if t = 0 ∨ t = 2 ∨ t = 3 ∨ t = 5 then d.pwrRequest p t else d.invalid clkPage

/-- The PITCH page's controllers (R111, R112). -/
def Dev.pitchWrite (d : Dev) (p : Path) (a : Nat) (v : Word) : Dev :=
  let k := (a - 0x1100) / 0x20
  match a % 0x20 with
  | 0x0 =>
    match fld v 3 0 with
    | 0 => d
    | 1 => d.pitchStart k false
    | 2 => d.pitchStart k true
    | 3 => d.pitchDisarm k
    | 4 => d.pitchDiscard k
    | _ => d.invalid 0x1000
  | _ => if (d.ctl k).ps.locks then d else d.plainWrite p a v

/-- TM_CMD, which acts in every state except OFF (R317, R327). -/
def Dev.tmCmd (d : Dev) (t : Nat) (v : Word) : Dev :=
  if d.ust (.timer t) == .off then d
  else match fld v 2 0 with
    | 0 => d
    | 1 => d.tmStart t
    | 2 => d.tmStop t
    | 3 => d.tmLoad t
    | 4 => d.tmCapture t d.now 0 0
    | 5 => d.tmRelease t
    | _ => d.common (tmAt t) 0

/-- FL_CMD (R243, R260). -/
def Dev.flCmd (d : Dev) (i : Nat) (v : Word) : Dev :=
  match fld v 1 0 with
  | 0 => d
  | 1 => d.flFresh i
  | 2 => d.updFl i (fun x => { x with count := 0, cntOvl := false })
  | _ => d.flFault i 5

/-- OL_STAT bits 19–16 (R427): a state-changing bit that clears may return the outlet to PARKED. -/
def Dev.olStatWrite (d : Dev) (o : Nat) (v : Word) : Dev :=
  let a := olAt o + 0x48
  let w := d.rd a &&& ~~~(v &&& 0xF0000)
  if w = d.rd a then d
  else
    let f := fun (d : Dev) => d.wr a w
    if d.scFault (.outlet o) != (f d).scFault (.outlet o) then d.changeH [.outlet o] f else f d

/-- OL_CMD (R418, R425, R427). -/
def Dev.olCmd (d : Dev) (o : Nat) (v : Word) : Dev :=
  match fld v 1 0 with
  | 0 => d
  | 1 => if d.ust (.outlet o) == .run then d.olClose o true else d
  | _ => d.common (olAt o) 0

/-- TAIL of an outlet (R417). -/
def Dev.olTailWrite (d : Dev) (o : Nat) (v : Word) : Dev :=
  match d.olTail o (BitVec.ofNat 16 (fld v 15 0)) with
  | (d, some b) => d.olFault o b
  | (d, none) => d

/-- Command registers of the slots: none where the offset is another register. -/
def Dev.slotCmd (d : Dev) (a : Nat) (v : Word) : Option Dev :=
  match slotOf a with
  | some (.timer t) => if a - tmAt t = 0x3C then some (d.tmCmd t v) else none
  | some (.float i) => if a - flAt i = 0x74 then some (d.flCmd i v) else none
  | some (.outlet o) =>
    match a - olAt o with
    | 0x40 => some (d.olTailWrite o v)
    | 0x48 => some (d.olStatWrite o v)
    | 0x50 => some (d.olCmd o v)
    | _ => none
  | _ => none

/-- A context's page beside its ST fields (R387, R388). -/
def Dev.ctxWrite (d : Dev) (x o : Nat) (v : Word) : Dev :=
  let page := ctxPage x
  let st := d.ust (.ctx x)
  let c := d.ctx x
  if o = 0x4C then
    match fld v 1 0 with
    | 0 => d
    | 1 => d.ctxRelease x
    | 2 => if st == .parked then { d with steps := d.steps ++ [x] } else d
    | _ => d.invalid page
  else if o = 0x50 then
    if st == .parked then d.setCtx x { c with pc := w32 (fld v 15 0) } else d.invalid page
  else if 0x100 ≤ o ∧ o < 0x248 then
    if !(st == .parked || st == .fault) then d.invalid page
    else if o < 0x180 then d.setCtx x (c.setD ((o - 0x100) / 4) v)
    else if o < 0x200 then d.setCtx x (c.setX ((o - 0x180) / 4) v)
    else if o < 0x240 then
      let n := (o - 0x200) / 0x10
      let put := fun (lo w : Nat) (y : Nat) =>
        let old := (c.ar n).toNat
        d.setCtx x (c.setA n (BitVec.ofNat 72 (old - old / 2 ^ lo % 2 ^ w * 2 ^ lo + y % 2 ^ w * 2 ^ lo)))
      match o % 0x10 with
      | 0x0 => put 0 32 v.toNat
      | 0x4 => put 32 32 v.toNat
      | 0x8 => put 64 8 v.toNat
      | _ => d
    else if o = 0x240 then d.setCtx x { c with lc := v }
    else d.setCtx x { c with flags := v.truncate 6 }
  else d

/-- The Ocpen window's TAIL (R304). -/
def Dev.ocTail (d : Dev) (v : Word) : Dev :=
  let y : BitVec 16 := v.truncate 16
  if d.ocEn then d.ocPut (if y = 0x8000 then 0x8001 else y) else d

/-- FAB.QCMD (R310). -/
def Dev.qcmd (d : Dev) (v : Word) : Dev :=
  match fld v 3 0 with
  | 0 => d
  | 1 => d.flush (fld v 25 16)
  | 2 => d.clearQueue (fld v 25 16)
  | _ => d.invalid fabPage

/-- CMD of COMPASS (R180) and of WEIR (R215). -/
def Dev.compassCmd (d : Dev) (v : Word) : Dev :=
  match fld v 3 0 with
  | 0 => d
  | 1 => d.clearErrors
  | 2 => d.turnsZero
  | _ => d.invalid cpsPage

def Dev.weirCmd (d : Dev) (v : Word) : Dev :=
  match fld v 3 0 with
  | 0 => d
  | 1 => d.weirTrigger (d.rf 0x1A04C 2 0)
  | 2 => d.weirAbort 1
  | _ => d.invalid weirPage

/-- FD_CMD (R479, R482). -/
def Dev.fieldCmd (d : Dev) (v : Word) : Dev :=
  match fld v 3 0 with
  | 0 => d
  | 1 => d.fieldTrigger (fld v 15 8)
  | 2 => if fld v 31 16 = 0x4B53 then d.fieldReset else d.invalid fieldPage
  | _ => d.invalid fieldPage

/-- ST_CMD (R490, R500). -/
def Dev.stCmd (d : Dev) (v : Word) : Dev :=
  match fld v 1 0 with
  | 0 => d
  | 1 => d.refStart
  | _ => d.invalid healthPage

/-- WDOG_KICK (R383). -/
def Dev.wdogKick (d : Dev) (p : Path) (v : Word) : Dev :=
  if p ≠ .efyonS then d.pathFault escPage
  else if fld v 15 0 = 0x5744 then (d.wdogStart (d.rf 0x1D044 15 0)).fwConfirm
  else d.invalid escPage

/-- ATN_RAISE (R440, R443). -/
def Dev.atnRaise (d : Dev) (p : Path) (v : Word) : Dev :=
  match p with
  | .mgmt | .ctx _ => d.pathFault 0x18000
  | _ => if bit v 0 then d.atn 5 else d

/-- DBG_KEY (R506): a challenge's secret, written by the management path alone. -/
def Dev.dbgKey (d : Dev) (p : Path) (hi : Bool) (v : Word) : Dev :=
  if p ≠ .mgmt then d.pathFault 0x1E000
  else
    let k := d.mon.key.toNat
    { d with mon := { d.mon with
        key := if hi then BitVec.ofNat 64 (v.toNat * 2 ^ 32 + k % 2 ^ 32) else BitVec.ofNat 64 (k / 2 ^ 32 * 2 ^ 32 + v.toNat) } }

/-- Command registers of the device pages: none where the offset is another register. -/
def Dev.deviceCmd (d : Dev) (p : Path) (a : Nat) (v : Word) : Option Dev :=
  if 0x1100 ≤ a ∧ a < 0x1320 then some (d.pitchWrite p a v)
  else if 0xC100 ≤ a ∧ a < 0xC180 then some (d.bitmapWrite .pend ((a - 0xC100) / 4) v)
  else if 0xC180 ≤ a ∧ a < 0xC200 then some (d.bitmapWrite .enS ((a - 0xC180) / 4) v)
  else if 0xC200 ≤ a ∧ a < 0xC280 then some (d.bitmapWrite .enH ((a - 0xC200) / 4) v)
  else if 0xC380 ≤ a ∧ a < 0xC400 then some (d.bitmapWrite .stormed ((a - 0xC380) / 4) v)
  else if 0xD040 ≤ a ∧ a < 0xD0C0 then some ((d.wr a v).sampleGroup ((a - 0xD040) / 4))
  else if 0x19040 ≤ a ∧ a < 0x19800 then
    some (if a = 0x19048 || a = 0x1907C || Field.mask .rw (fieldsAt a) != 0 then d.cwPost (a - 0x19000) v else d)
  else match a with
    | 0x2044 => some (d.pwrReqWrite p v)
    | 0x2050 => some (d.resetWrite p v)
    | 0x3074 => some (d.compassCmd v)
    | 0xA080 => some (d.weirCmd v)
    | 0xC040 => some (d.doorbell v)
    | 0xC044 => some (d.srcCmd v)
    | 0xC04C => some (d.complete p false v)
    | 0xC054 => some (d.complete p true v)
    | 0x10060 => some (d.qcmd v)
    | 0x14044 => some (d.ocTail v)
    | 0x1804C => some { d with mgmt := { d.mgmt with atnPend := d.mgmt.atnPend &&& ~~~(v.truncate 6) } }
    | 0x1805C => some (d.atnRaise p v)
    | 0x1A040 => some (d.plainWrite p a v).vlCtl
    | 0x1B040 => some ((d.plainWrite p a v).fieldSel p (fld v 17 0))
    | 0x1B044 => some (d.fieldCmd v)
    | 0x1C084 => some (d.stCmd v)
    | 0x1C088 => some (d.fwCmd p v (Config.headerOk (d.rd 0x1C08C).toNat d.now.toNat) (Config.restartNs d.now.toNat))
    | 0x1D048 => some (d.wdogKick p v)
    | 0x1E044 => some (d.dbgKey p false v)
    | 0x1E048 => some (d.dbgKey p true v)
    | _ => none

/-- Command registers of the camp and channel pages. -/
def Dev.campCmd (d : Dev) (a : Nat) (v : Word) : Option Dev :=
  let o := a % 0x1000
  if a < 0x200000 then
    let c := (a - 0x100000) / 0x10000
    let k := a / 0x1000 % 16
    if 6 ≤ k && (o == 0x4C || o == 0x50 || decide (0x100 ≤ o ∧ o < 0x800)) then some (d.ctxWrite (10 * c + k - 6) o v) else none
  else if a < 0x400000 ∧ o = 0xA8 then some (d.calStart ((a - 0x200000) / 0x1000) (fld v 1 0))
  else none

/-- Any command register. -/
def Dev.regCmd (d : Dev) (p : Path) (a : Nat) (v : Word) : Option Dev :=
  match slotOf a with
  | some _ => d.slotCmd a v
  | none => if a < 0x100000 then d.deviceCmd p a v else if a < 0x400000 then d.campCmd a v else none

/-! ### What a sequencer may write (R54, R102, R369) -/

/-- A command register that a sequencer's own scope can hold. -/
def scopeCmd (a : Nat) : Bool :=
  match slotOf a with
  | some (.float i) => a - flAt i == 0x74
  | some _ => false
  | none =>
    let o := a % 0x1000
    (decide (0x200000 ≤ a ∧ a < 0x400000) && o == 0xA8) ||
      (decide (0x100000 ≤ a ∧ a < 0x200000) && decide (6 ≤ a / 0x1000 % 16) &&
        (o == 0x4C || o == 0x50 || decide (0x100 ≤ o ∧ o < 0x248)))

/-- The register has a field that R369 lets a sequencer write. -/
def seqField (a : Nat) : Bool :=
  let o := a % 0x1000
  let fs := fieldsAt a
  (Field.mask .rw fs ||| Field.mask .w1c fs ||| Field.mask .w1s fs) != 0 || scopeCmd a ||
    (match slotOf a with
     | some u => a == u.addr
     | none => o == 0xC || o == 0x10)

/-- A context's write is refused: whether, and whether it sets FAULT.PATH. QUAR ignores it in silence (R109). -/
def seqRefused (x : Ctx) (a : Nat) : Bool × Bool :=
  let k := 1 + x.val / 10
  if 0x1100 + 0x20 * k ≤ a ∧ a < 0x1120 + 0x20 * k then (false, false)
  else if 0x510000 ≤ a ∧ a < 0x524000 then (false, false)
  else if (slotOf a).isNone && a % 0x1000 == 0x18 then (true, false)
  else if inScope k (unstaged a) && decide (a < 0x510000) then
    if isStaged a || seqField a then (false, false) else (true, true)
  else (true, true)

/-! ### Writes -/

/-- A write into a slot's first word (R77). -/
def Dev.slotHdrWrite (d : Dev) (p : Path) (u : Un) (a : Nat) (v : Word) : Dev :=
  if isStaged a then d.stageState u (fld v 26 24) a
  else
    let d := if bit v 29 then d.wb u.addr 29 false else d
    if p = .mgmt ∧ bit v 31 ≠ d.quarSelf u then d.quarWrite u (fun d => d.wb u.addr 31 (bit v 31)) false else d

/-- A write of a header register of a page (R75–R80, R91, R92, R108). -/
def Dev.headerWrite (d : Dev) (p : Path) (page o : Nat) (v : Word) : Dev :=
  match o with
  -- the island's own registers lie beyond the crossing (R446)
  | 0x0C => if page = cwPage then d.cwPost 0xC v else d.faultAck page v
  | 0x10 => if page = cwPage then d.cwPost 0x10 v else d.wr (page + 0x10) (v &&& 0xF1FFFFFF)
  | 0x18 =>
    match pageUnit page with
    | some u => if p = .mgmt ∧ isMain page then d.quarPage u v else d
    | none => d
  | 0x804 =>
    match pageUnit page with
    | some .device => if page = 0 then d.common 0 0 else d
    | some u => if isMain page then d.stageState u (fld v 2 0) (page + 0x804) else d
    | none => if page = fieldPage then d.common page 0 else d
  | 0x808 => d.stageStat page v
  | _ => d

/-- Producer and consumer ports (R308, R309). -/
def Dev.portWrite (d : Dev) (p : Path) (a : Nat) (v : Word) : Dev :=
  if a < 0x514000 then
    let q := (a - 0x510000) / 16
    match a % 16 with
    | 0x0 => d.pushItem p q v false
    | 0x4 => d.pushItem p q v true
    | 0x8 =>
      match fld v 1 0 with
      | 0 => d
      | 1 => d.pcmdAbort p q
      | 2 => d.pcmdLastb p q (fld v 5 4)
      | _ => d.qErr q 17
    | _ => d
  else
    let q := (a - 0x520000) / 16
    if a % 16 = 12 then
      match fld v 1 0 with
      | 0 => d
      | 1 => d.drop q
      | _ => d.qErr q 17
    else d

/-- A write into a codeword replaces what was wrong in it (R483). -/
def Dev.memWrite (d : Dev) (a : Nat) (v : Word) : Dev := ({ d with ue := d.ue.erase (a / 8) } : Dev).wr a v

/-- Word of a Weir reference bank as it is stored (R201). -/
def refWord (o : Nat) (v : Word) : Option Word :=
  if o < 0x4000 then some (v &&& 0x8000FFFF)
  else if o < 0xC000 then some (if o % 8 = 0 then v &&& 0xF0FFFFFF else v)
  else none

/-- A write of a register below the proxy window, allowed to the path. -/
def Dev.regWrite (d : Dev) (p : Path) (a : Nat) (v : Word) : Dev :=
  let o := a % 0x1000
  let page := a - o
  if 0x510000 ≤ a then
    if a < 0x514000 ∨ (0x520000 ≤ a ∧ a < 0x524000) then d.portWrite p a v
    else if 0x800000 ≤ a ∧ a < 0xC00000 then (if a % 0x40000 < 0x30000 then d.memWrite a v else d)
    else if 0x1300000 ≤ a ∧ a < 0x1320000 then
      let busy := match d.weir.run with
        | some w => d.weirBusy && w.cfg.bank == a / 0x10000 * 0x10000
        | none => false
      if busy then d.fault weirPage 5
      else match refWord (a % 0x10000) v with
        | some w => d.memWrite a w
        | none => d
    else d
  else match slotOf a with
    | some u =>
      let s := unstaged a - u.addr
      if s = 0 then d.slotHdrWrite p u a v
      else if s = 4 then d
      else if isStaged a then d.stageWrite (a - 0x800) v
      else (d.slotCmd a v).getD (d.plainWrite p a v)
    | none =>
      if a / 0x1000 = 0x16 then (if o < 0x10 then d.plainWrite p a v else d)
      else if !isPage page then d
      else if o < 0x40 ∨ (0x800 ≤ o ∧ o < 0x840) then d.headerWrite p page o v
      else if 0x800 ≤ o then
        if 0x100000 ≤ a ∧ a < 0x200000 ∧ a % 0x10000 = 0x2844 then d.coefWrite ((a - 0x100000) / 0x10000) v
        else d.stageWrite (a - 0x800) v
      else (d.regCmd p a v).getD (d.plainWrite p a v)

/-- A 32-bit write by a path below the proxy window, with the limits of a sequencer. -/
def Dev.localWrite (d : Dev) (p : Path) (a : Nat) (v : Word) : Dev :=
  match p with
  | .ctx x =>
    match seqRefused x a with
    | (false, _) => d.regWrite p a v
    | (true, fault) =>
      let d := if fault then d.common a 2 else d
      if 0x1100 ≤ a ∧ a < 0x1320 then d.pathFault 0x1000 else d
  | _ => d.regWrite p a v

/-- A 32-bit write by a path; through the proxy window it acts at the selected device (R475, R476). -/
def Dev.busWrite (d : Dev) (p : Path) (a : Nat) (v : Word) : Dev :=
  if a < 0x2000000 then d.localWrite p a v
  else if a < 0x4000000 && (p == .host || p == .efyonS) then
    let t := d.proxySel p
    if d.vl.addr = some t then d.localWrite p (a - 0x2000000) v
    else if d.proxyAssigned t then d
    else d.fault linkPage 4
  else d

end Sys2Proof.Machine
end

