-- ==== Sys2Proof/Machine/Memory.lean ====
section
/-! DEFINITION. Lakebed as bytes (R280, R281, R411): a list of address and byte pairs with rising addresses, in which an
unlisted byte reads 0 (R57: Lakebed initialises at a start-up; DESIGN CHOICE, notes/assumptions/2). -/

namespace Sys2Proof.Machine

/-- Bytes of Lakebed: 4 GiB (R281). -/
def lakebedSize : Nat := 0x100000000

/-- What an unlisted byte reads as. -/
def memDefault : Byte := 0

/-- The canonical form: addresses strictly rise, and no entry holds what an unlisted byte reads as. -/
def Memory.wf (m : List Host.Cell) : Bool := SMap.wf (fun _ => memDefault) m

/-- Read one byte. -/
def Memory.byte (m : List Host.Cell) (a : Nat) : Byte := SMap.get memDefault m a

/-- Write one byte. -/
def Memory.put (m : List Host.Cell) (a : Nat) (b : Byte) : List Host.Cell := SMap.put memDefault m a b

/-- Write bytes at rising addresses. -/
def Memory.puts : List Byte → Nat → List Host.Cell → List Host.Cell
  | [], _, m => m
  | b :: bs, a, m => Memory.puts bs (a + 1) (Memory.put m a b)

/-- The little-endian value of n bytes (R3). -/
def Memory.value (m : List Host.Cell) (a : Nat) : Nat → Nat
  | 0 => 0
  | n + 1 => (Memory.byte m a).toNat + 256 * Memory.value m (a + 1) n

/-- The n low bytes of a number, least significant first. -/
def bytesLE : Nat → Nat → List Byte
  | 0, _ => []
  | n + 1, v => BitVec.ofNat 8 v :: bytesLE n (v / 256)

/-- A 32-bit word. -/
def Memory.word (m : List Host.Cell) (a : Nat) : Word := w32 (Memory.value m a 4)
def Memory.putWord (m : List Host.Cell) (a : Nat) (v : Word) : List Host.Cell := Memory.puts (bytesLE 4 v.toNat) a m

/-- Words at rising addresses. -/
def Memory.putWords : List (Nat × Word) → List Host.Cell → List Host.Cell
  | [], m => m
  | (a, v) :: l, m => Memory.putWords l (Memory.putWord m a v)

/-- The cells of an image below `n`, from address `a` on. -/
def Memory.putImage (a n : Nat) : List Host.Cell → List Host.Cell → List Host.Cell
  | [], m => m
  | (o, b) :: l, m => Memory.putImage a n l (if o < n then Memory.put m (a + o) b else m)

/-- Replace `n` bytes from `a` on by an image. -/
def Memory.load (m : List Host.Cell) (a n : Nat) (image : List Host.Cell) : List Host.Cell :=
  Memory.putImage a n image (m.filter (fun c => decide (c.1 < a ∨ a + n ≤ c.1)))

end Sys2Proof.Machine
end

