-- ==== Sys2Proof/Machine/Act.lean ====
section
/-! DEFINITION. How a command acts on the whole state: on everything but Lakebed, then the end of the command, then a load
of a firmware image that it called for. -/

namespace Sys2Proof.Machine

/-- Bytes of an image (R59), and of a half of the firmware region (R281; DEDUCED). -/
def imageSize : Nat := 28 * 2 ^ 20
def halfSize : Nat := 2 ^ 27

/-- A start-up that the command began fills Lakebed with zeros, and a firmware image that it called for goes to its half of the
firmware region (R57, R492). -/
def State.loads (s : State) : State :=
  let s : State := if s.dev.pwr.fill then
      { s with mem := [], dev := { s.dev with pwr := { s.dev.pwr with fill := false } } }
    else s
  match s.dev.health.load with
  | none => s
  | some (i, half) =>
    { s with mem := Memory.load s.mem (half * halfSize) imageSize (s.dev.slot i).image
             dev := s.dev.updHealth (fun h => { h with load := none }) }

/-- The end of a command that began on device `o`: what follows it in the same cycle, in which GEN moves once (R93). -/
def Dev.closeFrom (o d : Dev) : Dev :=
  let d := d.close
  { d with gens := gensOnce o.gens d.gens }

/-- A command acts on the device. -/
def State.act (s : State) (f : Dev → Dev) : State := State.loads { s with dev := s.dev.closeFrom (f s.dev) }

/-- The device without Lakebed's contents: a reset of everything outside VAON (R51, R57). -/
def State.actWiped (s : State) (f : Dev → Dev) : State := State.loads { s with mem := [], dev := s.dev.closeFrom (f s.dev) }

/-- A command that a path brings: it acts while the path reaches the registers. -/
def State.viaPath (s : State) (p : Path) (f : Dev → Dev) : State := if s.dev.pathOk p then s.act f else s

/-- A path writes a register. -/
def State.write (s : State) (p : Path) (a : Nat) (v : Word) : State := s.viaPath p (fun d => d.busWrite p a v)

/-- A path reads a register. -/
def State.read (s : State) (p : Path) (a : Nat) : State := s.viaPath p (fun d => (d.busRead p a).1)

/-- An event that needs CK_SYS and power outside VAON. -/
def State.live (s : State) (f : Dev → Dev) : State := if s.dev.alive then s.act f else s

end Sys2Proof.Machine
end

