-- ==== Sys2Proof/Machine/Reedbed.lean ====
section
/-! DEFINITION. Meanings of the Reedbed family (R221–R241). -/

namespace Sys2Proof.Machine

/-- A write or a read by a path. -/
def State.access (s : State) (p : Path) (a : Nat) (write : Option Word) : State :=
  match write with
  | some v => s.write p a v
  | none => s.read p a

/-- The calibrated word of T = `t` (a multiple of 1,000 ns) arrives for a stream, whose ball instant lies 15.625 ns behind for each
stream below it (R20, R116, R133, R218, R220). -/
def Dev.wordIn (d : Dev) (c k : Nat) (t : Time) (w : Word) : Dev :=
  let n := streamChan c k
  if !(d.ust (.chan n)).biased then d
  else
    let d := d.cmpWord n (k % 2 == 0) w (t + BitVec.ofNat 64 (125 * k / 8))
    if !d.rbOn c || !(d.ust (.chan n)).biased then d
    else
      let d := if (d.strm c k).recv then d else (d.restart c k).updStrm c k (fun x => { x with recv := true })
      if !(d.rbCfg c k).en then d
      else
        let v := (satWord w).toInt
        d.streamWord c k (t.toNat / 1000) ⟨v, decide (8388607 ≤ v ∨ v ≤ -8388608)⟩

/-- Successive words from T = `t` on. -/
def Dev.wordsIn (c k : Nat) : Time → List Word → Dev → Dev
  | _, [], d => d
  | t, w :: ws, d => Dev.wordsIn c k (t + 1000) ws (d.wordIn c k t w)

def execStreamOutput (c : Camp) (k : Stream) (t : Time) (words : List Word) (s : State) : Host.Outcome State Fault Refusal :=
  .next (s.live (Dev.wordsIn c.val k.val t words))

def execPhaseGridRelease (c : Camp) (k : Stream) (s : State) : Host.Outcome State Fault Refusal :=
  .next (s.live (fun d => d.releaseGrid c.val k.val))

/-- The copy of R232 completes, and a Reedbed that its pitch starts starts (R232). -/
def Dev.coefDone (d : Dev) (c : Nat) : Dev :=
  if (d.reed c).loading then (d.setReed c { d.reed c with loading := false }).startReed c else d

def execCoefCopyDone (c : Camp) (s : State) : Host.Outcome State Fault Refusal := .next (s.live (fun d => d.coefDone c.val))

def execCwDataAccess (p : Path) (c : Camp) (staged : Bool) (write : Option Word) (s : State) :
    Host.Outcome State Fault Refusal :=
  .next (s.access p (rbcPage c.val + (if staged then 0x844 else 0x44)) write)

end Sys2Proof.Machine
end

