-- ==== Sys2Proof/Machine/Campwatch.lean ====
section
/-! DEFINITION. Meanings of the Campwatch family (R444–R463): they act while VAON is present. -/

namespace Sys2Proof.Machine

/-- An event of the island. -/
def State.island (s : State) (f : Dev → Dev) : State := if s.dev.pwr.st == .off then s else s.act f

/-! ### Writes in flight (R446) -/

/-- A write of a CW register takes effect. -/
def Dev.cwWrite (d : Dev) (o : Nat) (v : Word) : Dev :=
  if o = 0x48 then
    match fld v 1 0 with
    | 1 => d.setCw { d.cw with wakeDrv := false, wakeCause := 0 }
    | 2 => forEach d.cw.batch (fun e (d : Dev) => d.cwDiscard e) d |> fun d => d.setCw { d.cw with batch := [] }
    | 0 => d
    | _ => d.cwFault 31
  else if o = 0xC then d.faultAck cwPage v
  else if o = 0x10 then d.wr (cwPage + 0x10) (v &&& 0xF1FFFFFF)
  else if o = 0x7C then (d.tblWrite (d.rf (cwPage + 0x78) 10 0) v).tblNext
  else
    let fs := fieldsAt (cwPage + o)
    let old := d
    -- each writable field takes its bits; a value that a field does not list is kept out (R5, R6)
    let d := fs.foldl (fun (d : Dev) f =>
      let x := fld v f.hi f.lo
      if f.acc = .rw then
        (if f.ok x then d.wf (cwPage + o) f.hi f.lo x else d.cwFault 31)
      else d) d
    if 0x80 ≤ o ∧ o < 0xA0 then
      -- CHANGES counts from the rise of EN (R459)
      let n := (o - 0x80) / 4
      if !bit v 7 then d.setSns n {} else if old.rb (cwPage + o) 7 then d else d.wf (cwPage + 0xA0 + 4 * n) 15 0 0
    else if 0xC0 ≤ o ∧ o < 0xD0 then
      -- a write that would raise POLL_LOAD above its limit is ignored (R460)
      if 12500 < d.pollLoad ∧ old.pollLoad < d.pollLoad then old.cwFault 6
      else if d.rb (cwPage + o) 31 then d
      else d.setCw { d.cw with due := d.cw.due.filter (fun e => e / 64 != (o - 0xC0) / 4) }
    else d

/-- The island carries out up to four writes at an edge, after what falls due at it (R446, R461). -/
def Dev.cwApply (d : Dev) : Dev :=
  let d := d.cwEdge
  let now := d.cw.writes.take 4
  let d := d.setCw { d.cw with writes := d.cw.writes.drop 4 }
  now.foldl (fun (d : Dev) w => d.cwWrite w.1 w.2) d

/-- WAKE_HOLD has passed (R458). -/
def Dev.wakeHoldEnd (d : Dev) : Dev := if d.cw.wakeDrv && d.rf 0x1904C 15 0 != 0 then d.releaseWake else d

def execCwWriteApply (s : State) : Host.Outcome State Fault Refusal := .next (s.island Dev.cwApply)

def execSenseChange (n : Fin 8) (level : Bool) (a : BitVec 48) (s : State) : Host.Outcome State Fault Refusal :=
  .next (s.island (fun d => d.senseChange n.val level a))

def execSenseStuck (n : Fin 8) (s : State) : Host.Outcome State Fault Refusal := .next (s.island (fun d => d.senseStuck n.val))

def execPollDue (e : Fin 256) (s : State) : Host.Outcome State Fault Refusal := .next (s.island (fun d => d.pollDue e.val))

def execPollTransferDone (bytes : List Byte) (s : State) : Host.Outcome State Fault Refusal :=
  .next (s.island (fun d => d.pollDone bytes))

def execDrainRecord (s : State) : Host.Outcome State Fault Refusal := .next (s.live Dev.drainRecord)

def execReleaseWake (p : Path) (s : State) : Host.Outcome State Fault Refusal := .next (s.write p 0x19048 1)

def execEmptyBatch (p : Path) (s : State) : Host.Outcome State Fault Refusal := .next (s.write p 0x19048 2)

def execWakeHoldExpiry (s : State) : Host.Outcome State Fault Refusal := .next (s.island Dev.wakeHoldEnd)

def execTblDataAccess (p : Path) (write : Option Word) (s : State) : Host.Outcome State Fault Refusal :=
  .next (s.access p 0x1907C write)

def execAonLoRead (p : Path) (s : State) : Host.Outcome State Fault Refusal := .next (s.read p 0x19050)

end Sys2Proof.Machine
end

