-- ==== Sys2Proof/Machine/ChannelEvents.lean ====
section
/-! DEFINITION. Channel events: flaps, ramps, comparators, protection, compliance and apertures (R125–R146, R208). -/

namespace Sys2Proof.Machine

/-! ### Flaps and ramps (R128–R131, R137, R268) -/

/-- The contact of a closing flap has settled. -/
def Dev.flapSettled (d : Dev) (n : Nat) (f : Flap) (iNa vUv : Nat) : Dev :=
  if ((d.ch n).flap f).ph != .closing then d else (d.flapOp n f 0 iNa vUv .closed).tryForce n

/-- Remove the drive of flaps: they open softly (step 3 of R129). -/
def ChanDyn.dropFlaps (x : ChanDyn) (f s : Bool) : ChanDyn :=
  let one := fun (b : Bool) (k : Flap) (x : ChanDyn) =>
    if b && (x.flap k).shut then x.setFlap k { x.flap k with ph := .opening, hard := false } else x
  one s .sense (one f .force x)

/-- The force has reached zero current and the amplifier holds SENSE (step 2 of R129). The task of a channel out of RUN ends; in RUN
so does the one by which it ran before it left RUN or raised its declaration, where the new request waits (R261, R268). -/
def Dev.rampDone (d : Dev) (n : Nat) : Dev :=
  let x := d.ch n
  let runs := d.ust (.chan n) == .run && !d.pwr.campWait.contains (n / 32) && x.ramp != .toHeld
  let off := { x with ampOn := false, ramp := .none, relDue := false }
  if x.ramp == .none then d
  else
    let d := d.setCh n (off.dropFlaps (x.ramp.opens .force) (x.ramp.opens .sense))
    if !runs then d.release 1 n
    else (if x.relDue || (d.taskOf 1 n false).isSome then d.releaseAdm 1 n else d).startClose n

/-- An opened flap is isolated; a flap that its channel selects closes again. -/
def Dev.flapIsolated (d : Dev) (n : Nat) (f : Flap) (iNa vUv : Nat) : Dev :=
  let y := (d.ch n).flap f
  if y.ph != .opening then d
  else (d.flapOp n f (if y.hard then 2 else 1) iNa vUv .opened).startClose n

/-- A word that enters HIGH or LOW of a comparator (R133). -/
def Dev.cmpEntry (d : Dev) (n which : Nat) (w : Word) (t : Time) : Dev := d.cmpWord n (decide (which < 2)) w t

/-! ### Protection (R125, R135) -/

def Dev.protectRec (d : Dev) (n cause : Nat) (v i : Word) (t : Time) : Dev :=
  d.chanRec n 0x42 (ovlFlag [satWord v, satWord i]) t (w32 cause) (satWord v) (satWord i)

def Dev.overvoltage (d : Dev) (n : Nat) (f : Flap) (v i : Word) (t : Time) : Dev :=
  let x := d.ch n
  if x.fF.ph != .closed && x.fS.ph != .closed then d
  else
    let d := ((d.words n v i t).hardOpen n).chanFault n 6
    d.protectRec n (match f with | .force => 1 | .sense => 2) v i t

def Dev.senseLoss (d : Dev) (n : Nat) (v i : Word) (t : Time) : Dev :=
  let d := d.words n v i t
  let x := d.ch n
  if d.ust (.chan n) == .run && d.chWire n && x.fF.ph == .closed && x.fS.ph == .closed && x.ampOn && d.chMode n != 0 &&
      !x.localSense then
    ((d.updCh n (fun x => { x with localSense := true })).fault (chanPage n) 3).protectRec n 3 v i t
  else d

/-! ### Compliance (R134) -/

/-- The force limits the output: STATUS.COMPLY reads 1 from the first limited word on, and `held` says that it has done so for
COMP.TIME, which brings the entry record (R134). -/
def Dev.complyEntry (d : Dev) (n : Nat) (held : Bool) (v i : Word) (t : Time) : Dev :=
  let d := d.words n v i t
  if d.ust (.chan n) != .run then d
  else
    let d := d.updCh n (fun x => { x with comply := true })
    if !held || d.rf (chanPage n + 0x4C) 23 0 == 0 || (d.ch n).complyRec then d
    else
      let stop := d.rf (chanPage n + 0x4C) 25 24 == 1
      let d := d.updCh n (fun x => { x with complyRec := true })
      let d := d.chanRec n 0x41 (ovlFlag [satWord v, satWord i]) t (w32 (stop.toNat * 2)) (satWord v) (satWord i)
      if stop then d.chanFault n 4 else d

/-- No limit acts any more: STATUS.COMPLY reads 0, and `long` says that it has done so for 10 µs, which ends a recorded period
with its exit record, in RUN or behind it. -/
def Dev.complyExit (d : Dev) (n : Nat) (long : Bool) (v i : Word) (t : Time) : Dev :=
  let d := (d.words n v i t).updCh n (fun x => { x with comply := false })
  if !long || !(d.ch n).complyRec then d
  else (d.updCh n (fun x => { x with complyRec := false })).chanRec n 0x41 (ovlFlag [satWord v, satWord i]) t 1 (satWord v) (satWord i)

/-! ### Apertures (R141–R143, R208) -/

/-- Nearest whole number, ties away from zero. -/
def roundAway (r : Rat) : Int := if 0 ≤ r then (r + 1 / 2).floor else -((-r + 1 / 2).floor)

/-- A value of a result record, with whether it saturated (R143). -/
def satRes (i : Int) : Int × Bool :=
  if 2147483647 < i then (2147483647, true) else if i < -2147483647 then (-2147483647, true) else (i, false)

/-- Sum of a quantity over the halves, the second, fourth, … with sign `s`. -/
def halfSum (f : HalfSum → Rat) (s : Rat) : List HalfSum → Rat
  | [] => 0
  | [a] => f a
  | a :: b :: l => f a + s * f b + halfSum f s l

/-- The words of an aperture as quantities: V_self − V_partner in µV, and I in µA. -/
def Dev.apD (d : Dev) (n m : Nat) (h : HalfSum) : Rat :=
  (h.v * (vFs (d.chVr n) : Nat) - h.vp * (vFs (d.chVr m) : Nat) : Int) / (8388608 : Rat)
def Dev.apI (d : Dev) (n : Nat) (h : HalfSum) : Rat :=
  (h.i * (iFs (d.chIr n) : Nat) : Int) / (8388608 : Rat)

/-- Items 6 and 7 of DIR_2W and DIR_4W (R142), and whether one saturated; `k` scales Ω to the record's unit and `e` µV. -/
def dirItems (d : HalfSum → Rat) (i : HalfSum → Rat) (l : List HalfSum) (rev : Bool) (k e : Rat) : Int × Int × Bool :=
  let s : Rat := if rev then -1 else 1
  let num := halfSum d s l
  let den := halfSum i s l
  if den = 0 then (if 0 ≤ num then 2147483647 else -2147483647, 0, true)
  else
    let r := num / den
    let n : Nat := (l.map (·.n)).sum
    let off : Rat := if rev then (halfSum d 1 l - r * halfSum i 1 l) / n else 0
    let a := satRes (roundAway (r * k))
    let b := satRes (roundAway (off * e))
    (a.1, b.1, a.2 || b.2)

/-- Halves of an aperture (R141). -/
def halvesOf (rev : Nat) : Nat := if rev = 0 then 1 else 2 * rev

/-- The last half of an aperture has summed, each of AP_LEN.LEN words (R141). STATUS.COMPLY of a DIODE record reports its first
half only (R208). -/
def Dev.apEnd (d : Dev) (n : Nat) (l : List HalfSum) (ovl : Bool) (t : Time) : Dev :=
  -- a delay that no cycle has ended is over by now
  let d := if (d.ch n).apAt.isSome then d.apFirst n else d
  let x := d.ch n
  let rev := d.rf (chanPage n + 0x68) 23 16
  if !x.ap || d.ust (.chan n) != .run || l.length != halvesOf rev || l.any (fun h => h.n != d.rf (chanPage n + 0x6C) 20 0) then d
  else
    let pw := d.rd (chanPage n + 0x74)
    let m := fld pw 8 0
    let s : Rat := if rev = 0 then 1 else -1
    let cnt : Nat := (l.map (·.n)).sum
    let vm := satRes (roundAway (halfSum (fun h => (h.v : Rat)) s l * 256 / cnt))
    let im := satRes (roundAway (halfSum (fun h => (h.i : Rat)) s l * 256 / cnt))
    let diode := bit (d.rd (wsPage (n / 32) + 0x40)) (n % 32)
    let first : HalfSum := l.headD ⟨0, 0, 0, 1, false⟩
    let comply := if diode && bit pw 15 then first.comply else l.any (·.comply)
    let st := fun (sat : Bool) => sat.toNat * 128 + ovl.toNat * 64 + comply.toNat * 32 + x.apLost.toNat * 16
    let d := d.setCh n { x with ap := false, apLost := false, vmean := wInt vm.1, imean := wInt im.1 }
    let fl := ovl.toNat * 0x20
    if !bit pw 15 then d.chanRec n 0x45 fl t (w32 (rev * 256 + st (vm.2 || im.2))) (wInt vm.1) (wInt im.1)
    else
      let head := (0x4000 + m) * 65536 + rev * 256
      if diode then
        let a := satRes (roundAway (d.apD n m first / (first.n : Nat)))
        let h := l.getD 1 ⟨0, 0, 0, 1, false⟩
        let b := satRes (roundAway (d.apI n h * 1000000 / (h.n : Nat)))
        d.chanRec n 0x4A fl t (w32 (head + st (a.2 || b.2))) (wInt a.1) (wInt b.1)
      else
        let four := d.chWire n
        let r := dirItems (d.apD n m) (d.apI n) l (rev != 0) (if four then 1000000 else 1000) (if four then 1000 else 1)
        d.chanRec n (if four then 0x49 else 0x48) fl t (w32 (head + st r.2.2)) (wInt r.1) (wInt r.2.1)

end Sys2Proof.Machine
end

