-- ==== Sys2Proof/Machine/Channel.lean ====
section
/-! DEFINITION. Meanings of the channel family (R125–R146). -/

namespace Sys2Proof.Machine

def execFlapCloseSettled (n : Chan) (f : Flap) (iNa : Nat) (vUv : Nat) (s : State) : Host.Outcome State Fault Refusal :=
  .next (s.live (fun d => d.flapSettled n.val f iNa vUv))

def execForceRampDone (n : Chan) (s : State) : Host.Outcome State Fault Refusal := .next (s.live (fun d => d.rampDone n.val))

def execFlapIsolated (n : Chan) (f : Flap) (iNa : Nat) (vUv : Nat) (s : State) : Host.Outcome State Fault Refusal :=
  .next (s.live (fun d => d.flapIsolated n.val f iNa vUv))

def execOvervoltage (n : Chan) (f : Flap) (v i : Word) (t : Time) (s : State) : Host.Outcome State Fault Refusal :=
  .next (s.live (fun d => d.overvoltage n.val f v i t))

def execSenseLoss (n : Chan) (v i : Word) (t : Time) (s : State) : Host.Outcome State Fault Refusal :=
  .next (s.live (fun d => d.senseLoss n.val v i t))

def execCmpEntry (n : Chan) (which : Fin 4) (word : Word) (t : Time) (s : State) : Host.Outcome State Fault Refusal :=
  .next (s.live (fun d => d.cmpEntry n.val which.val word t))

def execComplyEntry (n : Chan) (held : Bool) (vi : Word × Word) (t : Time) (s : State) : Host.Outcome State Fault Refusal :=
  .next (s.live (fun d => d.complyEntry n.val held vi.1 vi.2 t))

def execComplyExit (n : Chan) (long : Bool) (vi : Word × Word) (t : Time) (s : State) : Host.Outcome State Fault Refusal :=
  .next (s.live (fun d => d.complyExit n.val long vi.1 vi.2 t))

def execApertureEnd (n : Chan) (first : HalfSum) (more : List HalfSum) (ovl : Bool) (t : Time) (s : State) :
    Host.Outcome State Fault Refusal :=
  .next (s.live (fun d => d.apEnd n.val (first :: more) ovl t))

def execCalFull (p : Path) (n : Chan) (s : State) : Host.Outcome State Fault Refusal := .next (s.write p (chanPage n.val + 0xA8) 1)

def execCalQuick (p : Path) (n : Chan) (s : State) : Host.Outcome State Fault Refusal := .next (s.write p (chanPage n.val + 0xA8) 2)

def execCalFlapTest (p : Path) (n : Chan) (s : State) : Host.Outcome State Fault Refusal :=
  .next (s.write p (chanPage n.val + 0xA8) 3)

def execCalibrationComplete (n : Chan) (o : CalOutcome) (s : State) : Host.Outcome State Fault Refusal :=
  .next (s.live (fun d => d.calDone n.val o))

end Sys2Proof.Machine
end

