-- ==== Sys2Proof/Machine/Compass.lean ====
section
/-! DEFINITION. Meanings of the Compass family and of phase marks (R156–R182). -/

namespace Sys2Proof.Machine

/-- The effects of a mark's fire cycle, but for the gate edges: pitches (R104), then apertures, Weir, gates, timers, waits and field
events (R141, R171, R188, R248, R317, R355, R472), and the mark's own record. -/
def Dev.fireMark (d : Dev) (m : Nat) (pos : BitVec 48) (merged : Nat) (rev : Bool) : Dev :=
  let d := (d.setCps { d.cps with fired := m :: d.cps.fired }).pitchesOnMark m
  let d := (d.apOn 2 m).weirOn 1 m (d.rf 0x1A04C 2 0)
  let d := (d.tmEventAll 1 m d.now).markWaits m
  (d.fieldOnMark m).markFired m pos merged rev

/-- MARK_FIRE: the tracked phase has crossed a position of the mark in the present cycle (R169), `merged` further ones with it. A
crossing that the phase does not show fires nothing. Gate edges come first, under the configuration before a pitch (R258). -/
def Dev.markFire (d : Dev) (m : Nat) (pos : BitVec 48) (merged : Nat) (rev : Bool) : Dev :=
  if d.markHit m = some (pos, merged, rev) then (d.flMarkAll m d.now).fireMark m pos merged rev else d

def execEncoderEdge (x : Fin 2) (a b z : Bool) (t : Time) (s : State) : Host.Outcome State Fault Refusal :=
  .next (s.live (fun d => d.encEdge x.val a b z t))

def execEncLineFault (x : Fin 2) (l : EncLine) (s : State) : Host.Outcome State Fault Refusal :=
  .next (s.live (fun d => d.encLine x.val l true))

def execEncLineRecover (x : Fin 2) (l : EncLine) (s : State) : Host.Outcome State Fault Refusal :=
  .next (s.live (fun d => d.encLine x.val l false))

def execEncIndex (x : Fin 2) (t : Time) (s : State) : Host.Outcome State Fault Refusal :=
  .next (s.live (fun d => d.encIndex x.val t))

def execZStuck (x : Fin 2) (s : State) : Host.Outcome State Fault Refusal := .next (s.live (fun d => d.encZStuck x.val))

def execZcEdge (t : Time) (s : State) : Host.Outcome State Fault Refusal := .next (s.live (fun d => d.zcEdge t))

def execPlsPulse (t : Time) (s : State) : Host.Outcome State Fault Refusal := .next (s.live (fun d => d.plsPulse t))

def execPlsStuck (s : State) : Host.Outcome State Fault Refusal := .next (s.live Dev.plsStuck)

def execStallEntry (s : State) : Host.Outcome State Fault Refusal := .next (s.live Dev.stallEntry)

def execExtrapEnd (s : State) : Host.Outcome State Fault Refusal := .next (s.live Dev.extrapEnd)

def execMarkFire (m : Mark) (pos : BitVec 48) (merged : Nat) (rev : Bool) (s : State) : Host.Outcome State Fault Refusal :=
  .next (s.live (fun d => d.markFire m.val pos merged rev))

def execClearErrors (p : Path) (s : State) : Host.Outcome State Fault Refusal := .next (s.write p 0x3074 1)

def execTurnsZero (p : Path) (s : State) : Host.Outcome State Fault Refusal := .next (s.write p 0x3074 2)

def execPhFracRead (p : Path) (s : State) : Host.Outcome State Fault Refusal := .next (s.read p 0x3060)

end Sys2Proof.Machine
end

