-- ==== Sys2Proof/Machine/Flags.lean ====
section
/-! DEFINITION. Results and flags of the Efyon arithmetic, logic, shift, multiply and divide operations (R331, R339–R341,
R357, R358). -/

namespace Sys2Proof.Machine

/-- A result with the flags that it sets: their values and the mask of those that change, in the places of R331. -/
structure Res where
  v : Word
  fl : Word
  mask : Word
  deriving DecidableEq, Repr

/-- Places of the flags (R331). -/
def fZ : Nat := 1
def fN : Nat := 2
def fC : Nat := 4
def fV : Nat := 8
def fQ : Nat := 16
def fDZ : Nat := 32

/-- Z and N from the result; C and V where the operation names them; Q and DZ are only ever set. -/
def Res.of (r : Word) (c v : Option Bool := none) (q dz : Bool := false) : Res where
  v := r
  fl := w32 ((decide (r = 0)).toNat * fZ + r.msb.toNat * fN + (c.getD false).toNat * fC + (v.getD false).toNat * fV +
    q.toNat * fQ + dz.toNat * fDZ)
  mask := w32 (fZ + fN + c.isSome.toNat * fC + v.isSome.toNat * fV + q.toNat * fQ + dz.toNat * fDZ)

/-- A signed number limited to 32 bits. -/
def sat32 (i : Int) : Int := satS 32 i

/-! ### Arithmetic -/

def addRes (a b : Word) (cin : Bool) : Res :=
  let r := a + b + w32 cin.toNat
  .of r (some (decide (2 ^ 32 ≤ a.toNat + b.toNat + cin.toNat)))
    (some (decide (a.toInt + b.toInt + cin.toNat ≠ r.toInt)))

/-- ra − rb − borrow; C is 1 when no borrow occurs. -/
def subRes (a b : Word) (borrow : Bool) : Res :=
  let r := a - b - w32 borrow.toNat
  .of r (some (decide (b.toNat + borrow.toNat ≤ a.toNat))) (some (decide (a.toInt - b.toInt - borrow.toNat ≠ r.toInt)))

/-- A saturating signed result: V ← 0, Q on saturation. -/
def satSum (i : Int) : Res := .of (wInt (sat32 i)) none (some false) (decide (sat32 i ≠ i))

def absRes (a : Word) : Res := .of (wInt a.toInt.natAbs) none (some (decide (a = 0x80000000)))

def minRes (a b : Word) : Res := .of (if a.toInt ≤ b.toInt then a else b)
def maxRes (a b : Word) : Res := .of (if a.toInt ≤ b.toInt then b else a)
def minuRes (a b : Word) : Res := .of (if a.toNat ≤ b.toNat then a else b)
def maxuRes (a b : Word) : Res := .of (if a.toNat ≤ b.toNat then b else a)

/-! ### Logic and bits -/

def logicRes (r : Word) : Res := .of r none (some false)

def clz (a : Word) : Nat := ((List.range 32).find? (fun i => a.getLsbD (31 - i))).getD 32
def bitCount (a : Word) : Nat := ((List.range 32).filter a.getLsbD).length
def brev (a : Word) : Word := w32 ((List.range 32).foldl (fun n i => 2 * n + (a.getLsbD i).toNat) 0)

/-! ### Shifts (R358) -/

def shlRes (a : Word) (k : Nat) : Res :=
  if k = 0 then .of a none (some false)
  else .of (if k < 32 then a <<< k else 0) (some (decide (k ≤ 32) && a.getLsbD (32 - k))) (some false)

def shrRes (a : Word) (k : Nat) : Res :=
  if k = 0 then .of a none (some false)
  else .of (if k < 32 then a >>> k else 0) (some (decide (k ≤ 32) && a.getLsbD (k - 1))) (some false)

def sarRes (a : Word) (k : Nat) : Res :=
  if k = 0 then .of a none (some false)
  else .of (a.sshiftRight (min k 32)) (some (if k < 32 then a.getLsbD (k - 1) else a.msb)) (some false)

def rorRes (a : Word) (k : Nat) : Res := .of (a.rotateRight (k % 32))
def rolRes (a : Word) (k : Nat) : Res := .of (a.rotateLeft (k % 32))

/-! ### Multiplication and division -/

def mulRes (a b : Word) : Res := .of (a * b) none (some (decide (a.toInt * b.toInt ≠ (a * b).toInt)))
def mulhRes (a b : Word) : Res := .of (wInt (a.toInt * b.toInt / 2 ^ 32))
def mulhuRes (a b : Word) : Res := .of (w32 (a.toNat * b.toNat / 2 ^ 32))
/-- Toward −∞ and saturating. -/
def mulqRes (a b : Word) : Res :=
  let q := a.toInt * b.toInt / 2 ^ 31
  .of (wInt (sat32 q)) none none (decide (sat32 q ≠ q))

/-- The result of a division by 0: Z and N from it, V cleared, DZ set. -/
def zeroDiv (r : Word) : Res := .of r none (some false) false true

/-- The largest or the least signed word, by the sign of the dividend. -/
def divZero (a : Word) : Res := zeroDiv (if 0 ≤ a.toInt then 0x7FFFFFFF else 0x80000000)

def divRes (a b : Word) : Res :=
  if b = 0 then divZero a
  else
    let q := a.toInt.tdiv b.toInt
    .of (wInt q) none (some (decide (sat32 q ≠ q)))

def divuRes (a b : Word) : Res :=
  if b = 0 then zeroDiv 0xFFFFFFFF else .of (w32 (a.toNat / b.toNat)) none (some false)

def remRes (a b : Word) : Res := if b = 0 then zeroDiv a else .of (wInt (a.toInt.tmod b.toInt))

def remuRes (a b : Word) : Res := if b = 0 then zeroDiv a else .of (w32 (a.toNat % b.toNat))

def divsRes (a b : Word) : Res :=
  if b = 0 then divZero a
  else
    let q := a.toInt.tdiv b.toInt
    if sat32 q = q then .of (wInt q) else .of (wInt (sat32 q)) none (some false) true

/-- MOVAS: ⌊(acc + 2^(k−1)) / 2^k⌋, saturated; Q on saturation and no other flag. -/
def movasRes (acc : BitVec 72) (k : Nat) : Res :=
  let x := if k = 0 then acc.toInt else (acc.toInt + 2 ^ (k - 1)) / 2 ^ k
  let q := decide (sat32 x ≠ x)
  ⟨wInt (sat32 x), w32 (q.toNat * fQ), w32 (q.toNat * fQ)⟩

/-- SKIP conditions (R347), on the six flags. -/
def condHolds (f : BitVec 6) (cc : Nat) : Bool :=
  let z := f.getLsbD 0
  let n := f.getLsbD 1
  let c := f.getLsbD 2
  let v := f.getLsbD 3
  match cc with
  | 0 => z | 1 => !z | 2 => c | 3 => !c | 4 => n | 5 => !n | 6 => v | 7 => !v
  | 8 => c && !z | 9 => !c || z | 10 => n == v | 11 => n != v | 12 => !z && n == v | 13 => z || n != v | 14 => true
  | _ => f.getLsbD 4

end Sys2Proof.Machine
end

