-- ==== Sys2Proof/Machine/HostPort.lean ====
section
/-! DEFINITION. Meanings of the host port family: link, power states and resets of the port, configuration, outlets and BAR2
(R409–R427). -/

namespace Sys2Proof.Machine

def Dev.setHost (d : Dev) (h : HostPort) : Dev := { d with host := h }

/-- The function can send or master again: owed messages and closures that fell due go out (R398, R412, R421). -/
def Dev.hostResume (d : Dev) : Dev := d.olResume

/-- The controller's wake ends in D0 with nothing left to send; a message that is owed ends it (R398, R415; DEDUCED,
notes/assumptions/48). -/
def Dev.wakeRest (d : Dev) : Dev :=
  if d.ic.owed then d else { d with ic := { d.ic with wake := false }, host := { d.host with wakeN := false } }

/-- The function is in D0: Campwatch's wake ends (R458), and the controller's. -/
def Dev.inD0 (d : Dev) : Dev := (if d.cw.wakeDrv then d.releaseWake else d).wakeRest.hostResume

/-! ### Resets of the port (R424) -/

/-- Registers of the HOST page, the outlet slots in both views, and the MSI-X table. -/
def hostReg (a : Nat) : Bool := decide (0x15000 ≤ a ∧ a < 0x17000)

/-- UNIT_IDs of the outlets (R10). -/
def isOutletId (i : Nat) : Bool := decide (0xD000 ≤ i ∧ i < 0xD010)

/-- What is owed after a reset of the port waits for messages to be enabled again (R398). -/
def Dev.keepOwed (d : Dev) : Dev := { d with ic := { d.ic with kept := d.ic.owed } }

/-- What every reset of the port does: the outlets and the HOST registers take their reset values, armed pitches that touch
an outlet are cancelled (R53, R106), and the host's sources are offered again (R403). Queues keep their packets. -/
def Dev.portReset (d : Dev) : Dev :=
  let d := d.pitchReset isOutletId
  let h := d.host
  let d := { d with
    regs := d.regs.filter (fun kv => !hostReg kv.1)
    units := d.units.filter (fun kv => !hostReg kv.1)
    -- the page's GEN reads 0 again, though the device has left OFF, which `Dev.genView` counts (R53, R93)
    gens := SMap.put 0 (d.gens.filter (fun kv => !hostReg kv.1)) 0x15000 (if d.pwr.devOff then 0 else -1)
    settling := d.settling.filter (fun kv => !hostReg kv.1)
    -- PME_En and PME_Status are sticky: R415 uses them in D3cold (DEDUCED, notes/assumptions/46)
    host := { perst := h.perst, linkUp := h.linkUp, speed := h.speed, lanes := h.lanes, pmeEn := h.pmeEn,
              pmeStatus := h.pmeStatus, wakeN := h.wakeN, mem := h.mem } }
  (d.reoffer true).keepOwed

/-- The link is down and its training is to come. -/
def Dev.linkDrop (d : Dev) : Dev := d.setHost { d.host with linkUp := false, speed := 0, lanes := 0, l1 := false, l1Exit := false }

/-- PERST# goes low: a reset of the port, recorded in RST_CAUSE (R51, R68) or merged with a reset in progress (R52). While it
stays low it holds the port alone (R57; DEDUCED, notes/assumptions/86). -/
def Dev.perstLow (d : Dev) : Dev :=
  if d.host.perst then d
  else
    let d := if d.alive then d.portReset else d
    let d := (d.setHost { d.host with perst := true }).linkDrop
    if d.alive then d.sideReset 8 else d

/-- PERST# goes high: the outlets leave OFF (R53). -/
def Dev.perstHigh (d : Dev) : Dev :=
  (d.change ((List.range 16).map Un.outlet) (fun d => d.setHost { d.host with perst := false })).1

/-- Training completes at a speed code and a lane count (R409); the port does not train in the factory mode (R30). -/
def Dev.hostLink (d : Dev) (speed lanes : Nat) : Dev :=
  if d.host.perst || !d.pwr.refclk || d.pwr.factory then d
  else (d.setHost { d.host with linkUp := true, speed := speed, lanes := lanes }).inD0

/-- An event of a link that is up. -/
def Dev.onLink (d : Dev) (f : Dev → Dev) : Dev := if d.host.linkUp then f d else d

/-! ### Configuration (R408, R412, R413, R415) -/

/-- What a configuration read returns (R408). The places of the fields in configuration space are those of PCI Express, which the
spec does not repeat, so a read names its field; the settings return the number of the write's operand. -/
def HostPort.item (h : HostPort) : ConfigItem → Word
  | .vendorId => 0x1F4B
  | .deviceId => 0x0512
  | .revisionId => 0x01
  | .classCode => 0x118000
  | .subsystemVendorId => 0x1F4B
  | .subsystemId => 0x0512
  | .interruptPin => 0
  | .maxPayload => w32 h.cfg.maxPayload
  | .maxReadRequest => w32 h.cfg.maxReadRequest
  | .ecrc => w32 (flagWord 0 [h.cfg.ecrcGen, h.cfg.ecrcCheck])
  | .completionTimeout => w32 h.cfg.cplTimeout
  | .aspmL1 => w32 h.cfg.aspmL1.toNat
  | .busMaster => w32 h.busMaster.toNat
  | .pmeStatus => w32 h.pmeStatus.toNat
  | .aerStatus => h.aer

def HostPort.config (h : HostPort) : ConfigWrite → HostPort
  | .busMaster on => { h with busMaster := on }
  | .msixEnable on => { h with msixEn := on }
  | .msixFunctionMask on => { h with msixMask := on }
  | .msiEnable on => { h with msiEn := on }
  | .msiMask on => { h with msiMask := on }
  | .pmeEnable on => { h with pmeEn := on }
  | .pmeStatusClear => { h with pmeStatus := false }
  | .aerStatusClear v => { h with aer := h.aer &&& ~~~v }
  | .maxPayload n => { h with cfg := { h.cfg with maxPayload := n.val } }
  | .maxReadRequest n => { h with cfg := { h.cfg with maxReadRequest := n.val } }
  | .ecrc g c => { h with cfg := { h.cfg with ecrcGen := g, ecrcCheck := c } }
  | .aspmL1 on => { h with cfg := { h.cfg with aspmL1 := on } }
  | .completionTimeout n => { h with cfg := { h.cfg with cplTimeout := n.val } }
  | .read i => { h with cfgAns := h.item i }

/-! ### Outlets (R417–R422) -/

/-- A descriptor fetch ends. -/
def Dev.descFetch (d : Dev) (o : Nat) (r : DescFetch) : Dev :=
  match r with
  | .bufs l =>
    match d.olFetched o l with
    | (d, some b) => d.olFault o b
    | (d, none) => d
  | .error => if d.ust (.outlet o) == .run then d.olFault o 19 else d

/-- FLUSH_T has passed since the buffer opened (R418). -/
def Dev.flushDue (d : Dev) (o : Nat) : Bool :=
  let t := d.rf (olAt o + 0xC) 23 0
  match (d.ol o).buf with
  | some b => d.ust (.outlet o) == .run && t != 0 && decide (t * 1000 ≤ (d.now - b.openAt).toNat)
  | none => false

def Dev.flushEnd (d : Dev) (o : Nat) : Dev := if d.flushDue o then d.olClose o true else d

/-! ### BAR2 (R411) -/

/-- Bytes of Lakebed in the pool, the Ocpen region or the firmware region (R281, R306). -/
def Dev.inPoolRegion (d : Dev) (a : Nat) : Bool :=
  let base := d.rf 0x10040 6 0 * 0x2000000
  decide (base ≤ a ∧ a < base + d.rf 0x10040 22 16 * 0x2000000)
def Dev.inOcpen (d : Dev) (a : Nat) : Bool :=
  let base := d.rf 0x14048 6 0 * 0x2000000
  d.ocEn && decide (base ≤ a ∧ a < base + 0x2000000)
def Dev.bar2Locked (d : Dev) (a : Nat) : Bool := decide (a < 0x10000000) || d.inPoolRegion a || d.inOcpen a

/-- Codewords of a span of Lakebed outside the pool with an uncorrectable error. -/
def Dev.ueIn (d : Dev) (a n : Nat) : List Nat :=
  d.lbUe.filter (fun k => decide (a < k * 8 + 8 ∧ k * 8 < a + n) && !d.inPoolRegion (k * 8))

/-- Lakebed's counter and the MEM_ERR record of an access that met uncorrectable errors. -/
def Dev.lbAccessUe (d : Dev) (hit : List Nat) : Dev :=
  if hit = [] then d
  else
    ((d.count 0x1C054 15 0).healthRec 0x88 0x2000 d.now (w32 (6 * 2 ^ 28)) (w32 (hit.foldl min (hit.headD 0) * 8))
      (w32 hit.length)).fault healthPage 0

/-- Bytes as BAR2 reads them. -/
def State.bar2Bytes (s : State) (a n : Nat) : List Byte :=
  (List.range n).map (fun i =>
    if s.dev.inPoolRegion (a + i) || s.dev.inOcpen (a + i) then Config.cellByte (a + i) s.dev.now.toNat
    else Memory.byte s.mem (a + i))

/-- A write goes to Lakebed whole unless one of its bytes falls into a protected region. -/
def State.bar2Write (s : State) (a : Nat) (bs : List Byte) : State :=
  if (List.range bs.length).any (fun i => s.dev.bar2Locked (a + i)) then s.act (fun d => d.fault hostPage 3)
  else
    ({ s with mem := Memory.puts bs a s.mem } : State).act (fun d =>
      { d with lbUe := d.lbUe.filter (fun k => !decide (a < k * 8 + 8 ∧ k * 8 < a + bs.length)) })

def State.bar2Read (s : State) (a n : Nat) : State :=
  let bs := s.bar2Bytes a n
  s.act (fun d =>
    let hit := d.ueIn a n
    (d.setHost { d.host with bar2 := bs, poisoned := hit != [] }).lbAccessUe hit)

def State.bar2 (s : State) (a : Nat) (write : Option (List Byte)) (n : Nat) : State :=
  if !s.dev.pathOk .host then s
  else match write with
    | some bs => if a + bs.length ≤ lakebedSize then s.bar2Write a bs else s
    | none => if a + n ≤ lakebedSize then s.bar2Read a n else s

/-! ### Meanings -/

def execPerstAssert (s : State) : Host.Outcome State Fault Refusal := .next (s.act Dev.perstLow)

def execPerstRelease (s : State) : Host.Outcome State Fault Refusal := .next (s.act Dev.perstHigh)

def execLinkUp (speed : Fin 4) (lanes : Fin 3) (s : State) : Host.Outcome State Fault Refusal :=
  .next (s.live (fun d => d.hostLink (speed.val + 1) (2 ^ lanes.val)))

def execBar2Request (addr : Nat) (write : Option (List Byte)) (len : Nat) (s : State) : Host.Outcome State Fault Refusal :=
  .next (s.bar2 addr write len)

/-- The device requests L1 where ASPM L1 is enabled and no TLP is pending; that L1_IDLE has passed is the sender's word (R415;
notes/assumptions/100). -/
def execL1Entry (s : State) : Host.Outcome State Fault Refusal :=
  .next (s.live (fun d => d.onLink (fun d =>
    if d.host.cfg.aspmL1 && !d.outbound then d.setHost { d.host with l1 := true } else d)))

def execL1Exit (s : State) : Host.Outcome State Fault Refusal :=
  .next (s.live (fun d => d.onLink (fun d => (d.setHost { d.host with l1 := false, l1Exit := false }).hostResume)))

def execD3hotEntry (s : State) : Host.Outcome State Fault Refusal :=
  .next (s.live (fun d => d.onLink (fun d => d.setHost { d.host with d3 := true })))

def execD0Entry (s : State) : Host.Outcome State Fault Refusal :=
  .next (s.live (fun d => d.onLink (fun d => (d.setHost { d.host with d3 := false }).inD0)))

def execFlr (s : State) : Host.Outcome State Fault Refusal :=
  .next (s.live (fun d => d.onLink (fun d => d.portReset.hostResume)))

def execHotReset (s : State) : Host.Outcome State Fault Refusal :=
  .next (s.live (fun d => if d.host.perst then d else d.portReset.linkDrop))

def execLinkDown (s : State) : Host.Outcome State Fault Refusal :=
  .next (s.live (fun d => d.onLink (fun d => (d.setHost { d.linkDrop.host with lost := true }).fault hostPage 4)))

def execConfigurationRequest (x : ConfigWrite) (s : State) : Host.Outcome State Fault Refusal :=
  .next (s.live (fun d => d.onLink (fun d => (d.setHost (d.host.config x)).hostResume)))

def execOutletTailWrite (p : Path) (o : OutletIx) (v : Word) (s : State) : Host.Outcome State Fault Refusal :=
  .next (s.write p (olAt o.val + 0x40) v)

def execDescFetchDone (o : OutletIx) (r : DescFetch) (s : State) : Host.Outcome State Fault Refusal :=
  .next (s.live (fun d => d.descFetch o.val r))

def execClose (p : Path) (o : OutletIx) (s : State) : Host.Outcome State Fault Refusal := .next (s.write p (olAt o.val + 0x50) 1)

def execOutletFlushTimeout (o : OutletIx) (s : State) : Host.Outcome State Fault Refusal :=
  .next (s.live (fun d => d.flushEnd o.val))

def execPacketAcked (o : OutletIx) (s : State) : Host.Outcome State Fault Refusal := .next (s.live (fun d => d.olDeliver o.val))

end Sys2Proof.Machine
end

