-- ==== Sys2Proof/Machine/Operands.lean ====
section
/-! DEFINITION. Operands of the Efyon instructions: pointer updates (R343–R346), and loads and stores under the address map of
each core (R367–R370, R373, R375, R382, R484). -/

namespace Sys2Proof.Machine

/-! ### Pointer updates -/

/-- R344: linear with m = 0, else modulo m within the buffer at b. -/
def ptrStep (a b m : Word) (step : Int) : Word :=
  if m = 0 then wInt (a.toNat + step) else wInt (b.toNat + (a.toNat - b.toNat + step) % (m.toNat : Int))

/-- A power of two: the moduli that a bit-reversed update allows (R346). -/
def isPow2 (m : Word) : Bool := decide (m ≠ 0) && decide (m &&& (m - 1) = 0)

/-- The addition of R345 in reversed order, from bit i − 1 down to bit g of the offset o, with a carry. -/
def brevAdd (step g : Nat) : Nat → Nat → Nat → Nat
  | 0, o, _ => o
  | i + 1, o, carry =>
    if i < g then o
    else
      let b := o / 2 ^ i % 2
      let t := b + step / 2 ^ i % 2 + carry
      brevAdd step g i (o - b * 2 ^ i + t % 2 * 2 ^ i) (t / 2)

/-- R345, for m a power of two and an access of 2^g bytes. -/
def ptrBrev (a b m step : Word) (g : Nat) : Word :=
  b + w32 (brevAdd step.toNat g m.toNat.log2 ((a - b).toNat % m.toNat) 0)

/-- The new value of pointer p under a mode of R343, if the mode updates it, and whether R346 makes the update illegal. -/
def Core.ptrNext (c : Core) (p mode : Nat) (simm : Int) (g : Nat) : Option Word × Bool :=
  let a := c.xr p
  let b := c.xr (8 + p)
  let m := c.xr (16 + p)
  let s := c.xr (24 + p)
  match mode with
  | 0 => (none, false)
  | 1 => (some (ptrStep a b m s.toInt), false)
  | 2 => (some (ptrStep a b m simm), false)
  | _ => if isPow2 m then (some (ptrBrev a b m s g), false) else (some (ptrStep a b m s.toInt), true)

/-- The mode of R343 that AMP or AMQ stands for. -/
def macMode : Nat → Nat
  | 0 => 1
  | 1 => 3
  | _ => 0

/-- g of R345 for an access size. -/
def sizeLog : Size → Nat
  | .byte => 0
  | .half => 1
  | .word => 2

/-! ### Values within words -/

/-- The n bytes of a word from byte k on. -/
def part (w : Word) (k n : Nat) : Nat := w.toNat / 2 ^ (8 * k) % 2 ^ (8 * n)

/-- A word with n bytes from byte k on replaced. -/
def setPart (w : Word) (k n v : Nat) : Word := setFld w (8 * (k + n) - 1) (8 * k) v

/-- A loaded value of n bytes in a register. -/
def extend (n : Nat) (signed : Bool) (v : Nat) : Word := if signed then wInt (sext (8 * n) v) else w32 v

/-! ### Accesses -/

/-- How an access ended: done with a value, and whether a bad codeword was read on Efyon-L; a bus error; an unaligned access to
registers; a machine check; or a read through the proxy window whose answer is to come. -/
inductive Access where
  | done (v : Nat) (ue : Bool)
  | bus
  | align
  | mchk
  | wait
  deriving DecidableEq, Repr

/-- Register space begins here in both address maps. -/
def regSpace : Nat := 0x40000000

/-- An access met an uncorrectable error in a sequencer memory: program memory, or data memory (R367, R484). -/
def Dev.seqUe (d : Dev) (x : Nat) (prog : Bool) (a : Nat) : Dev :=
  let c := x / 10
  let page := 0x105000 + c * 0x10000
  ((((d.eccCount 0x1C044 true).eccCount (page + (if prog then 0x4C else 0x50)) true).fault page 0).memErr
    (if prog then 1 else 2) c false a)

/-- The address of an access to data memory, taken down to its alignment (R367). -/
def Dev.seqAlign (d : Dev) (x a n : Nat) : Dev :=
  if a % n = 0 then d else (d.fault (ctxPage x) 1).wr (ctxPage x + 0x58) (w32 a)

/-- The register window of a context (R368). -/
def seqWindow (a : Nat) : Bool := decide (regSpace ≤ a ∧ a < regSpace + 0x800000)

/-- A context loads n bytes (R367, R368); it waits for what comes from the register window (R362). -/
def Dev.seqLoad (d : Dev) (x : Ctx) (a n : Nat) : Dev × Access :=
  if a < 0x20000 then
    let d := d.seqAlign x.val a n
    let a := a - a % n
    let m := dataMem (x.val / 10) + a
    let ue := d.ue.contains (m / 8)
    let d := if ue then d.seqUe x.val false (a / 8 * 8) else d
    (d, .done (part (d.rd (m - m % 4)) (m % 4) n) ue)
  else if seqWindow a && a % n == 0 then
    let (d, v) := d.busRead (.ctx x) (a - regSpace - a % 4)
    (d.updCore (.seq x) (fun c => c.waitsFor 3 d.now (min 40 (Config.seqCycles d.now.toNat))), .done (part v (a % 4) n) false)
  else (d, .bus)

/-- A store to registers: one that covers none whole writes nothing (R308, R410). -/
def Dev.regStore (d : Dev) (p : Path) (o n v : Nat) : Dev :=
  if n = 4 then d.busWrite p o (w32 v)
  else if 0x510000 ≤ o ∧ o < 0x514000 then d.qErr ((o - 0x510000) / 16) 17 else d

/-- A context stores n bytes. -/
def Dev.seqStore (d : Dev) (x : Ctx) (a n v : Nat) : Dev × Access :=
  if a < 0x20000 then
    let d := d.seqAlign x.val a n
    let a := a - a % n
    let m := dataMem (x.val / 10) + a
    (d.memWrite (m - m % 4) (setPart (d.rd (m - m % 4)) (m % 4) n v), .done 0 false)
  else if seqWindow a && a % n == 0 then
    ((d.regStore (.ctx x) (a - regSpace) n v).updCore (.seq x) (·.sends d.now), .done 0 false)
  else (d, .bus)

/-- The byte of Lakebed that an address of Efyon-S names (R382). -/
def Dev.lakeAt (d : Dev) (a : Nat) : Option Nat :=
  if a < 0x10000000 then some a
  else if 0x20000000 ≤ a ∧ a < 0x30000000 then some (a - 0x20000000)
  else if 0x50000000 ≤ a ∧ a < 0x60000000 then some (d.rf 0x1D05C 3 0 * 0x10000000 + (a - 0x50000000))
  else none

/-- The Lakebed bytes of an access that lies in memory whole: none where a byte of it does not (R375). The maps have no common
border, so the first and last byte decide. -/
def Dev.lakeSpan (d : Dev) (a n : Nat) : Option Nat :=
  match d.lakeAt a, d.lakeAt (a + n - 1) with
  | some b, some e => if e = b + n - 1 then some b else none
  | _, _ => none

/-- The register space of Efyon-S (R382). -/
def mainRegs (a : Nat) : Bool := decide (regSpace ≤ a ∧ a < regSpace + 0x4000000)

/-- Codewords of L2 with a UE that an access of Efyon-S at address `a`, to n bytes of Lakebed from `b` on, meets: the cached map
alone goes through L2 (R382, R484). -/
def Dev.l2In (d : Dev) (a b n : Nat) : List Nat :=
  if a < 0x10000000 then d.esc.l2Ue.filter (fun k => decide (b < k * 8 + 8 ∧ k * 8 < b + n)) else []

/-- Codewords with a UE that a load or a fetch of Efyon-S meets. -/
def Dev.mainUe (d : Dev) (a b n : Nat) : List Nat := d.l2In a b n ++ d.ueIn b n

/-- The device counts and records what such an access met; a line of L2 is discarded (R484; DESIGN CHOICE, notes/assumptions/101:
the data come from Lakebed afterwards, as they stand there). -/
def Dev.mainMeets (d : Dev) (a b n : Nat) : Dev :=
  match d.l2In a b n with
  | [] => d.lbAccessUe (d.ueIn b n)
  | hit => ((d.setEsc { d.esc with l2Ue := d.esc.l2Ue.filter (fun k => !hit.contains k) }).eccCount 0x1C04C true).memErr 4 0 false
      (hit.headD 0 * 8)

/-- Efyon-S loads n bytes (R373, R375, R382, R484). -/
def State.mainLoad (s : State) (a n : Nat) : State × Access :=
  if mainRegs a then
    if a % n ≠ 0 then (s, .align)
    else
      let (d, v) := s.dev.busRead .efyonS (a - regSpace - a % 4)
      ({ s with dev := d }, if d.vl.proxy.contains (Path.num .efyonS) then .wait else .done (part v (a % 4) n) false)
  else
    match s.dev.lakeSpan a n with
    | none => (s, .bus)
    | some b =>
      if s.dev.mainUe a b n = [] then (s, .done ((s.bar2Bytes b n).foldr (fun x v => x.toNat + 256 * v) 0) false)
      else ({ s with dev := s.dev.mainMeets a b n }, .mchk)

/-- Bytes that Efyon-S writes to Lakebed: they replace what was wrong in their codewords. -/
def State.lakeWrite (s : State) (b : Nat) (bs : List Byte) : State :=
  { s with mem := Memory.puts bs b s.mem
           dev := { s.dev with lbUe := s.dev.lbUe.filter (fun k => !decide (b < k * 8 + 8 ∧ k * 8 < b + bs.length)) } }

/-- Efyon-S stores n bytes. -/
def State.mainStore (s : State) (a n v : Nat) : State × Access :=
  if mainRegs a then
    if a % n ≠ 0 then (s, .align) else ({ s with dev := s.dev.regStore .efyonS (a - regSpace) n v }, .done 0 false)
  else
    match s.dev.lakeSpan a n with
    | none => (s, .bus)
    | some b => (s.lakeWrite b (bytesLE n v), .done 0 false)

/-- A core loads n bytes. -/
def State.loadAt (s : State) (e : CoreId) (a : Word) (n : Nat) : State × Access :=
  match e with
  | .main => s.mainLoad a.toNat n
  | .seq x => let (d, r) := s.dev.seqLoad x a.toNat n; ({ s with dev := d }, r)

/-- A core stores n bytes. -/
def State.storeAt (s : State) (e : CoreId) (a : Word) (n : Nat) (v : Word) : State × Access :=
  match e with
  | .main => s.mainStore a.toNat n v.toNat
  | .seq x => let (d, r) := s.dev.seqStore x a.toNat n v.toNat; ({ s with dev := d }, r)

end Sys2Proof.Machine
end

