-- ==== Sys2Proof/Machine/EfyonCore.lean ====
section
/-! DEFINITION. How a core issues one instruction: prefixes, skips, delay slots and repetitions (R335, R347–R352), distances
(R363–R366), the faults of a context (R367), and the exceptions, interrupt entries and exits of Efyon-S (R376–R381). -/

namespace Sys2Proof.Machine

/-- What an execution asks for beside its writes. -/
inductive Ev where
  | done
  /-- A jump is taken. -/
  | jump (t : Word)
  /-- A SKIP holds. -/
  | skip
  /-- An access went wrong: a bus error, an unaligned register access, a machine check; a bad codeword was read on Efyon-L. -/
  | bus (a : Word)
  | align (a : Word)
  | mchk (a : Word)
  | memUe
  | trap (n : Nat)
  | divZero
  | halt
  | wait (m : Nat)
  /-- A load waits for its answer: the register (as in PendW), the byte within the word, the size, and whether signed. -/
  | load (reg k n : Nat) (signed : Bool)
  deriving DecidableEq, Repr

/-- The end of one execution; `ill` marks an illegal form that shows only then (R346). -/
structure Out where
  s : State
  ev : Ev := .done
  ill : Bool := false

/-- An instruction: whether its encoding is legal, whether IMX may extend it (R335), whether REP may not prefix it (R352),
whether a delay slot may not hold it (R349), and its execution by a core whose registers before it are given. The state handed
to it has moved past the instruction. -/
structure Op where
  ok : Bool := true
  imm : Bool := false
  noRep : Bool := false
  jump : Bool := false
  run : CoreId → Core → State → Out

/-! ### Writes -/

/-- A register write by the instruction with count n: at once on Efyon-S (R372), at its distance on Efyon-L (R363). -/
def Dev.put (d : Dev) (e : CoreId) (n reg : Nat) (v : Word) (dist : Nat := 1) (mask : Word := 0xFFFFFFFF) : Dev :=
  let c := d.core e
  match e with
  | .main => d.setCore e (c.apply ⟨reg, v, mask, 0⟩)
  | .seq _ => d.setCore e { c with pend := c.pend ++ [⟨reg, v, mask, n + dist⟩] }

def State.put (s : State) (e : CoreId) (c : Core) (reg : Nat) (v : Word) (dist : Nat := 1) (mask : Word := 0xFFFFFFFF) : State :=
  { s with dev := s.dev.put e c.n reg v dist mask }

/-- Numbers of PendW: pointer registers, lc, FLAGS. -/
def regX (x : Nat) : Nat := 32 + x
def regLc : Nat := 64
def regFlags : Nat := 65

/-- A result at its distance, and its flags at distance 1 (R347, R363). -/
def State.putRes (s : State) (e : CoreId) (c : Core) (rd : Nat) (r : Res) (dist : Nat := 1) : State :=
  (s.put e c rd r.v dist).put e c regFlags r.fl 1 r.mask

/-- An accumulator changes at once: its distance is 1 (R363). -/
def State.putAcc (s : State) (e : CoreId) (n : Nat) (v : BitVec 72) : State :=
  { s with dev := s.dev.setCore e ((s.dev.core e).setA n v) }

/-! ### The unit in progress -/

/-- The address of the unit: its first prefix, or the instruction. -/
def Core.unitAt (c : Core) : Word := c.pre.getD c.pc

/-- The unit of R347 ends: in a delay slot the target follows (R348). -/
def Core.unitEnd (c : Core) : Core :=
  { c with pc := c.slot.getD (c.pc + 4), slot := none, skip := false, pre := none, imx := none, rep := none, again := none }

/-- One execution counts (R364): the unit goes on while repetitions are left. -/
def Core.retire (c : Core) : Core :=
  let c := { c with n := c.n + 1, again := none, busy := none }
  match c.rep with
  | some (k + 2) => { c with rep := some (k + 1) }
  | _ => c.unitEnd

/-- A unit that a SKIP skips, or that REP repeats no times, counts once (R347, R350, R364). -/
def Core.pass (c : Core) : Core := ({ c with n := c.n + 1, busy := none } : Core).unitEnd

/-- The repetitions left of the unit: of its prefix, or those that an exit brought back to a prefix that has not issued again
(R381); 0 outside a repetition. -/
def Core.left (c : Core) : Nat := (c.rep.orElse (fun _ => c.again)).getD 0

/-- No unit is in progress and no wait. -/
def Core.fresh (c : Core) : Core :=
  { c with slot := none, skip := false, pre := none, imx := none, rep := none, again := none, wait := none }

/-- The form is illegal where it stands (R335, R336, R349). -/
def Op.bad (o : Op) (c : Core) : Bool := !o.ok || (c.imx.isSome && !o.imm) || (c.slot.isSome && o.jump)

/-! ### Faults of a context (R367) -/

/-- A state-changing fault: FPC, then FAULT. -/
def Dev.seqFault (d : Dev) (x bit : Nat) (pc : Word) : Dev :=
  (d.wr (ctxPage x + 0x54) (w32 (fld pc 15 0))).faultSc [.ctx x] (ctxPage x) bit

/-- HALT and ILL_STOP: PARKED without a pitch (R361). -/
def Dev.seqPark (d : Dev) (x : Nat) : Dev :=
  d.changeH [.ctx x] (fun d => d.setUnit (.ctx x) { d.unit (.ctx x) with last := .parked })

/-- An illegal encoding. -/
def Dev.seqIll (d : Dev) (x : Nat) (pc : Word) : Dev :=
  let page := ctxPage x
  let d := (if d.rb (page + 0xC) 0 then d else d.wr (page + 0x54) (w32 (fld pc 15 0))).fault page 0
  if d.rb (page + 0x48) 0 then d.seqPark x else d

/-- The fetch of a context at its PC fails. -/
def Dev.seqFetchBad (d : Dev) (x : Nat) (pc : Word) : Bool :=
  decide (0x10000 ≤ pc.toNat) || pc.toNat % 4 != 0 || d.ue.contains ((progMem (x / 10) + pc.toNat) / 8)

def Dev.seqFetchFault (d : Dev) (x : Nat) (pc : Word) : Dev :=
  let d := if pc.toNat < 0x10000 && pc.toNat % 4 == 0 then d.seqUe x true (pc.toNat / 8 * 8) else d
  (d.seqFault x 4 pc).campRestart (x / 10) 2

/-- What an execution brings beside its writes. -/
def Dev.seqEvent (d : Dev) (x : Nat) (pc : Word) (ev : Ev) : Dev :=
  let page := ctxPage x
  let c := d.ctx x
  match ev with
  | .jump t => d.setCtx x { c with slot := some t }
  | .skip => d.setCtx x { c with skip := true }
  | .bus a => (d.wr (page + 0x58) a).seqFault x 3 pc
  | .memUe => (d.seqFault x 5 pc).campRestart (x / 10) 1
  | .trap n => (d.wf (page + 0x5C) 4 0 n).seqFault x 2 pc
  | .halt => d.seqPark x
  | .wait m => d.setCtx x { c with wait := some (m, d.armCycle) }
  | _ => d

/-- Results that have come to their distance take effect. -/
def Dev.ctxSettle (d : Dev) (x : Nat) : Dev := d.setCtx x (d.ctx x).settle

/-- ISSUED (R386). -/
def Dev.issued (d : Dev) (x : Nat) : Dev :=
  let a := 0x105044 + x / 10 * 0x10000
  d.wr a (d.rd a + 1)

/-- A context that may issue executes one instruction, or one repetition of it. -/
def State.seqIssue (s : State) (x : Ctx) (op : Op) : State :=
  let c := s.dev.ctx x.val
  let unit := c.unitAt
  let on := fun (f : Dev → Dev) => ({ s with dev := f s.dev } : State)
  if s.dev.seqFetchBad x.val c.pc then on (fun d => d.seqFetchFault x.val c.pc)
  else if c.skip then on (fun d => (d.setCtx x.val c.pass).ctxSettle x.val)
  else if op.bad c then on (fun d => (((d.issued x.val).setCtx x.val c.retire).ctxSettle x.val).seqIll x.val unit)
  else if c.rep = some 0 && !op.noRep then on (fun d => ((d.issued x.val).setCtx x.val c.pass).ctxSettle x.val)
  else
    let ill := op.noRep && c.rep.isSome
    let c := if ill then { c with rep := none } else c
    let o := op.run (.seq x) c (on (fun d => (d.issued x.val).setCtx x.val c.retire))
    let d := o.s.dev.ctxSettle x.val
    let d := d.seqEvent x.val unit o.ev
    { o.s with dev := if ill || o.ill then d.seqIll x.val unit else d }

/-! ### Exceptions of Efyon-S (R376, R377) -/

/-- Tokens of R380. -/
def normalToken : Word := 0xFFFFFFF0
def fastToken : Word := 0xFFFFFFF4

def vbase : Nat := 0x1D040

/-- A double fault (R377). -/
def State.doubleFault (s : State) : State := { s with dev := (s.dev.fault escPage 2).wdogExpire }

/-- Words stored by Efyon-S at rising addresses: none where a store faults. -/
def State.pushWords : List Word → Nat → State → Option State
  | [], _, s => some s
  | w :: ws, a, s =>
    match s.mainStore a 4 w.toNat with
    | (s, .done _ _) => State.pushWords ws (a + 4) s
    | _ => none

/-- Words loaded by Efyon-S from rising addresses. -/
def State.pullWords : Nat → Nat → State → State × List Word × Access
  | 0, _, s => (s, [], .done 0 false)
  | n + 1, a, s =>
    match s.mainLoad a 4 with
    | (s, .done v _) => let (s, l, r) := State.pullWords n (a + 4) s; (s, w32 v :: l, r)
    | (s, r) => (s, [], r)

/-- What an entry saves: the return point, the repetitions left there, and the target where it is a delay slot. -/
structure Return where
  pc : Word
  rep : Nat := 0
  slot : Option Word := none

/-- CAUSE (R377). -/
def causeWord (vec src : Nat) (ds : Bool) : Word := w32 (vec * 2 ^ 24 + ds.toNat * 2 ^ 23 + src)

/-- The frame of R377 goes below a7: none for a misaligned a7 or a push that faults. -/
def State.pushFrame (s : State) (r : Return) (cause fa : Word) : Option State :=
  let c := s.dev.esc.core
  let a := (c.xr 7 - 48).toNat
  if (c.xr 7).toNat % 16 ≠ 0 then none
  else
    State.pushWords [r.pc, c.flags.zeroExtend 32, c.dr 31, c.lc, w32 r.rep, c.ctrl, cause, fa, r.slot.getD 0, 0, 0, 0] a s

/-- The core runs on at a vector, behind a frame. -/
def Dev.enterFrame (d : Dev) (h : Handler) (vec : Nat) (cause : Word) : Dev :=
  let e := d.esc
  let c := (e.core.setX 7 (e.core.xr 7 - 48)).setD 31 normalToken
  (d.setEsc { e with
    core := { c.fresh with pc := d.rd vbase + w32 (16 * vec) }
    halted := false, stack := h :: e.stack, entering := true, undo := none }).wr 0x1D050 cause

/-- An exception is taken: 1–5 record EXC, 6 MCHK; within a fast handler, or with a push that fails, it is a double fault. -/
def State.exception (s : State) (vec src : Nat) (fa : Word) (r : Return) : State :=
  let cause := causeWord vec src r.slot.isSome
  if s.dev.esc.inFast then s.doubleFault
  else
    match s.pushFrame r cause fa with
    | none => s.doubleFault
    | some s =>
      let d := (s.dev.enterFrame (.exc vec) vec cause).wr 0x1D054 r.pc |>.wr 0x1D058 fa
      { s with dev := if vec ≤ 5 then d.fault escPage 0 else if vec = 6 then d.fault escPage 3 else d }

/-! ### Interrupt entries (R377–R379, R396) -/

/-- The lowest fast source that requests entry. -/
def Dev.fastRequest (d : Dev) : Option Nat := (List.range 16).find? (fun i => d.ic.claimS.getLsbD i)
/-- The lowest normal source that is claimable. -/
def Dev.normalRequest (d : Dev) : Option Nat := d.ic.claimable .efyonS

/-- An interrupt may be taken: between instructions or repetitions, not before a delay slot, and not behind a SKIP or a prefix
alone (R351, R375, R376). -/
def Esc.boundary (e : Esc) : Bool :=
  let c := e.core
  e.running && e.load.isNone && c.slot.isNone && !c.skip && !(c.wait.isSome && c.waitDs) &&
    (c.pre.isNone || (match c.rep with | some (_ + 1) => true | _ => false))

/-- The interrupted instruction: a waiting WAITPH, a REP prefix, or the next instruction (R356, R381). A repetition that stands in a
delay slot keeps the jump's target (R376). -/
def Core.returnPoint (c : Core) : Return :=
  if c.wait.isSome then { pc := c.waitAt, rep := c.waitRep } else { pc := c.unitAt, rep := c.left, slot := c.slot }

/-- A wait stays armed through the handler (R356). -/
def Esc.keepWait (e : Esc) : Esc :=
  match e.core.wait with
  | some (m, t) => { e with waits := { pc := e.core.waitAt, mark := m, arm := t, level := e.stack.length } :: e.waits }
  | none => e

/-- What a takeover brings back. -/
def Esc.undoPoint (e : Esc) (frame : Option (Nat × List Byte)) : Undo :=
  { core := e.core, halted := e.halted, stack := e.stack, banks := e.banks, waits := e.waits, frame := frame }

/-- Where the CAUSE word of the frame at a7 lies in Lakebed. -/
def Dev.frameCause (d : Dev) : Option Nat := d.lakeSpan ((d.esc.core.xr 7).toNat + 24) 4

/-- Record the source of a normal entry in CAUSE. DS tells of the frame's return point, so it stays (R377, R380). -/
def State.recause (s : State) (src : Nat) : State :=
  let ds := match s.dev.frameCause with | some b => (Memory.byte s.mem (b + 2)).getLsbD 7 | none => false
  let cause := causeWord 32 src ds
  match s.mainStore ((s.dev.esc.core.xr 7).toNat + 24) 4 cause.toNat with
  | (s, .done _ _) =>
    let e := s.dev.esc
    { s with dev := (s.dev.setEsc { e with stack := .normal src :: e.stack.tail }).wr 0x1D050 cause }
  | _ => s.doubleFault

/-- A normal entry starts. -/
def State.normalGo (s : State) (src : Nat) : State :=
  let e := s.dev.esc
  let a := (e.core.xr 7 - 48).toNat
  let frame := (s.dev.lakeSpan a 48).map (fun b => (b, (List.range 48).map (fun i => Memory.byte s.mem (b + i))))
  let u := e.undoPoint frame
  let cause := causeWord 32 src false
  match s.pushFrame e.core.returnPoint cause 0 with
  | none => s.doubleFault
  | some s =>
    let d := (s.dev.setEsc s.dev.esc.keepWait).enterFrame (.normal src) 32 cause
    { s with dev := d.setEsc { d.esc with undo := some u } }

/-- The registers that a bank holds in place of d24–d31, a6 and a7 (R378). -/
def Core.bankRegs (c : Core) : SMap Word :=
  (List.range 10).foldl (fun m k => SMap.put 0 m k (if k < 8 then c.dr (24 + k) else c.xr (k - 2))) []
def Core.loadBank (c : Core) (m : SMap Word) : Core :=
  forRange 10 (fun k c => if k < 8 then c.setD (24 + k) (SMap.get 0 m k) else c.setX (k - 2) (SMap.get 0 m k)) c

/-- The core and source i's bank change places. -/
def Esc.swap (e : Esc) (i : Nat) : Esc :=
  let b := SMap.get {} e.banks i
  { e with core := { e.core.loadBank b.regs with flags := b.flags }
           banks := SMap.put {} e.banks i { b with regs := e.core.bankRegs, flags := e.core.flags } }

/-- A fast entry starts. EXC_LAST takes a CAUSE word of its vector and source, as at every entry (R389; DEDUCED,
notes/assumptions/16). -/
def Dev.fastGo (d : Dev) (i : Nat) : Dev :=
  let e := d.esc
  let u := e.undoPoint none
  let r := e.core.returnPoint
  let e := e.keepWait.swap i
  let b := SMap.get {} e.banks i
  (d.setEsc { e with
    core := { ((e.core.setD 31 fastToken).fresh) with pc := d.rd vbase + w32 (16 * (16 + i)) }
    banks := SMap.put {} e.banks i { b with retPc := r.pc, retRep := r.rep }
    halted := false, stack := .fast i :: e.stack, entering := true, undo := some u }).wr 0x1D050 (causeWord (16 + i) i false)

/-- A takeover abandons an entry in progress (R379); a wait that a firing has ended meanwhile is over. -/
def State.takeBack (s : State) (u : Undo) : State :=
  let e := s.dev.esc
  let fired := match e.waits with | w :: _ => w.fired | [] => false
  let core := if u.core.wait.isSome && fired then { u.core with wait := none } else u.core
  let mem := match u.frame with | some (b, bs) => Memory.puts bs b s.mem | none => s.mem
  { s with mem := mem
           dev := s.dev.setEsc { e with core := core, halted := u.halted, stack := u.stack, banks := u.banks, waits := u.waits,
                                        entering := false, undo := none } }

/-- A fast source enters (R378, R379). -/
def State.fastEntry (s : State) (i : Nat) : State :=
  let e := s.dev.esc
  if s.dev.fastRequest ≠ some i || !e.running then s
  else if !e.entering then
    if e.boundary && !e.inFast then { s with dev := s.dev.fastGo i } else s
  else
    match e.undo, e.stack with
    | some u, .normal _ :: _ => let s := s.takeBack u; { s with dev := s.dev.fastGo i }
    | some u, .fast j :: _ => if i < j then let s := s.takeBack u; { s with dev := s.dev.fastGo i } else s
    | _, _ => s

/-- A normal request enters, outside every handler; a lower number takes over a normal entry (R377, R379, R396). -/
def State.normalEntry (s : State) : State :=
  let e := s.dev.esc
  match s.dev.normalRequest with
  | none => s
  | some i =>
    if !e.running then s
    else if !e.entering then
      if e.boundary && e.stack == [] then s.normalGo i else s
    else
      match e.stack with
      | .normal j :: _ => if i < j then s.recause i else s
      | _ => s

/-- The first handler instruction issues: the entry is no longer in progress, a fast source is claimed unless the host has
claimed it meanwhile (R404), and a normal entry records the lowest claimable source (R379, R396). -/
def State.enterDone (s : State) : State :=
  let e := s.dev.esc
  if !e.entering then s
  else
    let s := { s with dev := s.dev.setEsc { e with entering := false, undo := none } }
    match e.stack with
    | .fast i :: _ => if s.dev.ic.claimS.getLsbD i then { s with dev := s.dev.claim i false } else s
    | .normal j :: _ =>
      match s.dev.normalRequest with
      | some i => if i = j then s else s.recause i
      | none => s
    | _ => s

/-! ### Exits (R380) -/

/-- A jump whose target R380 turns away: an exit token outside a handler of its kind, or another address of its range. -/
def Esc.badTarget (e : Esc) (t : Word) : Bool :=
  if t.toNat < 0xFFFFFF00 then false
  else if t = normalToken then !e.inNormal
  else if t = fastToken then !e.inFast
  else true

/-- A fast exit. -/
def Dev.fastExit (d : Dev) : Dev :=
  let e := d.esc
  match e.stack with
  | .fast i :: rest =>
    let b := SMap.get {} e.banks i
    let e := e.swap i
    d.setEsc { e with
      core := { e.core.fresh with pc := b.retPc, again := if b.retRep = 0 then none else some b.retRep }
      stack := rest }
  | _ => d

/-- The frame of a normal exit is popped. A load of it that fails is an exception whose return point is the exit again. -/
def State.popFrame (s : State) : State :=
  let a := s.dev.esc.core.xr 7
  let again : Return := { pc := normalToken }
  match State.pullWords 9 a.toNat s with
  | (s, [pc, flags, d31, lc, rep, ctrl, cause, _, tgt], .done _ _) =>
    let e := s.dev.esc
    let c := ((e.core.fresh).setD 31 d31).setX 7 (a + 48)
    { s with dev := s.dev.setEsc { e with
        core := { c with pc := pc, flags := flags.truncate 6, lc := lc, ctrl := ctrl &&& 1
                         again := if rep = 0 then none else some rep.toNat
                         slot := if bit cause 23 then some tgt else none }
        stack := e.stack.tail } }
  | (s, _, .align) => s.exception 3 0 a again
  | (s, _, .mchk) => s.exception 6 0 a again
  | (s, _, _) => s.exception 4 0 a again

/-- A normal exit: abandoned for a pending request, or the frame is popped. -/
def State.normalExit (s : State) : State :=
  let e := s.dev.esc
  match s.dev.fastRequest, s.dev.normalRequest with
  | some i, _ => { s with dev := s.dev.fastGo i }
  | none, some j =>
    if e.stack.tail == [] then
      let u := e.undoPoint (s.dev.frameCause.map (fun b => (b, (List.range 4).map (fun i => Memory.byte s.mem (b + i)))))
      let core := { (e.core.setD 31 normalToken).fresh with pc := s.dev.rd vbase + w32 (16 * 32) }
      ({ s with dev := s.dev.setEsc { e with core := core, stack := [.normal j], entering := true, undo := some u } } : State).recause j
    else s.popFrame
  | none, none => s.popFrame

/-- Exits whose token the PC has reached. -/
def State.land : Nat → State → State
  | 0, s => s
  | k + 1, s =>
    let e := s.dev.esc
    if e.core.pc = normalToken && e.inNormal then State.land k s.normalExit
    else if e.core.pc = fastToken && e.inFast then State.land k { s with dev := s.dev.fastExit }
    else s

/-! ### Issue on Efyon-S -/

/-- The fetch of Efyon-S at its PC fails: unmapped, misaligned, or an uncorrectable codeword (R376). -/
def State.mainFetchBad (s : State) (pc : Word) : Bool :=
  decide (pc.toNat % 4 ≠ 0) ||
    (match s.dev.lakeSpan pc.toNat 4 with
     | some b => s.dev.mainUe pc.toNat b 4 != []
     | none => true)

/-- The errors that a fetch met are counted. -/
def State.mainFetchUe (s : State) (pc : Word) : State :=
  match s.dev.lakeSpan pc.toNat 4 with
  | some b => { s with dev := s.dev.mainMeets pc.toNat b 4 }
  | none => s

/-- A WAITPH on Efyon-S: one that an interrupt left here, before the handlers now in progress, is over if it has fired, else it
waits on (R356). One that a handler left behind when it ended is forgotten. -/
def Dev.mainWait (d : Dev) (c : Core) (m : Nat) : Dev :=
  let e := d.esc
  let wait := fun (t : Time) (ws : List LeftWait) =>
    d.setEsc { e with waits := ws, core := { e.core with wait := some (m, t), waitAt := c.unitAt, waitRep := c.left,
                                                         waitDs := c.slot.isSome } }
  match e.waits.dropWhile (fun w => decide (e.stack.length < w.level)) with
  | w :: ws =>
    if w.level = e.stack.length ∧ w.pc = c.unitAt ∧ w.mark = m then
      (if w.fired then d.setEsc { e with waits := ws } else wait w.arm ws)
    else wait d.armCycle (w :: ws)
  | [] => wait d.armCycle []

/-- What an execution asks for beside its writes; `s` is the state before it, with core `c`. -/
def State.mainEvent (s : State) (c : Core) (o : Out) : State :=
  let here : Return := { pc := c.unitAt, rep := c.left, slot := c.slot }
  let back : State := { o.s with dev := o.s.dev.setCore .main c }
  let e := o.s.dev.esc
  let on := fun (x : Esc) => ({ o.s with dev := o.s.dev.setEsc x } : State)
  match o.ev with
  | .done | .memUe => State.land 4 o.s
  | .jump t => if e.badTarget t then s.exception 4 0 t here else on { e with core := { e.core with slot := some t } }
  | .skip => on { e with core := { e.core with skip := true } }
  | .bus a => back.exception 4 0 a here
  | .align a => back.exception 3 0 a here
  | .mchk a => back.exception 6 0 a here
  | .trap n => o.s.exception (64 + n) n 0 e.core.returnPoint
  | .divZero => o.s.exception 2 0 0 e.core.returnPoint
  | .halt => State.land 4 (on { e with halted := true })
  | .wait m => State.land 4 { o.s with dev := o.s.dev.mainWait c m }
  | .load reg k n signed => on { e with load := some (reg, k, n, signed) }

/-- Efyon-S executes one instruction, or one repetition of it. -/
def State.mainIssue (s : State) (op : Op) : State :=
  let s := s.enterDone
  let c := s.dev.esc.core
  let here : Return := { pc := c.unitAt, rep := c.left, slot := c.slot }
  let past := fun (c : Core) => ({ s with dev := s.dev.setCore .main c } : State)
  if c.skip then past c.pass
  else if s.mainFetchBad c.pc then (s.mainFetchUe c.pc).exception 5 0 c.pc here
  else if op.bad c || (op.noRep && c.rep.isSome) then s.exception 1 0 0 here
  else if c.rep = some 0 then State.land 4 (past c.pass)
  else
    let o := op.run .main c (past c.retire)
    if o.ill then s.exception 1 0 0 here else s.mainEvent c o

/-! ### Issue -/

/-- A core can issue: a context in RUN that waits for no mark; Efyon-S when it runs, is not stopped and waits for nothing. The
other waits of R362 end by themselves, so that an instruction command stands for the issue at their end (DESIGN CHOICE,
notes/assumptions/104). -/
def Dev.ready (d : Dev) : CoreId → Bool
  | .main => d.esc.running && !d.esc.monHalt && !d.esc.halted && d.esc.core.wait.isNone && d.esc.load.isNone
  | .seq x => d.ust (.ctx x.val) == .run && (d.ctx x.val).wait.isNone

def State.issueRaw (s : State) (e : CoreId) (op : Op) : State :=
  match e with
  | .main => s.mainIssue op
  | .seq x => s.seqIssue x op

/-- The end of a command that changed Lakebed and the device. -/
def State.finish (s : State) : State := State.loads { s with dev := s.dev.close }

/-- A core issues an instruction. -/
def State.issue (s : State) (e : CoreId) (op : Op) : State :=
  if s.dev.alive && s.dev.ready e then (s.issueRaw e op).finish else s

/-! ### Prefixes (R335, R350–R352) -/

/-- A core reads a prefix. `f` gives the core after it; REP behind REP is illegal, and so is any prefix behind IMX. -/
def State.prefixRaw (s : State) (e : CoreId) (rep : Bool) (f : Core → Core) : State :=
  let s := match e with | .main => s.enterDone | .seq _ => s
  let c := s.dev.core e
  let nop : Op := { ok := false, run := fun _ _ s => { s := s } }
  let next := fun (c : Core) => { f c with pre := some c.unitAt, pc := c.pc + 4 }
  if c.imx.isSome then s.issueRaw e nop
  else
    match e with
    | .main =>
      if s.mainFetchBad c.pc && !c.skip || (rep && c.rep.isSome && !c.skip) then s.issueRaw e nop
      else { s with dev := s.dev.setCore e (next c) }
    | .seq x =>
      if s.dev.seqFetchBad x.val c.pc then { s with dev := s.dev.seqFetchFault x.val c.pc }
      else if rep && c.rep.isSome && !c.skip then
        -- REP may not prefix REP: the second acts alone
        { s with dev := (s.dev.setCore e (next { c with pre := none })).seqIll x.val c.unitAt }
      else { s with dev := s.dev.setCore e (next c) }

def State.prefixed (s : State) (e : CoreId) (rep : Bool) (f : Core → Core) : State :=
  if s.dev.alive && s.dev.ready e then (s.prefixRaw e rep f).finish else s

/-- REP with a count, or with the count that an interrupt left (R381). -/
def Core.repeats (c : Core) (n : Nat) : Core := { c with rep := some (c.again.getD n), again := none }

end Sys2Proof.Machine
end

