-- ==== Sys2Proof/Machine/EfyonAlu.lean ====
section
/-! DEFINITION. The ALU group of the Efyon instructions (R339): what each computes, and the meanings of its commands. -/

namespace Sys2Proof.Machine

/-! ### Operations -/

/-- A result from two data registers, and from the flags. -/
def op3 (f : Core → Word → Word → Res) (rd ra rb : Nat) : Op :=
  { run := fun e c s => { s := s.putRes e c rd (f c (c.dr ra) (c.dr rb)) } }

/-- A result from one data register. -/
def op2 (f : Word → Res) (rd ra : Nat) : Op := op3 (fun _ a _ => f a) rd ra 0

def opAdd (rd ra rb : Nat) : Op := op3 (fun _ a b => addRes a b false) rd ra rb
def opAddc (rd ra rb : Nat) : Op := op3 (fun c a b => addRes a b (c.flag 2)) rd ra rb
def opSub (rd ra rb : Nat) : Op := op3 (fun _ a b => subRes a b false) rd ra rb
def opSubc (rd ra rb : Nat) : Op := op3 (fun c a b => subRes a b (!c.flag 2)) rd ra rb
def opAdds (rd ra rb : Nat) : Op := op3 (fun _ a b => satSum (a.toInt + b.toInt)) rd ra rb
def opSubs (rd ra rb : Nat) : Op := op3 (fun _ a b => satSum (a.toInt - b.toInt)) rd ra rb
def opNeg (rd ra : Nat) : Op := op2 (fun a => subRes 0 a false) rd ra
def opNegs (rd ra : Nat) : Op := op2 (fun a => satSum (-a.toInt)) rd ra
def opAbs (rd ra : Nat) : Op := op2 absRes rd ra
def opAbss (rd ra : Nat) : Op := op2 (fun a => satSum a.toInt.natAbs) rd ra
def opCmp (ra rb : Nat) : Op := op3 (fun _ a b => subRes a b false) 0 ra rb
def opMin (rd ra rb : Nat) : Op := op3 (fun _ a b => minRes a b) rd ra rb
def opMax (rd ra rb : Nat) : Op := op3 (fun _ a b => maxRes a b) rd ra rb
def opMinu (rd ra rb : Nat) : Op := op3 (fun _ a b => minuRes a b) rd ra rb
def opMaxu (rd ra rb : Nat) : Op := op3 (fun _ a b => maxuRes a b) rd ra rb
def opAnd (rd ra rb : Nat) : Op := op3 (fun _ a b => logicRes (a &&& b)) rd ra rb
def opOr (rd ra rb : Nat) : Op := op3 (fun _ a b => logicRes (a ||| b)) rd ra rb
def opXor (rd ra rb : Nat) : Op := op3 (fun _ a b => logicRes (a ^^^ b)) rd ra rb
def opAndn (rd ra rb : Nat) : Op := op3 (fun _ a b => logicRes (a &&& ~~~b)) rd ra rb
def opTst (ra rb : Nat) : Op := op3 (fun _ a b => logicRes (a &&& b)) 0 ra rb
def opShl (rd ra rb : Nat) : Op := op3 (fun _ a b => shlRes a (fld b 7 0)) rd ra rb
def opShr (rd ra rb : Nat) : Op := op3 (fun _ a b => shrRes a (fld b 7 0)) rd ra rb
def opSar (rd ra rb : Nat) : Op := op3 (fun _ a b => sarRes a (fld b 7 0)) rd ra rb
def opRor (rd ra rb : Nat) : Op := op3 (fun _ a b => rorRes a (fld b 7 0)) rd ra rb
def opRol (rd ra rb : Nat) : Op := op3 (fun _ a b => rolRes a (fld b 7 0)) rd ra rb
def opClz (rd ra : Nat) : Op := op2 (fun a => .of (w32 (clz a))) rd ra
def opPopc (rd ra : Nat) : Op := op2 (fun a => .of (w32 (bitCount a))) rd ra
def opBrev (rd ra : Nat) : Op := op2 (fun a => .of (brev a)) rd ra
def opSextb (rd ra : Nat) : Op := op2 (fun a => .of (extend 1 true (fld a 7 0))) rd ra
def opSexth (rd ra : Nat) : Op := op2 (fun a => .of (extend 2 true (fld a 15 0))) rd ra
def opZextb (rd ra : Nat) : Op := op2 (fun a => .of (extend 1 false (fld a 7 0))) rd ra
def opZexth (rd ra : Nat) : Op := op2 (fun a => .of (extend 2 false (fld a 15 0))) rd ra

/-! ### Meanings -/

def execAdd (e : CoreId) (rd ra rb : Reg) (s : State) : Host.Outcome State Fault Refusal :=
  .next (s.issue e (opAdd rd.val ra.val rb.val))

def execAddc (e : CoreId) (rd ra rb : Reg) (s : State) : Host.Outcome State Fault Refusal :=
  .next (s.issue e (opAddc rd.val ra.val rb.val))

def execSub (e : CoreId) (rd ra rb : Reg) (s : State) : Host.Outcome State Fault Refusal :=
  .next (s.issue e (opSub rd.val ra.val rb.val))

def execSubc (e : CoreId) (rd ra rb : Reg) (s : State) : Host.Outcome State Fault Refusal :=
  .next (s.issue e (opSubc rd.val ra.val rb.val))

def execAdds (e : CoreId) (rd ra rb : Reg) (s : State) : Host.Outcome State Fault Refusal :=
  .next (s.issue e (opAdds rd.val ra.val rb.val))

def execSubs (e : CoreId) (rd ra rb : Reg) (s : State) : Host.Outcome State Fault Refusal :=
  .next (s.issue e (opSubs rd.val ra.val rb.val))

def execNeg (e : CoreId) (rd ra : Reg) (s : State) : Host.Outcome State Fault Refusal :=
  .next (s.issue e (opNeg rd.val ra.val))

def execNegs (e : CoreId) (rd ra : Reg) (s : State) : Host.Outcome State Fault Refusal :=
  .next (s.issue e (opNegs rd.val ra.val))

def execAbs (e : CoreId) (rd ra : Reg) (s : State) : Host.Outcome State Fault Refusal :=
  .next (s.issue e (opAbs rd.val ra.val))

def execAbss (e : CoreId) (rd ra : Reg) (s : State) : Host.Outcome State Fault Refusal :=
  .next (s.issue e (opAbss rd.val ra.val))

def execCmp (e : CoreId) (ra rb : Reg) (s : State) : Host.Outcome State Fault Refusal :=
  .next (s.issue e (opCmp ra.val rb.val))

def execMin (e : CoreId) (rd ra rb : Reg) (s : State) : Host.Outcome State Fault Refusal :=
  .next (s.issue e (opMin rd.val ra.val rb.val))

def execMax (e : CoreId) (rd ra rb : Reg) (s : State) : Host.Outcome State Fault Refusal :=
  .next (s.issue e (opMax rd.val ra.val rb.val))

def execMinu (e : CoreId) (rd ra rb : Reg) (s : State) : Host.Outcome State Fault Refusal :=
  .next (s.issue e (opMinu rd.val ra.val rb.val))

def execMaxu (e : CoreId) (rd ra rb : Reg) (s : State) : Host.Outcome State Fault Refusal :=
  .next (s.issue e (opMaxu rd.val ra.val rb.val))

def execAnd (e : CoreId) (rd ra rb : Reg) (s : State) : Host.Outcome State Fault Refusal :=
  .next (s.issue e (opAnd rd.val ra.val rb.val))

def execOr (e : CoreId) (rd ra rb : Reg) (s : State) : Host.Outcome State Fault Refusal :=
  .next (s.issue e (opOr rd.val ra.val rb.val))

def execXor (e : CoreId) (rd ra rb : Reg) (s : State) : Host.Outcome State Fault Refusal :=
  .next (s.issue e (opXor rd.val ra.val rb.val))

def execAndn (e : CoreId) (rd ra rb : Reg) (s : State) : Host.Outcome State Fault Refusal :=
  .next (s.issue e (opAndn rd.val ra.val rb.val))

def execTst (e : CoreId) (ra rb : Reg) (s : State) : Host.Outcome State Fault Refusal :=
  .next (s.issue e (opTst ra.val rb.val))

def execShl (e : CoreId) (rd ra rb : Reg) (s : State) : Host.Outcome State Fault Refusal :=
  .next (s.issue e (opShl rd.val ra.val rb.val))

def execShr (e : CoreId) (rd ra rb : Reg) (s : State) : Host.Outcome State Fault Refusal :=
  .next (s.issue e (opShr rd.val ra.val rb.val))

def execSar (e : CoreId) (rd ra rb : Reg) (s : State) : Host.Outcome State Fault Refusal :=
  .next (s.issue e (opSar rd.val ra.val rb.val))

def execRor (e : CoreId) (rd ra rb : Reg) (s : State) : Host.Outcome State Fault Refusal :=
  .next (s.issue e (opRor rd.val ra.val rb.val))

def execRol (e : CoreId) (rd ra rb : Reg) (s : State) : Host.Outcome State Fault Refusal :=
  .next (s.issue e (opRol rd.val ra.val rb.val))

def execClz (e : CoreId) (rd ra : Reg) (s : State) : Host.Outcome State Fault Refusal :=
  .next (s.issue e (opClz rd.val ra.val))

def execPopc (e : CoreId) (rd ra : Reg) (s : State) : Host.Outcome State Fault Refusal :=
  .next (s.issue e (opPopc rd.val ra.val))

def execBrev (e : CoreId) (rd ra : Reg) (s : State) : Host.Outcome State Fault Refusal :=
  .next (s.issue e (opBrev rd.val ra.val))

def execSextb (e : CoreId) (rd ra : Reg) (s : State) : Host.Outcome State Fault Refusal :=
  .next (s.issue e (opSextb rd.val ra.val))

def execSexth (e : CoreId) (rd ra : Reg) (s : State) : Host.Outcome State Fault Refusal :=
  .next (s.issue e (opSexth rd.val ra.val))

def execZextb (e : CoreId) (rd ra : Reg) (s : State) : Host.Outcome State Fault Refusal :=
  .next (s.issue e (opZextb rd.val ra.val))

def execZexth (e : CoreId) (rd ra : Reg) (s : State) : Host.Outcome State Fault Refusal :=
  .next (s.issue e (opZexth rd.val ra.val))


end Sys2Proof.Machine
end

