-- ==== Sys2Proof/Machine/EfyonControl.lean ====
section
/-! DEFINITION. The control group of the Efyon instructions, branches, WAITPH and the prefixes (R332, R335, R338, R347–R352,
R355, R356). -/

namespace Sys2Proof.Machine

/-! ### Operations -/

def opNop : Op := { run := fun _ _ s => { s := s } }

/-- A jump to a target that the core's registers give. -/
def opJump (link : Option Nat) (target : Core → Word) : Op :=
  { noRep := true, jump := true
    run := fun e c s => { s := match link with | some rd => s.put e c rd (c.pc + 8) | none => s
                          ev := .jump (target c) } }

def opJr (ra : Nat) : Op := opJump none (·.dr ra)
def opJalr (rd ra : Nat) : Op := opJump (some rd) (·.dr ra)

/-- The target of BR and CALL: DISP counts instructions. -/
def Core.branch (c : Core) (disp : BitVec 26) : Word := c.pc + disp.signExtend 32 * 4

def opBr (disp : BitVec 26) : Op := opJump none (·.branch disp)
def opCall (disp : BitVec 26) : Op := opJump (some 31) (·.branch disp)

def opMovx (x ra : Nat) : Op := { run := fun e c s => { s := s.put e c (regX x) (c.dr ra) 2 } }
def opMovfx (rd x : Nat) : Op := { run := fun e c s => { s := s.put e c rd (c.xr x) } }

/-- CTXID (R332). -/
def ctxId : CoreId → Word
  | .main => 0x80000000
  | .seq x => w32 x.val

/-- A special register is written (R332): lc, FLAGS, CTRL on Efyon-S; CTXID, LT_LO and LT_HI ignore writes. -/
def State.putSpecial (s : State) (e : CoreId) (c : Core) (x : Nat) (v : Word) : State :=
  match x, e with
  | 0, _ => s.put e c regLc v 2
  | 1, _ => s.put e c regFlags v 1 0x3F
  | 2, .main => { s with dev := s.dev.setCore e { s.dev.core e with ctrl := v &&& 1 } }
  | _, _ => s

def opMovs (x ra : Nat) : Op := { run := fun e c s => { s := s.putSpecial e c x (c.dr ra) } }

/-- A special register is read; LT_LO and LT_HI act as the path's reads of LTIME (R72, R332). -/
def Dev.special (d : Dev) (e : CoreId) (c : Core) (x : Nat) : Dev × Word :=
  match x with
  | 0 => (d, c.lc)
  | 1 => (d, c.flags.zeroExtend 32)
  | 2 => (d, match e with | .main => c.ctrl | .seq _ => 0)
  | 3 => (d, ctxId e)
  | 4 => d.regRead (corePath e) 0x2060
  | _ => d.regRead (corePath e) 0x2064

def opMovfs (rd x : Nat) : Op :=
  { run := fun e c s =>
      let (d, v) := s.dev.special e c x
      { s := ({ s with dev := d } : State).put e c rd v } }

/-- SYNC: a context is not ready until its earlier writes have taken effect (R362). -/
def opSync : Op := { run := fun e _ s => { s := s.updCore e (·.syncs s.dev.now) } }
def opHalt : Op := { run := fun _ _ s => { s := s, ev := .halt } }
def opTrap (n : Nat) : Op := { run := fun _ _ s => { s := s, ev := .trap n } }
def opWaitph (m : Nat) : Op := { run := fun _ _ s => { s := s, ev := .wait m } }
def opSkip (cc : Nat) : Op :=
  { noRep := true, jump := true
    run := fun _ c s => { s := s, ev := if condHolds c.flags cc then .skip else .done } }

/-! ### Meanings -/

def execNop (e : CoreId) (s : State) : Host.Outcome State Fault Refusal :=
  .next (s.issue e opNop)

def execJr (e : CoreId) (ra : Reg) (s : State) : Host.Outcome State Fault Refusal :=
  .next (s.issue e (opJr ra.val))

def execJalr (e : CoreId) (rd ra : Reg) (s : State) : Host.Outcome State Fault Refusal :=
  .next (s.issue e (opJalr rd.val ra.val))

def execMovx (e : CoreId) (x : PReg) (ra : Reg) (s : State) : Host.Outcome State Fault Refusal :=
  .next (s.issue e (opMovx x.val ra.val))

def execMovfx (e : CoreId) (rd : Reg) (x : PReg) (s : State) : Host.Outcome State Fault Refusal :=
  .next (s.issue e (opMovfx rd.val x.val))

def execMovs (e : CoreId) (x : SReg) (ra : Reg) (s : State) : Host.Outcome State Fault Refusal :=
  .next (s.issue e (opMovs x.val ra.val))

def execMovfs (e : CoreId) (rd : Reg) (x : SReg) (s : State) : Host.Outcome State Fault Refusal :=
  .next (s.issue e (opMovfs rd.val x.val))

def execSync (e : CoreId) (s : State) : Host.Outcome State Fault Refusal :=
  .next (s.issue e opSync)

def execHalt (e : CoreId) (s : State) : Host.Outcome State Fault Refusal :=
  .next (s.issue e opHalt)

def execTrap (e : CoreId) (n : Fin 32) (s : State) : Host.Outcome State Fault Refusal :=
  .next (s.issue e (opTrap n.val))

def execSkip (e : CoreId) (cc : Cond) (s : State) : Host.Outcome State Fault Refusal :=
  .next (s.issue e (opSkip cc.val))

def execWaitph (e : CoreId) (m : Mark) (s : State) : Host.Outcome State Fault Refusal :=
  .next (s.issue e (opWaitph m.val))

def execBr (e : CoreId) (disp : BitVec 26) (s : State) : Host.Outcome State Fault Refusal :=
  .next (s.issue e (opBr disp))

def execCall (e : CoreId) (disp : BitVec 26) (s : State) : Host.Outcome State Fault Refusal :=
  .next (s.issue e (opCall disp))

def execRepN (e : CoreId) (n : Fin 256) (s : State) : Host.Outcome State Fault Refusal :=
  .next (s.prefixed e true (·.repeats (n.val + 1)))

def execRepLc (e : CoreId) (s : State) : Host.Outcome State Fault Refusal :=
  .next (s.prefixed e true (fun c => c.repeats c.lc.toNat))

def execImx (e : CoreId) (v : BitVec 16) (s : State) : Host.Outcome State Fault Refusal :=
  .next (s.prefixed e false (fun c => { c with imx := some v }))

end Sys2Proof.Machine
end

