-- ==== Sys2Proof/Machine/EfyonEntry.lean ====
section
/-! DEFINITION. Meanings of the interrupt entries of Efyon-S (R377–R379, R396). -/

namespace Sys2Proof.Machine

def execFastInterruptEntry (i : Fin 16) (s : State) : Host.Outcome State Fault Refusal :=
  .next (if s.dev.alive && !s.dev.esc.monHalt then (s.fastEntry i.val).finish else s)

def execNormalInterruptEntry (s : State) : Host.Outcome State Fault Refusal :=
  .next (if s.dev.alive && !s.dev.esc.monHalt then s.normalEntry.finish else s)

end Sys2Proof.Machine
end

