-- ==== Sys2Proof/Machine/EfyonImm.lean ====
section
/-! DEFINITION. The immediate instructions of Efyon (R335, R341). -/

namespace Sys2Proof.Machine

/-! ### Operations -/

/-- The immediate: IMX's value above it, else extended by its sign or with zeros. -/
def Core.immS (c : Core) (i : BitVec 16) : Word := match c.imx with | some h => h ++ i | none => i.signExtend 32
def Core.immZ (c : Core) (i : BitVec 16) : Word := match c.imx with | some h => h ++ i | none => i.zeroExtend 32

/-- A result from a data register and an immediate. -/
def opI (f : Word → Word → Res) (imm : Core → Word) (rd ra : Nat) : Op :=
  { imm := true, run := fun e c s => { s := s.putRes e c rd (f (c.dr ra) (imm c)) } }

def opAddi (rd ra : Nat) (i : BitVec 16) : Op := opI (fun a b => addRes a b false) (·.immS i) rd ra
def opAddsi (rd ra : Nat) (i : BitVec 16) : Op := opI (fun a b => satSum (a.toInt + b.toInt)) (·.immS i) rd ra
def opAndi (rd ra : Nat) (i : BitVec 16) : Op := opI (fun a b => logicRes (a &&& b)) (·.immZ i) rd ra
def opOri (rd ra : Nat) (i : BitVec 16) : Op := opI (fun a b => logicRes (a ||| b)) (·.immZ i) rd ra
def opXori (rd ra : Nat) (i : BitVec 16) : Op := opI (fun a b => logicRes (a ^^^ b)) (·.immZ i) rd ra
def opCmpi (ra : Nat) (i : BitVec 16) : Op := opI (fun a b => subRes a b false) (·.immS i) 0 ra
def opMovi (rd : Nat) (i : BitVec 16) : Op :=
  { imm := true, run := fun e c s => { s := s.put e c rd (c.immS i) } }

def opShli (rd ra : Nat) (k : BitVec 8) : Op := op2 (fun a => shlRes a k.toNat) rd ra
def opShri (rd ra : Nat) (k : BitVec 8) : Op := op2 (fun a => shrRes a k.toNat) rd ra
def opSari (rd ra : Nat) (k : BitVec 8) : Op := op2 (fun a => sarRes a k.toNat) rd ra
def opRori (rd ra : Nat) (k : BitVec 8) : Op := op2 (fun a => rorRes a k.toNat) rd ra

/-! ### Meanings -/

def execAddi (e : CoreId) (rd ra : Reg) (imm : BitVec 16) (s : State) : Host.Outcome State Fault Refusal :=
  .next (s.issue e (opAddi rd.val ra.val imm))

def execAddsi (e : CoreId) (rd ra : Reg) (imm : BitVec 16) (s : State) : Host.Outcome State Fault Refusal :=
  .next (s.issue e (opAddsi rd.val ra.val imm))

def execAndi (e : CoreId) (rd ra : Reg) (imm : BitVec 16) (s : State) : Host.Outcome State Fault Refusal :=
  .next (s.issue e (opAndi rd.val ra.val imm))

def execOri (e : CoreId) (rd ra : Reg) (imm : BitVec 16) (s : State) : Host.Outcome State Fault Refusal :=
  .next (s.issue e (opOri rd.val ra.val imm))

def execXori (e : CoreId) (rd ra : Reg) (imm : BitVec 16) (s : State) : Host.Outcome State Fault Refusal :=
  .next (s.issue e (opXori rd.val ra.val imm))

def execCmpi (e : CoreId) (ra : Reg) (imm : BitVec 16) (s : State) : Host.Outcome State Fault Refusal :=
  .next (s.issue e (opCmpi ra.val imm))

def execMovi (e : CoreId) (rd : Reg) (imm : BitVec 16) (s : State) : Host.Outcome State Fault Refusal :=
  .next (s.issue e (opMovi rd.val imm))

def execShli (e : CoreId) (rd ra : Reg) (amt : BitVec 8) (s : State) : Host.Outcome State Fault Refusal :=
  .next (s.issue e (opShli rd.val ra.val amt))

def execShri (e : CoreId) (rd ra : Reg) (amt : BitVec 8) (s : State) : Host.Outcome State Fault Refusal :=
  .next (s.issue e (opShri rd.val ra.val amt))

def execSari (e : CoreId) (rd ra : Reg) (amt : BitVec 8) (s : State) : Host.Outcome State Fault Refusal :=
  .next (s.issue e (opSari rd.val ra.val amt))

def execRori (e : CoreId) (rd ra : Reg) (amt : BitVec 8) (s : State) : Host.Outcome State Fault Refusal :=
  .next (s.issue e (opRori rd.val ra.val amt))


end Sys2Proof.Machine
end

