-- ==== Sys2Proof/Machine/EfyonMem.lean ====
section
/-! DEFINITION. The memory instructions of Efyon (R342, R343, R346). -/

namespace Sys2Proof.Machine

/-! ### Operations -/

/-- The effective address of a mode (R343). -/
def Core.ea (c : Core) (p am : Nat) (simm : BitVec 12) : Word := if am = 0 then c.xr p + simm.signExtend 32 else c.xr p

/-- A pointer takes its new value, at distance 1 (R363). -/
def State.putPtr (s : State) (e : CoreId) (c : Core) (p : Nat) (v : Option Word) : State :=
  match v with
  | some v => s.put e c (regX p) v
  | none => s

/-- What an access that did not go through asks for. -/
def Access.ev (r : Access) (a : Word) : Ev :=
  match r with
  | .bus => .bus a
  | .align => .align a
  | .mchk => .mchk a
  | .done _ true => .memUe
  | _ => .done

/-- Modes 1 and 3 do not use SIMM, which is reserved there (R333, R336, R343). -/
def simmOk (am : Nat) (simm : BitVec 12) : Bool := am == 0 || am == 2 || simm == 0

/-- A load of 2^g bytes into a register, numbered as in PendW; the loaded value wins over the update (R346). -/
def opLoadTo (reg p am g : Nat) (signed : Bool) (simm : BitVec 12) : Op :=
  { ok := simmOk am simm
    run := fun e c s =>
      let a := c.ea p am simm
      let (upd, bad) := c.ptrNext p am simm.toInt g
      if bad && decide (e = .main) then { s := s, ill := true }
      else
        match (s.putPtr e c p (if reg = regX p then none else upd)).loadAt e a (2 ^ g) with
        | (s, .done v ue) => { s := s.put e c reg (extend (2 ^ g) signed v) 3, ev := Access.ev (.done v ue) a, ill := bad }
        | (s, .wait) => { s := s, ev := .load reg (a.toNat % 4) (2 ^ g) signed, ill := bad }
        | (s, r) => { s := s, ev := r.ev a, ill := bad } }

/-- A store of the low 2^g bytes of a value; the pointer before the update is stored (R346). -/
def opStoreFrom (val : Core → Word) (p am g : Nat) (simm : BitVec 12) : Op :=
  { ok := simmOk am simm
    run := fun e c s =>
      let a := c.ea p am simm
      let (upd, bad) := c.ptrNext p am simm.toInt g
      if bad && decide (e = .main) then { s := s, ill := true }
      else
        let (s, r) := (s.putPtr e c p upd).storeAt e a (2 ^ g) (val c)
        { s := s, ev := r.ev a, ill := bad } }

def opLd (rd p am : Nat) (z : Size) (simm : BitVec 12) : Op := opLoadTo rd p am (sizeLog z) true simm
def opLdu (rd p am : Nat) (z : Size) (simm : BitVec 12) : Op := opLoadTo rd p am (sizeLog z) false simm
def opSt (rd p am : Nat) (z : Size) (simm : BitVec 12) : Op := opStoreFrom (·.dr rd) p am (sizeLog z) simm
def opLdx (x p am : Nat) (simm : BitVec 12) : Op := opLoadTo (regX x) p am 2 false simm
def opStx (x p am : Nat) (simm : BitVec 12) : Op := opStoreFrom (·.xr x) p am 2 simm

/-- An operand of MAC2. Behind the proxy window another device answers: a value that the spec leaves open. -/
def State.macLoad (s : State) (e : CoreId) (a : Word) (n : Nat) : State × Access :=
  match s.loadAt e a n with
  | (s, .wait) =>
    ({ s with dev := s.dev.updVl (fun v => { v with proxy := v.proxy.erase (Path.num .efyonS) }) },
      .done (part (Config.proxyWord (a.toNat - regSpace) s.dev.now.toNat) (a.toNat % 4) n) false)
  | r => r

/-- acc ← acc + memory(aP) × memory(aQ), both signed; P = Q is illegal. -/
def opMac2 (acc p q amp amq : Nat) (word : Bool) : Op :=
  let g := if word then 2 else 1
  { ok := p != q
    run := fun e c s =>
      let (up, badP) := c.ptrNext p (macMode amp) 0 g
      let (uq, badQ) := c.ptrNext q (macMode amq) 0 g
      let bad := badP || badQ
      if bad && decide (e = .main) then { s := s, ill := true }
      else
        let s := (s.putPtr e c p up).putPtr e c q uq
        match s.macLoad e (c.xr p) (2 ^ g) with
        | (s, .done v ue) =>
          match s.macLoad e (c.xr q) (2 ^ g) with
          | (s, .done w ue') =>
            let x := (c.ar acc).toInt + sext (8 * 2 ^ g) v * sext (8 * 2 ^ g) w
            { s := s.putAcc e acc (BitVec.ofInt 72 x), ev := if ue || ue' then .memUe else .done, ill := bad }
          | (s, r) => { s := s, ev := r.ev (c.xr q), ill := bad }
        | (s, r) => { s := s, ev := r.ev (c.xr p), ill := bad } }

/-! ### Meanings -/

def execLd (e : CoreId) (rd : Reg) (p : Ptr) (am : Fin 4) (sz : Size) (simm : BitVec 12) (s : State) : Host.Outcome State Fault Refusal :=
  .next (s.issue e (opLd rd.val p.val am.val sz simm))

def execLdu (e : CoreId) (rd : Reg) (p : Ptr) (am : Fin 4) (sz : Size) (simm : BitVec 12) (s : State) : Host.Outcome State Fault Refusal :=
  .next (s.issue e (opLdu rd.val p.val am.val sz simm))

def execSt (e : CoreId) (rd : Reg) (p : Ptr) (am : Fin 4) (sz : Size) (simm : BitVec 12) (s : State) : Host.Outcome State Fault Refusal :=
  .next (s.issue e (opSt rd.val p.val am.val sz simm))

def execLdx (e : CoreId) (x : PReg) (p : Ptr) (am : Fin 4) (simm : BitVec 12) (s : State) : Host.Outcome State Fault Refusal :=
  .next (s.issue e (opLdx x.val p.val am.val simm))

def execStx (e : CoreId) (x : PReg) (p : Ptr) (am : Fin 4) (simm : BitVec 12) (s : State) : Host.Outcome State Fault Refusal :=
  .next (s.issue e (opStx x.val p.val am.val simm))

def execMac2 (e : CoreId) (acc : AccIx) (p q : Ptr) (amp amq : Fin 3) (word : Bool) (s : State) : Host.Outcome State Fault Refusal :=
  .next (s.issue e (opMac2 acc.val p.val q.val amp.val amq.val word))


end Sys2Proof.Machine
end

