-- ==== Sys2Proof/Machine/EfyonMul.lean ====
section
/-! DEFINITION. The multiply, accumulate and divide group of the Efyon instructions (R340, R357, R359). -/

namespace Sys2Proof.Machine

/-! ### Operations -/

/-- A product to a data register: visible at distance 2, its flags at 1 (R347, R363). -/
def opProduct (f : Word → Word → Res) (rd ra rb : Nat) : Op :=
  { run := fun e c s => { s := s.putRes e c rd (f (c.dr ra) (c.dr rb)) 2 } }

def opMul (rd ra rb : Nat) : Op := opProduct mulRes rd ra rb
def opMulh (rd ra rb : Nat) : Op := opProduct mulhRes rd ra rb
def opMulhu (rd ra rb : Nat) : Op := opProduct mulhuRes rd ra rb
def opMulq (rd ra rb : Nat) : Op := opProduct mulqRes rd ra rb

/-- A new accumulator value, modulo 2⁷². -/
def opAcc (f : Int → Word → Word → Int) (acc ra rb : Nat) : Op :=
  { run := fun e c s => { s := s.putAcc e acc (BitVec.ofInt 72 (f (c.ar acc).toInt (c.dr ra) (c.dr rb))) } }

def opMac (acc ra rb : Nat) : Op := opAcc (fun x a b => x + a.toInt * b.toInt) acc ra rb
def opMsu (acc ra rb : Nat) : Op := opAcc (fun x a b => x - a.toInt * b.toInt) acc ra rb
def opMacu (acc ra rb : Nat) : Op := opAcc (fun x a b => x + a.toNat * b.toNat) acc ra rb
def opClra (acc : Nat) : Op := opAcc (fun _ _ _ => 0) acc 0 0
def opMta (acc ra rb : Nat) : Op := opAcc (fun _ a b => b.toInt * 2 ^ 32 + a.toNat) acc ra rb

def opMova (rd acc k : Nat) : Op :=
  { run := fun e c s => { s := s.put e c rd ((c.ar acc >>> k).truncate 32) 2 } }
def opMovas (rd acc k : Nat) : Op :=
  { run := fun e c s => { s := s.putRes e c rd (movasRes (c.ar acc) k) 2 } }

/-- A division; by 0 with TRAPDZ it traps on Efyon-S once it has written its result (R359). A context waits 16 CK_SEQ behind it
(R362). -/
def opDivide (f : Word → Word → Res) (rd ra rb : Nat) : Op :=
  { run := fun e c s => { s := (s.putRes e c rd (f (c.dr ra) (c.dr rb))).updCore e (·.waitsFor 2 s.dev.now 16)
                          ev := if e = .main ∧ c.dr rb = 0 ∧ bit c.ctrl 0 then .divZero else .done } }

def opDiv (rd ra rb : Nat) : Op := opDivide divRes rd ra rb
def opDivu (rd ra rb : Nat) : Op := opDivide divuRes rd ra rb
def opRem (rd ra rb : Nat) : Op := opDivide remRes rd ra rb
def opRemu (rd ra rb : Nat) : Op := opDivide remuRes rd ra rb
def opDivs (rd ra rb : Nat) : Op := opDivide divsRes rd ra rb

/-! ### Meanings -/

def execMul (e : CoreId) (rd ra rb : Reg) (s : State) : Host.Outcome State Fault Refusal :=
  .next (s.issue e (opMul rd.val ra.val rb.val))

def execMulh (e : CoreId) (rd ra rb : Reg) (s : State) : Host.Outcome State Fault Refusal :=
  .next (s.issue e (opMulh rd.val ra.val rb.val))

def execMulhu (e : CoreId) (rd ra rb : Reg) (s : State) : Host.Outcome State Fault Refusal :=
  .next (s.issue e (opMulhu rd.val ra.val rb.val))

def execMulq (e : CoreId) (rd ra rb : Reg) (s : State) : Host.Outcome State Fault Refusal :=
  .next (s.issue e (opMulq rd.val ra.val rb.val))

def execMac (e : CoreId) (acc : AccIx) (ra rb : Reg) (s : State) : Host.Outcome State Fault Refusal :=
  .next (s.issue e (opMac acc.val ra.val rb.val))

def execMsu (e : CoreId) (acc : AccIx) (ra rb : Reg) (s : State) : Host.Outcome State Fault Refusal :=
  .next (s.issue e (opMsu acc.val ra.val rb.val))

def execMacu (e : CoreId) (acc : AccIx) (ra rb : Reg) (s : State) : Host.Outcome State Fault Refusal :=
  .next (s.issue e (opMacu acc.val ra.val rb.val))

def execClra (e : CoreId) (acc : AccIx) (s : State) : Host.Outcome State Fault Refusal :=
  .next (s.issue e (opClra acc.val))

def execMta (e : CoreId) (acc : AccIx) (ra rb : Reg) (s : State) : Host.Outcome State Fault Refusal :=
  .next (s.issue e (opMta acc.val ra.val rb.val))

def execMova (e : CoreId) (rd : Reg) (acc : AccIx) (k : Fin 32) (s : State) : Host.Outcome State Fault Refusal :=
  .next (s.issue e (opMova rd.val acc.val k.val))

def execMovas (e : CoreId) (rd : Reg) (acc : AccIx) (k : Fin 32) (s : State) : Host.Outcome State Fault Refusal :=
  .next (s.issue e (opMovas rd.val acc.val k.val))

def execDiv (e : CoreId) (rd ra rb : Reg) (s : State) : Host.Outcome State Fault Refusal :=
  .next (s.issue e (opDiv rd.val ra.val rb.val))

def execDivu (e : CoreId) (rd ra rb : Reg) (s : State) : Host.Outcome State Fault Refusal :=
  .next (s.issue e (opDivu rd.val ra.val rb.val))

def execRem (e : CoreId) (rd ra rb : Reg) (s : State) : Host.Outcome State Fault Refusal :=
  .next (s.issue e (opRem rd.val ra.val rb.val))

def execRemu (e : CoreId) (rd ra rb : Reg) (s : State) : Host.Outcome State Fault Refusal :=
  .next (s.issue e (opRemu rd.val ra.val rb.val))

def execDivs (e : CoreId) (rd ra rb : Reg) (s : State) : Host.Outcome State Fault Refusal :=
  .next (s.issue e (opDivs rd.val ra.val rb.val))


end Sys2Proof.Machine
end

