-- ==== Sys2Proof/Machine/Fabric.lean ====
section
/-! DEFINITION. Meanings of the queue fabric family (R280–R312). -/

namespace Sys2Proof.Machine

/-- Producer and consumer ports of a queue (R308, R309). -/
def prodPort (q : Nat) : Nat := 0x510000 + 16 * q
def consPort (q : Nat) : Nat := 0x520000 + 16 * q

def execPush (p : Path) (q : Queue) (v : Word) (s : State) : Host.Outcome State Fault Refusal :=
  .next (s.write p (prodPort q.val) v)

def execPushEop (p : Path) (q : Queue) (v : Word) (s : State) : Host.Outcome State Fault Refusal :=
  .next (s.write p (prodPort q.val + 4) v)

def execPcmdAbort (p : Path) (q : Queue) (s : State) : Host.Outcome State Fault Refusal :=
  .next (s.write p (prodPort q.val + 8) 1)

def execPcmdSetLastb (p : Path) (q : Queue) (lastb : Fin 4) (s : State) : Host.Outcome State Fault Refusal :=
  .next (s.write p (prodPort q.val + 8) (w32 (lastb.val * 16 + 2)))

def execConsumerRead (p : Path) (q : Queue) (s : State) : Host.Outcome State Fault Refusal := .next (s.read p (consPort q.val))

def execDrop (p : Path) (q : Queue) (s : State) : Host.Outcome State Fault Refusal := .next (s.write p (consPort q.val + 12) 1)

def execPendingPacketRetry (q : Queue) (s : State) : Host.Outcome State Fault Refusal := .next (s.live (fun d => d.retry q.val))

def execSpillMove (q : Queue) (s : State) : Host.Outcome State Fault Refusal := .next (s.live (fun d => d.spillMove q.val))

def execSpillRefill (q : Queue) (s : State) : Host.Outcome State Fault Refusal := .next (s.live (fun d => d.spillRefill q.val))

def execLinkSweepDone (q : Queue) (keep : Nat) (s : State) : Host.Outcome State Fault Refusal :=
  .next (s.live (fun d => d.linkBreak q.val keep))

def execFlush (p : Path) (q : Queue) (s : State) : Host.Outcome State Fault Refusal :=
  .next (s.write p 0x10060 (w32 (q.val * 0x10000 + 1)))

def execClearQueueCounters (p : Path) (q : Queue) (s : State) : Host.Outcome State Fault Refusal :=
  .next (s.write p 0x10060 (w32 (q.val * 0x10000 + 2)))

def execLossRecordEmit (s : State) : Host.Outcome State Fault Refusal := .next (s.live Dev.lossTick)

def execHeadRead (p : Path) (s : State) : Host.Outcome State Fault Refusal := .next (s.read p 0x14040)

def execTailWrite (p : Path) (v : Word) (s : State) : Host.Outcome State Fault Refusal := .next (s.write p 0x14044 v)

end Sys2Proof.Machine
end

