-- ==== Sys2Proof/Machine/EfyonQueue.lean ====
section
/-! DEFINITION. The fabric instructions of Efyon (R353, R354): each is the port access of the core's own path. -/

namespace Sys2Proof.Machine

/-! ### Operations -/

/-- A write to a port of the queue that a number names. -/
def opPort (port : Core → Nat) (v : Core → Word) : Op :=
  { run := fun e c s =>
      { s := ({ s with dev := s.dev.busWrite (corePath e) (port c) (v c) } : State).updCore e (·.sends s.dev.now) } }

/-- The queue number in a register. -/
def Core.queueIn (c : Core) (rb : Nat) : Nat := fld (c.dr rb) 9 0

def opPushq (ra rb : Nat) : Op := opPort (fun c => prodPort (c.queueIn rb)) (fun c => c.dr ra)
def opPushqe (ra rb : Nat) : Op := opPort (fun c => prodPort (c.queueIn rb) + 4) (fun c => c.dr ra)
def opQabort (rb : Nat) : Op := opPort (fun c => prodPort (c.queueIn rb) + 8) (fun _ => 1)
def opQlast (ra rb : Nat) : Op := opPort (fun c => prodPort (c.queueIn rb) + 8) (fun c => w32 (fld (c.dr ra) 1 0 * 16 + 2))
def opQdrop (rb : Nat) : Op := opPort (fun c => consPort (c.queueIn rb) + 12) (fun _ => 1)
def opPushqi (ra q : Nat) (eop : Bool) : Op := opPort (fun _ => prodPort q + (if eop then 4 else 0)) (fun c => c.dr ra)

/-- PSTAT, at the distance of a load. -/
def opQstat (rd rb : Nat) : Op :=
  { run := fun e c s =>
      let (d, v) := s.dev.busRead (corePath e) (prodPort (c.queueIn rb) + 12)
      let s : State := { s with dev := d.updCore e (·.worksTo (c.n + 3) d.now) }
      { s := s.put e c rd v 3 } }

/-- A 16-byte read of the consumer port: items 0, 1 and 2 and the tag, or zeros. -/
def Dev.popWord (d : Dev) (p : Path) (q : Nat) : Dev × Word × Word × Word × Word :=
  let after := (d.portRead p q).1
  (after, (after.path p).word)

/-- POPQ of the queue that a core's registers name. -/
def opPop (rd : Nat) (queue : Core → Nat) : Op :=
  { ok := rd % 4 == 0 && rd != 0
    noRep := true
    run := fun e c s =>
      let (d, i0, i1, i2, tag) := s.dev.popWord (corePath e) (queue c)
      let s : State := { s with dev := d.updCore e (·.worksTo (c.n + 4) d.now) }
      { s := (((s.put e c rd i0 4).put e c (rd + 1) i1 4).put e c (rd + 2) i2 4).put e c (rd + 3) tag 4 } }

def opPopq (rd rb : Nat) : Op := opPop rd (fun c => c.queueIn rb)
def opPopqi (rd q : Nat) : Op := opPop rd (fun _ => q)

/-! ### Meanings -/

def execPushq (e : CoreId) (ra rb : Reg) (s : State) : Host.Outcome State Fault Refusal :=
  .next (s.issue e (opPushq ra.val rb.val))

def execPushqe (e : CoreId) (ra rb : Reg) (s : State) : Host.Outcome State Fault Refusal :=
  .next (s.issue e (opPushqe ra.val rb.val))

def execQabort (e : CoreId) (rb : Reg) (s : State) : Host.Outcome State Fault Refusal :=
  .next (s.issue e (opQabort rb.val))

def execQlast (e : CoreId) (ra rb : Reg) (s : State) : Host.Outcome State Fault Refusal :=
  .next (s.issue e (opQlast ra.val rb.val))

def execQstat (e : CoreId) (rd rb : Reg) (s : State) : Host.Outcome State Fault Refusal :=
  .next (s.issue e (opQstat rd.val rb.val))

def execPopq (e : CoreId) (rd rb : Reg) (s : State) : Host.Outcome State Fault Refusal :=
  .next (s.issue e (opPopq rd.val rb.val))

def execQdrop (e : CoreId) (rb : Reg) (s : State) : Host.Outcome State Fault Refusal :=
  .next (s.issue e (opQdrop rb.val))

def execPushqi (e : CoreId) (ra : Reg) (q : Queue) (eop : Bool) (s : State) : Host.Outcome State Fault Refusal :=
  .next (s.issue e (opPushqi ra.val q.val eop))

def execPopqi (e : CoreId) (rd : Reg) (q : Queue) (s : State) : Host.Outcome State Fault Refusal :=
  .next (s.issue e (opPopqi rd.val q.val))


end Sys2Proof.Machine
end

