-- ==== Sys2Proof/Machine/EfyonDecode.lean ====
section
/-! DEFINITION. Instruction words of Efyon (R333–R342): what a word in memory stands for. -/

namespace Sys2Proof.Machine

/-- A word: an instruction, legal or not, or a prefix. -/
inductive EfyonWord where
  | op (o : Op)
  | repN (n : Nat)
  | repLc
  | imx (v : BitVec 16)

/-- An illegal encoding (R336): a NOP that is marked. -/
def opIllegal : Op := { ok := false, run := fun _ _ s => { s := s } }

/-- An instruction whose listed reserved fields must be 0. -/
def reserved (fs : List Nat) (o : Op) : Op := if fs.all (· == 0) then o else opIllegal

/-- Control group (R338). -/
def decodeControl (fn rd ra rb : Nat) : Op :=
  match fn with
  | 0x000 => reserved [rd, ra, rb] opNop
  | 0x001 => reserved [rd, rb] (opJr ra)
  | 0x002 => reserved [rb] (opJalr rd ra)
  | 0x008 => reserved [rb] (opMovx rd ra)
  | 0x009 => reserved [rb] (opMovfx rd ra)
  | 0x00A => if rd < 6 then reserved [rb] (opMovs rd ra) else opIllegal
  | 0x00B => if ra < 6 then reserved [rb] (opMovfs rd ra) else opIllegal
  | 0x010 => reserved [rd] (opPushq ra rb)
  | 0x011 => reserved [rd] (opPushqe ra rb)
  | 0x012 => reserved [rd, ra] (opQabort rb)
  | 0x013 => reserved [rd] (opQlast ra rb)
  | 0x014 => reserved [ra] (opQstat rd rb)
  | 0x018 => reserved [ra] (opPopq rd rb)
  | 0x019 => reserved [rd, ra] (opQdrop rb)
  | 0x020 => reserved [rd, ra, rb] opSync
  | 0x021 => reserved [rd, ra, rb] opHalt
  | 0x022 => reserved [rd, ra] (opTrap rb)
  | n => if 0x40 ≤ n ∧ n < 0x50 then reserved [rd, ra, rb] (opSkip (n - 0x40)) else opIllegal

/-- ALU group (R339). -/
def decodeAlu (fn rd ra rb : Nat) : Op :=
  match fn with
  | 0x000 => opAdd rd ra rb
  | 0x001 => opAddc rd ra rb
  | 0x002 => opSub rd ra rb
  | 0x003 => opSubc rd ra rb
  | 0x004 => opAdds rd ra rb
  | 0x005 => opSubs rd ra rb
  | 0x006 => reserved [rb] (opNeg rd ra)
  | 0x007 => reserved [rb] (opNegs rd ra)
  | 0x008 => reserved [rb] (opAbs rd ra)
  | 0x009 => reserved [rb] (opAbss rd ra)
  | 0x00A => reserved [rd] (opCmp ra rb)
  | 0x00B => opMin rd ra rb
  | 0x00C => opMax rd ra rb
  | 0x00D => opMinu rd ra rb
  | 0x00E => opMaxu rd ra rb
  | 0x010 => opAnd rd ra rb
  | 0x011 => opOr rd ra rb
  | 0x012 => opXor rd ra rb
  | 0x013 => opAndn rd ra rb
  | 0x014 => reserved [rd] (opTst ra rb)
  | 0x020 => opShl rd ra rb
  | 0x021 => opShr rd ra rb
  | 0x022 => opSar rd ra rb
  | 0x023 => opRor rd ra rb
  | 0x024 => opRol rd ra rb
  | 0x028 => reserved [rb] (opClz rd ra)
  | 0x029 => reserved [rb] (opPopc rd ra)
  | 0x02A => reserved [rb] (opBrev rd ra)
  | 0x02C => reserved [rb] (opSextb rd ra)
  | 0x02D => reserved [rb] (opSexth rd ra)
  | 0x02E => reserved [rb] (opZextb rd ra)
  | 0x02F => reserved [rb] (opZexth rd ra)
  | _ => opIllegal

/-- Multiply, accumulate and divide group (R340). -/
def decodeMul (fn rd ra rb : Nat) : Op :=
  match fn with
  | 0x000 => opMul rd ra rb
  | 0x001 => opMulh rd ra rb
  | 0x002 => opMulhu rd ra rb
  | 0x003 => opMulq rd ra rb
  | 0x010 => reserved [rd / 4] (opMac rd ra rb)
  | 0x011 => reserved [rd / 4] (opMsu rd ra rb)
  | 0x012 => reserved [rd / 4] (opMacu rd ra rb)
  | 0x018 => reserved [rd / 4, ra, rb] (opClra rd)
  | 0x019 => reserved [rd / 4] (opMta rd ra rb)
  | 0x020 => reserved [ra / 4] (opMova rd ra rb)
  | 0x021 => reserved [ra / 4] (opMovas rd ra rb)
  | 0x030 => opDiv rd ra rb
  | 0x031 => opDivu rd ra rb
  | 0x032 => opRem rd ra rb
  | 0x033 => opRemu rd ra rb
  | 0x034 => opDivs rd ra rb
  | _ => opIllegal

/-- Immediate instructions (R341). -/
def decodeImm (op rd ra : Nat) (i : BitVec 16) : Op :=
  let n := i.toNat
  let k : BitVec 8 := i.truncate 8
  match op with
  | 0x08 => opAddi rd ra i
  | 0x09 => opAddsi rd ra i
  | 0x0A => opAndi rd ra i
  | 0x0B => opOri rd ra i
  | 0x0C => opXori rd ra i
  | 0x0D => reserved [rd] (opCmpi ra i)
  | 0x0E => reserved [ra] (opMovi rd i)
  | 0x0F => reserved [n / 2 ^ 8] (opShli rd ra k)
  | 0x10 => reserved [n / 2 ^ 8] (opShri rd ra k)
  | 0x11 => reserved [n / 2 ^ 8] (opSari rd ra k)
  | 0x12 => reserved [n / 2 ^ 8] (opRori rd ra k)
  | 0x13 => reserved [rd, ra, n / 2 ^ 8] (opWaitph n)
  | 0x14 => reserved [rd, n / 2 ^ 11] (opPushqi ra (n % 2 ^ 10) (n.testBit 10))
  | _ => reserved [ra, n / 2 ^ 10] (opPopqi rd n)

def sizeOf? : Nat → Option Size
  | 0 => some .byte
  | 1 => some .half
  | 2 => some .word
  | _ => none

/-- Memory instructions (R333, R342). -/
def decodeMem (op : Nat) (w : Word) : Op :=
  let rd := fld w 25 21
  let p := fld w 20 18
  let am := fld w 17 16
  let simm : BitVec 12 := w.truncate 12
  if op = 0x1E then
    let amq := fld w 15 14
    let sz := fld w 13 12
    if am = 3 ∨ amq = 3 ∨ sz = 0 ∨ sz = 3 then opIllegal
    else reserved [fld w 11 0] (opMac2 (fld w 22 21) p (fld w 25 23) am amq (sz == 2))
  else
    match sizeOf? (fld w 15 14) with
    | none => opIllegal
    | some z =>
      reserved [fld w 13 12] (match op, z with
        | 0x18, _ => opLd rd p am z simm
        | 0x19, _ => opLdu rd p am z simm
        | 0x1A, _ => opSt rd p am z simm
        | 0x1B, .word => opLdx rd p am simm
        | 0x1C, .word => opStx rd p am simm
        | _, _ => opIllegal)

/-- Prefixes (R333). -/
def decodePrefix (w : Word) : EfyonWord :=
  let v := fld w 15 0
  if fld w 23 16 ≠ 0 then .op opIllegal
  else match fld w 25 24 with
    | 0 => if v < 256 then .repN (v + 1) else .op opIllegal
    | 1 => if v = 0 then .repLc else .op opIllegal
    | 2 => .imx (w.truncate 16)
    | _ => .op opIllegal

/-- A word of program memory (R334). -/
def decodeEfyon (w : Word) : EfyonWord :=
  let op := fld w 31 26
  let rd := fld w 25 21
  let ra := fld w 20 16
  let rb := fld w 15 11
  let fn := fld w 10 0
  if op = 0 then .op (decodeControl fn rd ra rb)
  else if op = 1 then .op (decodeAlu fn rd ra rb)
  else if op = 2 then .op (decodeMul fn rd ra rb)
  else if 0x08 ≤ op ∧ op ≤ 0x15 then .op (decodeImm op rd ra (w.truncate 16))
  else if (0x18 ≤ op ∧ op ≤ 0x1C) ∨ op = 0x1E then .op (decodeMem op w)
  else if op = 0x20 then .op (opBr (w.truncate 26))
  else if op = 0x21 then .op (opCall (w.truncate 26))
  else if op = 0x3E then decodePrefix w
  else .op opIllegal

/-- The word is an illegal encoding by itself (R336). -/
def illegalWord (w : Word) : Bool :=
  match decodeEfyon w with
  | .op o => !o.ok
  | _ => false

end Sys2Proof.Machine
end

