-- ==== Sys2Proof/Machine/EfyonStep.lean ====
section
/-! DEFINITION. Steps of a core from its memory (R366, R388, R508), the commands of CTX_CMD, and illegal encodings (R336). -/

namespace Sys2Proof.Machine

/-- A core acts on one word of its memory. The result tells whether the word was a prefix, so that the unit goes on. -/
def State.stepWord (s : State) (e : CoreId) (w : Word) : State × Bool :=
  match decodeEfyon w with
  | .op o => (s.issueRaw e o, false)
  | .repN n => (s.prefixRaw e true (·.repeats n), true)
  | .repLc => (s.prefixRaw e true (fun c => c.repeats c.lc.toNat), true)
  | .imx v => (s.prefixRaw e false (fun c => { c with imx := some v }), true)

/-- The word at a core's PC; 0 where nothing can be fetched: the issue meets the fault itself. -/
def State.fetchWord (s : State) : CoreId → Word
  | .main => match s.dev.lakeSpan s.dev.esc.core.pc.toNat 4 with
    | some b => w32 ((s.bar2Bytes b 4).foldr (fun x v => x.toNat + 256 * v) 0)
    | none => 0
  | .seq x =>
    let pc := (s.dev.ctx x.val).pc.toNat
    if pc < 0x10000 then s.dev.rd (progMem (x.val / 10) + pc - pc % 4) else 0

/-- The unit that a prefix began can go on. -/
def Dev.stepsOn (d : Dev) : CoreId → Bool
  | .main => d.esc.running && d.esc.core.wait.isNone && d.esc.load.isNone
  | .seq x => d.ust (.ctx x.val) == .parked

/-- One instruction with its prefixes (at most REP, IMX and the instruction), or one repetition. -/
def State.stepCore (e : CoreId) : Nat → State → State
  | 0, s => s
  | k + 1, s =>
    let (s, more) := s.stepWord e (s.fetchWord e)
    if more && s.dev.stepsOn e then State.stepCore e k s else s

/-- A STEP of a context: one instruction, after which no write is in flight (R366, R388). A context that waits for a mark
executes nothing. -/
def State.stepCtx (s : State) (x : Ctx) : State :=
  if s.dev.ust (.ctx x.val) != .parked || (s.dev.ctx x.val).wait.isSome then s
  else
    let s := State.stepCore (.seq x) 3 s
    let c := (s.dev.ctx x.val).flush
    { s with dev := { s.dev.setCtx x.val c with stops := SMap.put {} s.dev.stops x.val c } }

/-- STEPs that register writes have asked for. -/
def State.runSteps (s : State) : State :=
  let xs := s.dev.steps
  if xs = [] then s
  else
    let s : State := { s with dev := { s.dev with steps := [] } }
    (xs.foldl (fun (s : State) x => if h : x < 160 then s.stepCtx ⟨x, h⟩ else s) s).finish

/-- A write of CTX_CMD, and the STEP that it asks for. -/
def State.ctxCmd (s : State) (p : Path) (x : Ctx) (op : Nat) : State := (s.write p (ctxPage x.val + 0x4C) (w32 op)).runSteps

def execCtxRelease (p : Path) (x : Ctx) (s : State) : Host.Outcome State Fault Refusal :=
  .next (s.write p (ctxPage x.val + 0x4C) 1)

def execCtxStep (p : Path) (x : Ctx) (s : State) : Host.Outcome State Fault Refusal := .next (s.ctxCmd p x 2)

/-- A word that no mnemonic assigns; a legal word is another command. -/
def execIllegalEncoding (e : CoreId) (w : Word) (s : State) : Host.Outcome State Fault Refusal :=
  .next (if illegalWord w then s.issue e opIllegal else s)

end Sys2Proof.Machine
end

