-- ==== Sys2Proof/Machine/Floats.lean ====
section
/-! DEFINITION. Meanings of the Float family (R242–R260). -/

namespace Sys2Proof.Machine

def execGateDurationEnd (i : FloatIx) (s : State) : Host.Outcome State Fault Refusal :=
  .next (s.live (fun d => d.flDurEnd i.val))

def execRearm (p : Path) (i : FloatIx) (s : State) : Host.Outcome State Fault Refusal := .next (s.write p (flAt i.val + 0x74) 1)

def execClearFlCount (p : Path) (i : FloatIx) (s : State) : Host.Outcome State Fault Refusal :=
  .next (s.write p (flAt i.val + 0x74) 2)

end Sys2Proof.Machine
end

