-- ==== Sys2Proof/Machine/Health.lean ====
section
/-! DEFINITION. Meanings of the health family (R483–R500). -/

namespace Sys2Proof.Machine

/-- KEY and OP of FW_CMD (R491). -/
def fwWord (op : Nat) : Word := w32 (0x4B530000 + op)

/-- The image that PROGRAM finds in Lakebed. -/
def State.imageAt (s : State) (base : Nat) : List Host.Cell :=
  (s.mem.filter (fun c => decide (base ≤ c.1 ∧ c.1 < base + imageSize))).map (fun c => (c.1 - base, c.2))

/-- Programming ends (R491). -/
def State.programmed (s : State) (ok : Bool) : State :=
  s.live (fun d => d.fwProgrammed ok (s.imageAt (d.health.opBase * 0x2000000)))

/-- The scheduled reference check (R490). -/
def Dev.refDaily (d : Dev) : Dev := if d.rb 0x1C070 1 && d.esc.running then d.refStart else d

/-- The prediction that firmware makes (R488). -/
def Dev.eolDaily (d : Dev) : Dev := if d.esc.running then d.eolPredict else d

/-- A scrub access; a bad codeword of an FSTORE region makes its entries NOTMEAS (R484, R213). -/
def State.scrubbed (s : State) (m : ScrubMem) (a : Nat) (r : ScrubResult) : State :=
  let fs := s.dev.rd 0xA070
  let base := fld fs 6 0 * 0x2000000
  let hit := m == .lakebed && r == .uncorrectable && s.dev.scrubs && bit fs 31 && decide (base + 0x1000000 ≤ a ∧ a < base + 0x2000000)
  let mem := if hit then Memory.putWords [(a / 8 * 8, 0x01000000), (a / 8 * 8 + 4, 0x01000000)] s.mem else s.mem
  ({ s with mem := mem } : State).act (fun d => d.scrub m a r)

def execScrubAccess (m : ScrubMem) (a : Nat) (r : ScrubResult) (s : State) : Host.Outcome State Fault Refusal :=
  .next (s.scrubbed m a r)

def execWearSnapshot (ok : Bool) (s : State) : Host.Outcome State Fault Refusal := .next (s.live (fun d => d.wearSnapshot ok))

def execEolPrediction (s : State) : Host.Outcome State Fault Refusal := .next (s.live Dev.eolDaily)

def execIdleSlotCalibration (s : State) : Host.Outcome State Fault Refusal := .next (s.live Dev.idleCal)

def execReferenceCheck (p : Option Path) (s : State) : Host.Outcome State Fault Refusal :=
  .next (match p with
    | some p => s.write p 0x1C084 1
    | none => s.live Dev.refDaily)

def execReferenceCheckDone (ppm : List Int) (s : State) : Host.Outcome State Fault Refusal :=
  .next (s.live (fun d => d.refDone ppm))

def execProgram (p : Path) (headerCrcOk : Bool) (s : State) : Host.Outcome State Fault Refusal :=
  .next (s.viaPath p (fun d => d.fwCmd p (fwWord 1) headerCrcOk 0))

def execFwProgramDone (ok : Bool) (s : State) : Host.Outcome State Fault Refusal := .next (s.programmed ok)

def execLoad (p : Path) (s : State) : Host.Outcome State Fault Refusal := .next (s.write p 0x1C088 (fwWord 2))

def execFwLoadDone (crcOk : Bool) (s : State) : Host.Outcome State Fault Refusal := .next (s.live (fun d => d.fwLoaded crcOk))

def execSwitch (p : Path) (ns : Nat) (s : State) : Host.Outcome State Fault Refusal :=
  .next (s.viaPath p (fun d => d.fwCmd p (fwWord 3) false (w32 ns)))

end Sys2Proof.Machine
end

