-- ==== Sys2Proof/Machine/Interrupts.lean ====
section
/-! DEFINITION. Meanings of the interrupt family (R389–R408). -/

namespace Sys2Proof.Machine

/-- SRC_CMD with an operation and a source (R406). -/
def srcWord (op : Nat) (i : Source) : Word := w32 (op * 2 ^ 28 + i.val)

/-- BAR0 offset of the first word of a bitmap (R407). -/
def bitmapAt : IcBitmap → Nat
  | .pend => 0xC100 | .enS => 0xC180 | .enH => 0xC200 | .stormed => 0xC380

def execDoorbell (p : Path) (v : Word) (s : State) : Host.Outcome State Fault Refusal := .next (s.write p 0xC040 v)

def execClrPend (p : Path) (i : Source) (s : State) : Host.Outcome State Fault Refusal := .next (s.write p 0xC044 (srcWord 1 i))

def execSetEnS (p : Path) (i : Source) (s : State) : Host.Outcome State Fault Refusal := .next (s.write p 0xC044 (srcWord 2 i))

def execClrEnS (p : Path) (i : Source) (s : State) : Host.Outcome State Fault Refusal := .next (s.write p 0xC044 (srcWord 3 i))

def execSetEnH (p : Path) (i : Source) (s : State) : Host.Outcome State Fault Refusal := .next (s.write p 0xC044 (srcWord 4 i))

def execClrEnH (p : Path) (i : Source) (s : State) : Host.Outcome State Fault Refusal := .next (s.write p 0xC044 (srcWord 5 i))

def execClrStormed (p : Path) (i : Source) (s : State) : Host.Outcome State Fault Refusal :=
  .next (s.write p 0xC044 (srcWord 6 i))

def execClaimS (p : Path) (s : State) : Host.Outcome State Fault Refusal := .next (s.read p 0xC048)

def execClaimH (p : Path) (s : State) : Host.Outcome State Fault Refusal := .next (s.read p 0xC050)

def execCompleteS (p : Path) (v : Word) (s : State) : Host.Outcome State Fault Refusal := .next (s.write p 0xC04C v)

def execCompleteH (p : Path) (v : Word) (s : State) : Host.Outcome State Fault Refusal := .next (s.write p 0xC054 v)

def execIcBitmapWrite (p : Path) (b : IcBitmap) (w : Fin 32) (v : Word) (s : State) : Host.Outcome State Fault Refusal :=
  .next (s.write p (bitmapAt b + 4 * w.val) v)

def execStormWindowEnd (s : State) : Host.Outcome State Fault Refusal := .next (s.live Dev.stormEnd)

def execModerationEnd (s : State) : Host.Outcome State Fault Refusal := .next (s.live Dev.modEnd)

end Sys2Proof.Machine
end

