-- ==== Sys2Proof/Machine/MgmtBus.lean ====
section
/-! DEFINITION. The management bus: transactions with and without PEC, and attention requests (R428–R443). -/

namespace Sys2Proof.Machine

def mgmtPage : Nat := 0x18000

def Dev.updMgmt (d : Dev) (f : Mgmt → Mgmt) : Dev := { d with mgmt := f d.mgmt }

/-- A condition of R437: its FAULT bit, and MB_CNT.ERR. -/
def Dev.busError (d : Dev) (b : Nat) : Dev := (d.count 0x18050 7 0).fault mgmtPage b

/-- The BAR0 offset that a pointer selects, if it selects one (R431). -/
def Dev.windowAt (d : Dev) (p : Nat) : Option Nat :=
  if p < 0x1000 then some (mgmtPage + p)
  else if p < 0x8000 then none
  else some (d.rf 0x18044 9 0 * 0x8000 + (p - 0x8000))

/-! ### PEC (R435) -/

/-- One byte of CRC-8 with x⁸ + x² + x + 1. -/
def crcByte (c b : Byte) : Byte :=
  (List.range 8).foldl (fun (c : Byte) _ => if c.getLsbD 7 then (c <<< 1) ^^^ 0x07 else c <<< 1) (c ^^^ b)

def pec (l : List Byte) : Byte := l.foldl crcByte 0

/-- The device's address byte for a write; for a read it is 1 higher (R429). -/
def Dev.addrByte (d : Dev) (read : Bool) : Byte := BitVec.ofNat 8 ((0x60 + d.pwr.mga) * 2 + read.toNat)

/-! ### Writes (R432–R434) -/

/-- The pointer after data bytes: it stays within its 32-byte block. -/
def wrapPtr (p n : Nat) : Nat := p / 32 * 32 + (p + n) % 32

/-- Byte k of the page-write buffer: the last byte that the transaction put there. -/
def bufByte (p : Nat) (l : List Byte) (k : Nat) : Option Byte :=
  (((List.range l.length).zip l).filter (fun x => (p + x.1) % 32 == k)).getLast?.map (·.2)

/-- The registers of the block that were written whole take their words in ascending order; the others are left. -/
def Dev.mgmtCommit (d : Dev) (p : Nat) (l : List Byte) : Dev :=
  -- MWIN selects the block before any register of it is written
  match d.windowAt (p / 32 * 32) with
  | none => d
  | some a => forRange 8 (fun r (d : Dev) =>
      -- a write of it that resets the device ends the transaction (R430)
      if !d.mgmt.busy then d else
      let bs := (List.range 4).map (fun i => bufByte p l (4 * r + i))
      if bs.all Option.isSome then
        d.busWrite .mgmt (a + 4 * r) (w32 (bs.foldr (fun b n => (b.getD 0).toNat + 256 * n) 0))
      else if bs.any Option.isSome then
        -- a register that is written in part is left, and a producer port says so (R308)
        let b := a + 4 * r
        (if 0x510000 ≤ b ∧ b < 0x514000 then d.qErr ((b - 0x510000) / 16) 17 else d).busError 2
      else d) d

/-- The bytes of a pointer. -/
def ptrOf (l : List Byte) : Nat := (l.getD 0 0).toNat * 256 + (l.getD 1 0).toNat

def Dev.setPtr (d : Dev) (p : Nat) : Dev := d.updMgmt (fun m => { m with ptr := BitVec.ofNat 16 p })

/-- A write without PEC: pointer bytes, then data. `ok` is false when an error discards the buffer. -/
def Dev.mgmtPlain (d : Dev) (l : List Byte) (ok : Bool) : Dev :=
  match l with
  | [] => d
  | [_] => if ok then d.busError 2 else d
  | _ :: _ :: data =>
    let p := ptrOf l
    let d := d.setPtr (wrapPtr p data.length)
    if ok && data != [] then d.mgmtCommit p data else d

/-- The device ignores the rest of a transaction up to its STOP: a write under PEC with a count above 32 (R435). -/
def Dev.mgmtDeaf (l : List Byte) : Bool := match l with | _ :: _ :: n :: _ => decide (32 < n.toNat) | _ => false

/-- The PEC that a write brought is the one of its bytes, if it has come (R435). -/
def Dev.pecOk (d : Dev) (l : List Byte) : Option Bool :=
  match l with
  | _ :: _ :: n :: rest => (rest[n.toNat]?).map (fun c => pec (d.addrByte false :: l.take (3 + n.toNat)) == c)
  | _ => none

/-- The device's acknowledge of each byte of a write (R432, R435): under PEC a count above 32 and what follows it, and a wrong
PEC, are not acknowledged; bytes behind a PEC are (DESIGN CHOICE, notes/assumptions/65). -/
def Dev.mgmtAcks (d : Dev) (l : List Byte) (withPec : Bool) : List Bool :=
  (List.range l.length).map (fun i =>
    !(withPec && ((Dev.mgmtDeaf l && decide (2 ≤ i)) ||
      (i == 3 + (l.getD 2 0).toNat && d.pecOk l == some false))))

/-- What a write under PEC shows before an error ends it (R435): a count above 32, or a wrong PEC. -/
def Dev.pecCut (d : Dev) (l : List Byte) : Dev :=
  if Dev.mgmtDeaf l then d.fault mgmtPage 0 else if d.pecOk l == some false then d.fault mgmtPage 3 else d

/-- A write with PEC. `readNext` says that a repeated START follows; a STOP before the PEC sets PEC_ERR wherever it comes, and
after one pointer byte PARTIAL too (R435, R437). -/
def Dev.mgmtPec (d : Dev) (l : List Byte) (readNext : Bool) : Dev :=
  match l with
  | [] => if readNext then d else d.fault mgmtPage 3
  | [_] => if readNext then d.busError 2 else (d.busError 2).fault mgmtPage 3
  | [_, _] => if readNext then d.setPtr (ptrOf l) else d.fault mgmtPage 3
  | _ :: _ :: n :: rest =>
    if Dev.mgmtDeaf l then d.fault mgmtPage 0
    else
      let data := rest.take n.toNat
      if d.pecOk l == some true then
        let p := ptrOf l
        let d := d.setPtr (wrapPtr p data.length)
        if data = [] then d else d.mgmtCommit p data
      else d.fault mgmtPage 3

/-! ### Reads (R433, R435) -/

/-- Send n bytes from the pointer on; `reg` is the register fetched last, with its word and the number of its bytes already
sent. -/
def Dev.mgmtSend : Nat → Option (Nat × Word × Nat) → Dev → List Byte → Dev × List Byte × Nat
  | 0, reg, d, out => (d, out, (reg.map (·.2.2)).getD 0)
  | n + 1, reg, d, out =>
    let p := d.mgmt.ptr.toNat
    let fetch := fun (_ : Unit) => match d.windowAt (p / 4 * 4) with
      | some a => let (d, w) := d.busRead .mgmt a; (d, w, 0)
      | none => (d, 0, 0)
    let (d, w, k) := match reg with
      | some (r, w, k) => if r = p / 4 then (d, w, k) else fetch ()
      | none => fetch ()
    let b : Byte := BitVec.ofNat 8 (fld w (p % 4 * 8 + 7) (p % 4 * 8))
    Dev.mgmtSend n (some (p / 4, w, k + 1)) (d.updMgmt (fun m => { m with ptr := m.ptr + 1 })) (out ++ [b])

/-- The read part of a transaction: `head` is what went before it on the bus. -/
def Dev.mgmtRead (d : Dev) (n : Nat) (withPec : Bool) (head : List Byte) : Dev :=
  if n = 0 then d
  else if !withPec then
    let (d, out, k) := Dev.mgmtSend n none d []
    d.updMgmt (fun m => { m with sent := out, fetched := some { start := n - k, len := k, head := none } })
  else
    let k := d.rf 0x18040 28 24 + 1
    let cnt : Byte := BitVec.ofNat 8 k
    let head := head ++ [d.addrByte true]
    let n' := min k (n - 1)
    let (d, data, j) := Dev.mgmtSend n' none d []
    let code := pec (head ++ [cnt] ++ data)
    let out := (cnt :: data) ++ (if k + 2 ≤ n then [code] else []) ++ List.replicate (n - (k + 2)) 0xFF
    let d := d.updMgmt (fun m => { m with
      sent := out, fetched := if n' = 0 then none else some { start := 1 + n' - j, len := j, head := some head } })
    if k + 2 < n then d.fault mgmtPage 0 else d

/-- A transaction ends: the device is addressed no more. -/
def Dev.mgmtFree (d : Dev) : Dev := d.updMgmt (fun m => { m with busy := false })

/-- What a transaction's error sets (R437). -/
def errBit : MgmtErr → Nat
  | .proto => 4
  | .srAck => 5
  | .overrun => 7

/-- The part of a transaction up to its STOP or repeated START. A write that an error ends before either is discarded. -/
def Dev.mgmtWrite (d : Dev) (x : MgmtXfer) (withPec : Bool) : Dev :=
  if x.err = none ∨ x.readN ≠ 0 then
    if withPec then d.mgmtPec x.bytes (x.readN != 0) else d.mgmtPlain x.bytes true
  else if withPec then d.pecCut x.bytes else d.mgmtPlain x.bytes false

/-- A transaction addressed to the device (R432): its write or pointer, the bytes that follow a repeated START, and the error that
may end it. A device reset that its own commit brings abandons the rest (R430). -/
def Dev.mgmtXfer (d : Dev) (x : MgmtXfer) : Dev :=
  let withPec := d.rb 0x18040 0
  let d := d.updMgmt (fun m => { m with
    xfers := m.xfers + 1, last := m.ptr, stuck := false, sent := [], fetched := none, busy := true
    acks := d.mgmtAcks x.bytes withPec })
  let head := if x.bytes = [] then [] else d.addrByte false :: x.bytes
  let d := d.mgmtWrite x withPec
  if !d.mgmt.busy then d
  else
    let d := d.mgmtRead (if withPec && Dev.mgmtDeaf x.bytes then 0 else x.readN) withPec head
    (match x.err with | some e => d.busError (errBit e) | none => d).mgmtFree

/-! ### Attention requests (R438, R439) -/

/-- The enabled causes that are pending. -/
def Dev.atnCause (d : Dev) : BitVec 6 := d.mgmt.atnPend &&& (d.rd 0x18048).truncate 6

/-- A request is on the bus, or one can start: an enabled cause is pending and no backoff runs. That both lines have been high for
50 µs is what the row reports. -/
def Dev.atnReady (d : Dev) : Bool := d.mgmt.atnActive || (d.mgmt.backoff == none && d.atnCause != 0)

/-- The backoff after the k-th loss or abandonment in a row, in ns (R439). -/
def Dev.backoffNs (d : Dev) (k : Nat) : Nat := d.rf 0x18048 31 24 * 2 ^ min (k - 1) 6 * 1000000

/-- A loss or an abandonment: the request is over, and backoff follows. -/
def Dev.atnFailed (d : Dev) : Dev :=
  d.updMgmt (fun m => { m with
    inRow := m.inRow + 1, atnActive := false, backoff := some (d.now, d.backoffNs (m.inRow + 1)) })

/-- A request is lost (R439). -/
def Dev.atnLost (d : Dev) : Dev := (d.atnFailed.count 0x18050 31 16).fault mgmtPage 1

/-- Both lines are high. -/
def Dev.linesHigh (d : Dev) : Dev := d.updMgmt (fun m => { m with stuck := false })

def Dev.atnRequest (d : Dev) (r : AtnResult) : Dev :=
  let d := d.linesHigh
  if !d.atnReady then d
  else match r with
    | .started => d.updMgmt (fun m => { m with atnActive := true })
    | .served extra =>
      let cause := d.atnCause
      let d := d.updMgmt (fun m => { m with
        atnPend := m.atnPend &&& ~~~cause, inRow := 0, atnActive := false, fetched := none
        sent := BitVec.ofNat 8 cause.toNat :: (if extra then [0xFF] else []) })
      if extra then d.fault mgmtPage 0 else d
    | .lost => d.atnLost

def Dev.atnAbandon (d : Dev) : Dev :=
  let d := d.linesHigh
  if d.atnReady then d.atnFailed.count 0x18050 15 8 else d

/-- A transaction's START while a request is on the bus: the request is lost, and the device goes on as a target (R439). -/
def Dev.atnYield (d : Dev) : Dev := if d.mgmt.atnActive then d.atnLost else d

/-- The end of a backoff, once its time has passed (R439). -/
def Dev.backoffOver (d : Dev) : Dev :=
  match d.mgmt.backoff with
  | some (t, ns) => if ns ≤ (d.now - t).toNat then d.updMgmt (fun m => { m with backoff := none }) else d
  | none => d

/-- The bytes sent, with 0xFF for each of a register that came late; a PEC behind them covers what was sent. -/
def lateSent (f : Fetch) (sent : List Byte) : List Byte :=
  let l := sent.take f.start ++ List.replicate f.len 0xFF
  match f.head, sent.drop (f.start + f.len) with
  | some h, _ :: rest => l ++ pec (h ++ l) :: rest
  | _, rest => l ++ rest

/-- The fetch of the register that the device sent last had not completed in time: 0xFF went out for its bytes, and what the fetch
brings is discarded (R436). -/
def Dev.stretchLate (d : Dev) : Dev :=
  match d.mgmt.fetched with
  | some f => (d.updMgmt (fun m => { m with sent := lateSent f m.sent, fetched := none })).fault mgmtPage 8
  | none => d

/-- A line has been low for 35 ms: the device releases both, an attention request's among them (R437). -/
def Dev.busStuck (d : Dev) : Dev := (d.updMgmt (fun m => { m with stuck := true, atnActive := false })).busError 6

def execMgmtTransaction (x : MgmtXfer) (s : State) : Host.Outcome State Fault Refusal :=
  .next (s.viaPath .mgmt (fun d => d.atnYield.mgmtXfer x))

def execStretchTimeout (s : State) : Host.Outcome State Fault Refusal := .next (s.live Dev.stretchLate)

def execBusStuckTimeout (s : State) : Host.Outcome State Fault Refusal := .next (s.live Dev.busStuck)

def execAttentionRequest (r : AtnResult) (s : State) : Host.Outcome State Fault Refusal := .next (s.live (fun d => d.atnRequest r))

def execAtnAbandon (s : State) : Host.Outcome State Fault Refusal := .next (s.live Dev.atnAbandon)

def execBackoffEnd (s : State) : Host.Outcome State Fault Refusal :=
  .next (s.live Dev.backoffOver)

def execAtnRaise (p : Path) (s : State) : Host.Outcome State Fault Refusal := .next (s.write p 0x1805C 1)

end Sys2Proof.Machine
end

