-- ==== Sys2Proof/Machine/Sha.lean ====
section
/-! DEFINITION. SHA-256 of the 13 bytes of an unlock challenge (R506): one block. The constants are those of the standard
that R506 names. -/

namespace Sys2Proof.Machine

def shaK : List Word :=
  [0x428a2f98, 0x71374491, 0xb5c0fbcf, 0xe9b5dba5, 0x3956c25b, 0x59f111f1, 0x923f82a4, 0xab1c5ed5] ++
  [0xd807aa98, 0x12835b01, 0x243185be, 0x550c7dc3, 0x72be5d74, 0x80deb1fe, 0x9bdc06a7, 0xc19bf174] ++
  [0xe49b69c1, 0xefbe4786, 0x0fc19dc6, 0x240ca1cc, 0x2de92c6f, 0x4a7484aa, 0x5cb0a9dc, 0x76f988da] ++
  [0x983e5152, 0xa831c66d, 0xb00327c8, 0xbf597fc7, 0xc6e00bf3, 0xd5a79147, 0x06ca6351, 0x14292967] ++
  [0x27b70a85, 0x2e1b2138, 0x4d2c6dfc, 0x53380d13, 0x650a7354, 0x766a0abb, 0x81c2c92e, 0x92722c85] ++
  [0xa2bfe8a1, 0xa81a664b, 0xc24b8b70, 0xc76c51a3, 0xd192e819, 0xd6990624, 0xf40e3585, 0x106aa070] ++
  [0x19a4c116, 0x1e376c08, 0x2748774c, 0x34b0bcb5, 0x391c0cb3, 0x4ed8aa4a, 0x5b9cca4f, 0x682e6ff3] ++
  [0x748f82ee, 0x78a5636f, 0x84c87814, 0x8cc70208, 0x90befffa, 0xa4506ceb, 0xbef9a3f7, 0xc67178f2]

/-- The eight working words. -/
structure Sha where
  a : Word
  b : Word
  c : Word
  d : Word
  e : Word
  f : Word
  g : Word
  h : Word

def shaInit : Sha :=
  ⟨0x6a09e667, 0xbb67ae85, 0x3c6ef372, 0xa54ff53a, 0x510e527f, 0x9b05688c, 0x1f83d9ab, 0x5be0cd19⟩

/-- One round with a constant and a word of the schedule. -/
def Sha.round (x : Sha) (k w : Word) : Sha :=
  let s1 := x.e.rotateRight 6 ^^^ x.e.rotateRight 11 ^^^ x.e.rotateRight 25
  let ch := (x.e &&& x.f) ^^^ (~~~x.e &&& x.g)
  let t1 := x.h + s1 + ch + k + w
  let s0 := x.a.rotateRight 2 ^^^ x.a.rotateRight 13 ^^^ x.a.rotateRight 22
  let maj := (x.a &&& x.b) ^^^ (x.a &&& x.c) ^^^ (x.b &&& x.c)
  ⟨t1 + (s0 + maj), x.a, x.b, x.c, x.d + t1, x.e, x.f, x.g⟩

/-- The next word of the schedule, from the sixteen before it. -/
def shaNext (w : Word) (ws : List Word) : Word :=
  let at' := fun (i : Nat) => ws.getD i 0
  let a := at' 0
  let b := at' 13
  w + at' 8 + (a.rotateRight 7 ^^^ a.rotateRight 18 ^^^ (a >>> 3)) + (b.rotateRight 17 ^^^ b.rotateRight 19 ^^^ (b >>> 10))

/-- Rounds over a list of constants with a window of the schedule. -/
def shaRounds : List Word → List Word → Sha → Sha
  | k :: ks, w :: ws, x => shaRounds ks (ws ++ [shaNext w ws]) (x.round k w)
  | _, _, x => x

/-- The bytes of a word in reversed order. -/
def byteSwap (w : Word) : Word :=
  w32 (fld w 7 0 * 2 ^ 24 + fld w 15 8 * 2 ^ 16 + fld w 23 16 * 2 ^ 8 + fld w 31 24)

/-- The first four bytes of SHA-256 over KEY, C and the level, as a number whose first byte is the most significant. -/
def unlockResponse (key : BitVec 64) (c : Word) (l : Nat) : Word :=
  let block := [byteSwap (lo32 key), byteSwap (hi32 key), byteSwap c, w32 (l * 2 ^ 24 + 0x800000)] ++
    List.replicate 11 0 ++ [104]
  (shaRounds shaK block shaInit).a + shaInit.a

end Sys2Proof.Machine
end

