-- ==== Sys2Proof/Machine/Monitor.lean ====
section
/-! DEFINITION. Meanings of the Jenestex monitor and of the TAP (R501–R514). -/

namespace Sys2Proof.Machine

def dbgPage : Nat := 0x1E000

def Dev.updMon (d : Dev) (f : Monitor → Monitor) : Dev := { d with mon := f d.mon }

/-! ### Lines -/

/-- The monitor takes one line: a command above the level answers ERR 2; a line with ERR 5 has no effect and is no valid line
(R504, R505). -/
def State.line (s : State) (level : Nat) (f : State → State × MonAns) : State :=
  if !s.dev.alive || !s.dev.rb 0x1E040 0 then s
  else
    let s0 : State := { s with dev := s.dev.updMon (fun m => { m with baudNew := false }) }
    let r := if s.dev.mon.level < level then (s0, .err 2) else f s0
    let t := if r.2 = .err 5 then s else r.1
    ({ t with dev := t.dev.updMon (fun m => { m with ans := some r.2 }) } : State).finish

/-- A line that changes the device alone. -/
def State.devLine (s : State) (level : Nat) (f : Dev → Dev × MonAns) : State :=
  s.line level (fun s => let (d, a) := f s.dev; ({ s with dev := d }, a))

def okAns : MonAns := .ok []

/-! ### Register access (R501, R504, R507) -/

/-- The error of an access to n words from an offset on: syntax, or outside BAR0 below the proxy window. -/
def spanErr (a n : Nat) : Option Nat :=
  if n = 0 ∨ 16 < n ∨ a % 4 ≠ 0 then some 5
  else if 0x2000000 < a + 4 * n then some 3
  else none

/-- A read that is the side effect itself: a consumer port, CLAIM_S, CLAIM_H, HEAD of the OCPEN page. -/
def noPeek (a : Nat) : Bool := decide (0x520000 ≤ a ∧ a < 0x524000) || [0xC048, 0xC050, 0x14040].contains a

/-- Offsets of n words. -/
def spanOf (a n : Nat) : List Nat := (List.range n).map (fun i => a + 4 * i)

/-- What a read would return. -/
def Dev.peek (d : Dev) (a : Nat) : Word := (d.regRead .host a).2

def Dev.monPeek (d : Dev) (a n : Nat) : Dev × MonAns :=
  match spanErr a n with
  | some e => (d, .err e)
  | none => if (spanOf a n).any noPeek then (d, .err 4) else (d, .ok ((spanOf a n).map d.peek))

/-- Reads with their side effects, in rising order. -/
def Dev.readAll (d : Dev) : List Nat → Dev × List Word
  | [] => (d, [])
  | a :: l =>
    let (d, v) := d.busRead .host a
    let (d, vs) := d.readAll l
    (d, v :: vs)

def Dev.monRd (d : Dev) (a n : Nat) : Dev × MonAns :=
  match spanErr a n with
  | some e => (d, .err e)
  | none => let (d, l) := d.readAll (spanOf a n); (d, .ok l)

def Dev.monWr (d : Dev) (a : Nat) (v : Word) : Dev × MonAns :=
  match spanErr a 1 with
  | some e => (d, .err e)
  | none => (d.busWrite .host a v, okAns)

/-! ### Levels (R505, R506) -/

def Dev.monUnlock (d : Dev) (l : Nat) (c : Word) : Dev × MonAns :=
  if l = 0 then (d, .err 5)
  else if d.mon.lockout then (d, .err 4)
  else (d.updMon (fun m => { m with chal := some (l, c, d.now) }), .ok [c])

/-- KEY: the challenge is valid for 10 s and for one answer. -/
def Dev.monKey (d : Dev) (r : Word) : Dev × MonAns :=
  let used := d.updMon (fun m => { m with chal := none })
  match d.mon.chal with
  | none => (d, .err 4)
  | some (l, c, t) =>
    if 10000000000 < (d.now - t).toNat then (used, .err 4)
    else if d.mon.key ≠ 0 ∧ r = unlockResponse d.mon.key c l then
      (used.updMon (fun m => { m with level := l, wrong := 0 }), okAns)
    else
      let d := used.fault dbgPage 1
      if d.mon.wrong + 1 < 3 then (d.updMon (fun m => { m with wrong := m.wrong + 1 }), .err 2)
      else ((d.updMon (fun m => { m with wrong := 0, lockout := true })).fault dbgPage 2, .err 2)

def Dev.monBaud (d : Dev) (n : Nat) : Dev × MonAns :=
  if n < 9600 ∨ 3000000 < n then (d, .err 5) else (d.updMon (fun m => { m with baud := n, baudNew := true }), okAns)

/-- A break (R503). -/
def Dev.monBreak (d : Dev) : Dev :=
  if d.rb 0x1E040 0 then
    (d.updMon (fun m => { m with level := 0, chal := none, baud := 115200, baudNew := false, ans := none })).fault dbgPage 3
  else d

/-- No valid line within 5 s at a new rate (R505). -/
def Dev.baudRevert (d : Dev) : Dev :=
  if d.mon.baudNew then d.updMon (fun m => { m with baud := 115200, baudNew := false }) else d

/-! ### Contexts, the core and flaps (R504, R508, R509) -/

/-- The registers of R388 in rising order. -/
def ctxRegs (page : Nat) : List Nat :=
  spanOf (page + 0x40) 8 ++ spanOf (page + 0x100) 64 ++
    (List.range 4).flatMap (fun n => spanOf (page + 0x200 + 0x10 * n) 3) ++ spanOf (page + 0x240) 2

def Dev.setHalt (d : Dev) (on : Bool) : Dev := d.setEsc { d.esc with monHalt := on }

def Dev.monHalt (d : Dev) : Dev × MonAns :=
  if d.esc.running && !d.esc.monHalt then (d.setHalt true, okAns) else (d, .err 4)

def Dev.monGo (d : Dev) : Dev × MonAns := if d.esc.monHalt then (d.setHalt false, okAns) else (d, .err 4)

/-- An interrupt that is due at the boundary is taken. -/
def State.dueEntry (s : State) : State :=
  match s.dev.fastRequest with
  | some i => s.fastEntry i
  | none => s.normalEntry

/-- One instruction of the stopped core, and an interrupt that falls due behind it. A core that waits executes nothing. -/
def State.monStep (s : State) : State × MonAns :=
  if !s.dev.esc.monHalt then (s, .err 4)
  else
    let s := if s.dev.stepsOn .main && !s.dev.esc.halted then State.stepCore .main 3 s else s
    (s.dueEntry, okAns)

/-- A halt has lasted HALT_MAX. -/
def Dev.haltTimeout (d : Dev) : Dev :=
  if d.esc.monHalt && d.rf 0x1E040 31 16 != 0 then (d.setHalt false).fault dbgPage 4 else d

def Dev.monSreg (d : Dev) (r : Nat) : Dev × MonAns :=
  if d.esc.monHalt then (d, .ok [d.esc.core.dr r]) else (d, .err 4)

/-- FLAP_STAT, WEAR_F, WEAR_S and RON. -/
def flapRegs (n : Nat) : List Nat := [0x94, 0x98, 0x9C, 0xA0].map (fun o => (Un.chan n).addr + o)

/-- A soft open of both flaps; the channel enters HELD. -/
def Dev.flapOpen (d : Dev) (n : Nat) : Dev := (d.holdUnits [.chan n]).softOpen n true true

/-! ### TAP (R511–R513) -/

def Dev.setIr (d : Dev) (i : Ir) : Dev := d.updMon (fun m => { m with ir := i })

/-- The TAP loads an instruction. -/
def State.tap (s : State) (i : Ir) : State := s.live (fun d => d.setIr i)

/-- A reset of the TAP (R51, R68); a reset in progress merges with it (R52). -/
def Dev.tapReset (d : Dev) : Dev := (d.setIr .idcode).sideReset 9

/-- A DEBUG access: 1 read, 2 write, 3 peek. -/
def Dev.debug (d : Dev) (op : Nat) (v : Word) (off : Nat) : Dev :=
  let mode := d.rf 0x1E040 3 2
  let d := d.setIr .debug
  let done := fun (d : Dev) (err : Bool) (v : Word) => d.updMon (fun m => { m with jDone := true, jErr := err, jData := v })
  if op = 0 then d
  else if (spanErr off 1).isSome || !(mode == 2 || (op == 3 && mode == 1)) || (op == 3 && noPeek off) then done d true 0
  else
    match op with
    | 1 => let (d, v) := d.busRead .host off; done d false v
    | 2 => done (d.busWrite .host off v) false 0
    | _ => done d false (d.peek off)

/-! ### Meanings -/

def execTapReset (s : State) : Host.Outcome State Fault Refusal := .next (s.live Dev.tapReset)

def execMonBreak (s : State) : Host.Outcome State Fault Refusal := .next (s.live Dev.monBreak)

def execMonId (s : State) : Host.Outcome State Fault Refusal :=
  .next (s.devLine 0 (fun d => (d, .ok [d.peek 0, d.peek 0x2054, w32 d.mon.level])))

def execMonUnlock (l : Fin 3) (c : Word) (s : State) : Host.Outcome State Fault Refusal :=
  .next (s.devLine 0 (fun d => d.monUnlock l.val c))

def execMonKey (r : Word) (s : State) : Host.Outcome State Fault Refusal := .next (s.devLine 0 (fun d => d.monKey r))

def execMonLock (s : State) : Host.Outcome State Fault Refusal :=
  .next (s.devLine 0 (fun d => (d.updMon (fun m => { m with level := 0 }), okAns)))

def execMonBaud (n : Nat) (s : State) : Host.Outcome State Fault Refusal := .next (s.devLine 0 (fun d => d.monBaud n))

def execBaudRevert (s : State) : Host.Outcome State Fault Refusal := .next (s.live Dev.baudRevert)

def execLockoutEnd (s : State) : Host.Outcome State Fault Refusal :=
  .next (s.live (fun d => d.updMon (fun m => { m with lockout := false })))

def execMonPeek (a n : Nat) (s : State) : Host.Outcome State Fault Refusal := .next (s.devLine 1 (fun d => d.monPeek a n))

def execMonRd (a n : Nat) (s : State) : Host.Outcome State Fault Refusal := .next (s.devLine 2 (fun d => d.monRd a n))

def execMonWr (a : Nat) (v : Word) (s : State) : Host.Outcome State Fault Refusal :=
  .next (s.devLine 2 (fun d => d.monWr a v)).runSteps

def execMonPop (q : Queue) (s : State) : Host.Outcome State Fault Refusal :=
  .next (s.devLine 2 (fun d => d.monRd (consPort q.val) 1))

def execMonQdrop (q : Queue) (s : State) : Host.Outcome State Fault Refusal :=
  .next (s.devLine 2 (fun d => d.monWr (consPort q.val + 12) 1))

def execMonPush (q : Queue) (v : Word) (eop : Bool) (s : State) : Host.Outcome State Fault Refusal :=
  .next (s.devLine 2 (fun d => d.monWr (prodPort q.val + (if eop then 4 else 0)) v))

def execMonCtx (c : Camp) (k : Fin 10) (s : State) : Host.Outcome State Fault Refusal :=
  .next (s.devLine 1 (fun d => (d, .ok ((ctxRegs (ctxPage (10 * c.val + k.val))).map d.peek))))

def execMonCtxStep (c : Camp) (k : Fin 10) (s : State) : Host.Outcome State Fault Refusal :=
  .next (s.devLine 2 (fun d => d.monWr (ctxPage (10 * c.val + k.val) + 0x4C) 2)).runSteps

def execMonCtxRelease (c : Camp) (k : Fin 10) (s : State) : Host.Outcome State Fault Refusal :=
  .next (s.devLine 2 (fun d => d.monWr (ctxPage (10 * c.val + k.val) + 0x4C) 1))

def execMonHalt (s : State) : Host.Outcome State Fault Refusal := .next (s.devLine 2 Dev.monHalt)

def execMonGo (s : State) : Host.Outcome State Fault Refusal := .next (s.devLine 2 Dev.monGo)

def execMonSstep (s : State) : Host.Outcome State Fault Refusal := .next (s.line 2 State.monStep)

def execHaltTimeout (s : State) : Host.Outcome State Fault Refusal := .next (s.live Dev.haltTimeout)

def execMonSreg (r : Reg) (s : State) : Host.Outcome State Fault Refusal := .next (s.devLine 1 (fun d => d.monSreg r.val))

def execMonFlap (n : Chan) (s : State) : Host.Outcome State Fault Refusal :=
  .next (s.devLine 1 (fun d => (d, .ok ((flapRegs n.val).map d.peek))))

def execMonFlapOpen (n : Chan) (s : State) : Host.Outcome State Fault Refusal :=
  .next (s.devLine 2 (fun d => (d.flapOpen n.val, okAns)))

def execExtest (s : State) : Host.Outcome State Fault Refusal := .next (s.tap .extest)

def execHighz (s : State) : Host.Outcome State Fault Refusal := .next (s.tap .highz)

def execIdcode (s : State) : Host.Outcome State Fault Refusal := .next (s.tap .idcode)

def execSamplePreload (s : State) : Host.Outcome State Fault Refusal := .next (s.tap .sample)

def execBypass (s : State) : Host.Outcome State Fault Refusal := .next (s.tap .bypass)

def execDebug (op : Fin 4) (v : Word) (off : Nat) (s : State) : Host.Outcome State Fault Refusal :=
  .next (s.live (fun d => d.debug op.val v off))

end Sys2Proof.Machine
end

