-- ==== Sys2Proof/Machine/Pages.lean ====
section
/-! DEFINITION. Meanings of the page family: registers, faults, quarantine, settling (R4–R6, R72, R79, R90–R92, R109). -/

namespace Sys2Proof.Machine

/-- The page that an offset lies in. -/
def pageBase (a : Nat) : Nat := a - a % 0x1000

/-- The unit with a UNIT_ID (R10). -/
def Un.ofId (i : Nat) : Option Un := (Un.device :: Un.all).find? (fun u => u.id == i)

/-- A settling time that cannot have passed: the channel's task waits (R268), or it ramps or closes a flap (R128). -/
def Dev.unsettled (d : Dev) (u : Un) : Bool :=
  match u with
  | .chan n =>
    let c := d.ch n
    (d.taskOf 1 n false).isSome || (d.ust u == .run && (c.ramp != .none || c.fF.ph == .closing || c.fS.ph == .closing))
  | _ => false

/-- The page's key under which STATUS.SETTLING of a unit without a state is kept, by its UNIT_ID (R10, R90). -/
def stillKey (i : Nat) : Option Nat :=
  if i = 0x9FFF then some 0x3000
  else if i = 0xB010 then some 0x8000
  else if i = 0xAFFF then some 0xA000
  else if i = 0x1000 then some linkPage
  else if 0xA000 ≤ i ∧ i < 0xA010 then some (wsPage (i - 0xA000))
  else if 0xB000 ≤ i ∧ i < 0xB010 then some (zonePage (i - 0xB000))
  else none

/-- A unit has settled (R90); a lowered declaration counts from here on (R261). -/
def Dev.settleEnd (d : Dev) (u : Un) : Dev :=
  if d.unsettled u then d
  else
  let d := { d with settling := SMap.put false d.settling u.addr false }
  match u with
  | .chan n =>
    let k := d.decl n
    match d.taskOf 1 n true with
    | some t =>
      if k < t.mw ∧ (d.taskOf 1 n false).isNone ∧ d.ust u = .run then
        if k = 0 then d.releaseAdm 1 n
        else
          (d.setStove { d.stove with
            tasks := d.stove.tasks.map (fun x => if x = t then { x with mw := k, zones := [(n / 32, k * 1000000)] } else x)
            walkDue := true }).notePeak
      else d
    | none => d
  | _ => d

/-- A poisoned write of the host is discarded, and AER logs it: bit 12 of the Uncorrectable Error Status (R410, R426; PRESUMED, as
PCI Express places it, notes/assumptions/97). -/
def Dev.poisonedWrite (d : Dev) : Dev :=
  ({ d with host := { d.host with aer := d.host.aer ||| 0x1000 } } : Dev).fault hostPage 0

/-- A write that covers a register, or that covers none whole (R308, R410), and the host's requests that do not act. -/
def Dev.storeAt (d : Dev) (p : Path) (a : Nat) (x : BusData) : Dev :=
  match x with
  | .word v =>
    if a % 4 = 0 then d.busWrite p a v
    else if 0x510000 ≤ a ∧ a < 0x514000 then d.qErr ((a - 0x510000) / 16) 17
    else if p = .host then d.fault hostPage 1 else d
  | .over => if p = .host then d.fault hostPage 2 else d
  | .poisoned => if p = .host then d.poisonedWrite else d

def execStageRevert (p : Path) (page : Nat) (s : State) : Host.Outcome State Fault Refusal :=
  .next (s.write p (pageBase page + 0x808) 2)

def execRegisterWrite (p : Path) (off : Nat) (x : BusData) (s : State) : Host.Outcome State Fault Refusal :=
  .next (s.viaPath p (fun d => d.storeAt p off x)).runSteps

/-- A read of a register's bytes reads the register; only HEAD tells its other bytes from its first (R305). -/
def execReadClear (p : Path) (off : Nat) (s : State) : Host.Outcome State Fault Refusal :=
  .next (s.read p (if off - off % 4 = 0x14040 then off else off - off % 4))

def execFaultAck (p : Path) (page : Nat) (v : Word) (s : State) : Host.Outcome State Fault Refusal :=
  .next (s.write p (pageBase page + 0xC) v)

def execQuarWrite (p : Path) (page : Nat) (v : Word) (s : State) : Host.Outcome State Fault Refusal :=
  .next (s.write p (pageBase page + 0x18) v)

def execSettlingEnd (unit : Nat) (s : State) : Host.Outcome State Fault Refusal :=
  .next (s.live (fun d => match Un.ofId unit with
    | some u => if SMap.get false d.settling u.addr then d.settleEnd u else d
    | none => match stillKey unit with
      | some a => { d with settling := SMap.put false d.settling a false }
      | none => d))

def execLtimeLoRead (p : Path) (s : State) : Host.Outcome State Fault Refusal := .next (s.read p 0x2060)

end Sys2Proof.Machine
end

