-- ==== Sys2Proof/Machine/Pitch.lean ====
section
/-! DEFINITION. Meanings of the pitch family (R99–R111). -/

namespace Sys2Proof.Machine

/-- CMD of controller k (R111). -/
def pitchCmdAt (k : Ctl) : Nat := 0x1100 + 0x20 * k.val

/-- The instant of an armed controller comes by itself: immediate, or an LTIME that is reached (R104). Marks and field events
bring theirs. -/
def Dev.pitchDue (d : Dev) (k : Nat) : Bool :=
  match fld (d.whenWord k) 2 0 with
  | 0 => true
  | 2 => d.now == join64 (d.rd (0x110C + 0x20 * k)) (d.rd (0x1108 + 0x20 * k))
  | _ => false

def execPitchCheck (p : Path) (k : Ctl) (s : State) : Host.Outcome State Fault Refusal := .next (s.write p (pitchCmdAt k) 1)

def execPitchArm (p : Path) (k : Ctl) (s : State) : Host.Outcome State Fault Refusal := .next (s.write p (pitchCmdAt k) 2)

def execPitchDisarm (p : Path) (k : Ctl) (s : State) : Host.Outcome State Fault Refusal := .next (s.write p (pitchCmdAt k) 3)

def execPitchDiscard (p : Path) (k : Ctl) (s : State) : Host.Outcome State Fault Refusal := .next (s.write p (pitchCmdAt k) 4)

def execCheckComplete (k : Ctl) (s : State) : Host.Outcome State Fault Refusal := .next (s.live (fun d => d.checkEnd k.val))

def execPitchApply (k : Ctl) (s : State) : Host.Outcome State Fault Refusal :=
  .next (s.live (fun d => if d.pitchDue k.val then d.pitchApply k.val else d))

end Sys2Proof.Machine
end

