-- ==== Sys2Proof/Machine/Power.lean ====
section
/-! DEFINITION. Meanings of the power family: supplies, clocks, interlock, thermal trip, power requests and start-ups. -/

namespace Sys2Proof.Machine

/-! ### The island's supply (R51, R62) -/

/-- What flash and the world outside keep through a loss of every supply. -/
def Dev.bare (d : Dev) : Dev :=
  { pwr := { slotA := d.pwr.slotA, slotB := d.pwr.slotB, refclk := d.pwr.refclk }
    host := { perst := d.host.perst, mem := d.host.mem }
    chans := d.wornChans
    health := d.health.kept }

/-- The module has power outside VAON. -/
def Dev.powered (d : Dev) : Bool := d.pwr.st != .off && d.pwr.st != .campwatch

/-- Power is gone from a device in the state `st`: counts that flash has not taken are lost (R487). -/
def Dev.noPowerNow (d : Dev) (st : PwrState) : Dev :=
  if st == .off || st == .campwatch || st == .safeOff then d else d.loseWear

def Dev.islandPower (d : Dev) (inTol : Bool) : Dev :=
  let d := d.bare.noPowerNow d.pwr.st
  if inTol then d else { d with pwr := { d.pwr with st := .off, vaonOk := false } }

/-- VAON leaves tolerance: OFF at once; the pair of R55 is no longer good, and the thermal trip's latch is lost with the power,
acknowledged or not (DESIGN CHOICE, notes/assumptions/85). -/
def Dev.vaonLoss (d : Dev) : Dev :=
  if d.pwr.st == .off then d
  else
    let d := (d.wipe false).noPowerNow d.pwr.st
    { d with pwr := { d.pwr with st := .off, vaonOk := false, pair := none, pairOld := [], trip := false, tripHot := false } }

/-! ### PORESET#, rails and clocks (R34, R46, R47, R56) -/

def Dev.poresetLow (d : Dev) : Dev :=
  if d.pwr.poreset then d
  else
    let d := if d.powered then d.holdReset 1 else d
    { d with pwr := { d.pwr with poreset := true } }

/-- The release starts the module (R56–R58), with MGA, TEST and the module temperatures as it samples them. -/
def Dev.poresetHigh (d : Dev) (mga : Nat) (test : Bool) (temps : List (BitVec 16)) : Dev :=
  if !d.pwr.poreset || d.pwr.st == .off then d
  else
    let d := { d with
      pwr := { d.pwr with poreset := false, railHeld := false, factory := test, mga := mga, st := .reset }
      stove := { d.stove with temps := temps } }
    if d.pwr.clockHeld then d
    else
      let isl := d.pwr.causes % 2 == 1 || d.pwr.causes / 8 % 2 == 1
      d.beginStart (!isl && d.warmOk temps)

/-- A rail fault (R34): flaps hard-open, the island logs the rail, and the device stays in reset. -/
def Dev.railFault (d : Dev) (rail : Rail) : Dev :=
  if d.pwr.poreset || !d.powered then d
  else
    let log : RailLog := ⟨rail, d.now⟩
    let d := (d.hardOpenAll.holdReset 2).loseWear
    { d with pwr := { d.pwr with railLog := some log, railHeld := true } }

/-- The device loses its clocks (R46). -/
def Dev.clockFault (d : Dev) (cause : ClockCause) : Dev :=
  if d.pwr.poreset || !d.powered then d
  else
    let sys := d.pwr.ckSys
    let d := (d.hardOpenAll.holdReset 3).downCore
    { d with pwr := { d.pwr with clockHeld := true, refclk := cause != .refclk,
                                 pllLoss := d.pwr.pllLoss || (sys && cause != .refclk) } }

/-- The clocks are back: a cold start-up. -/
def Dev.clockRestart (d : Dev) : Dev :=
  if !d.pwr.clockHeld then d
  else
    let d := { d with pwr := { d.pwr with clockHeld := false, refclk := true } }
    if d.pwr.poreset || d.pwr.railHeld then d else d.beginStart false

def Dev.aonFail (d : Dev) : Dev :=
  if d.pwr.st == .off then d
  else
    let d := { d with pwr := { d.pwr with aonRc := true, warmRec := d.pwr.warmRec.map (fun (r : WarmRec) => { r with rcClear := false }) } }
    (if d.alive then (d.wb 0x2048 27 true).msg 16 else d).cwInput 15 6 0xFFF

def Dev.aonReturn (d : Dev) : Dev := if d.pwr.st == .off then d else { d with pwr := { d.pwr with aonRc := false } }

/-! ### Interlock (R42) -/

/-- Channels in RUN. -/
def Dev.runChans (d : Dev) : List Un :=
  d.knownUnits.filter (fun u => match u with | .chan _ => d.ust u == .run | _ => false)

def Dev.ilkLow (d : Dev) : Dev :=
  let d := ({ d with pwr := { d.pwr with ilk := false } } : Dev).ballFall
  let d := (d.holdUnits d.runChans).hardOpenAll
  d.fault 0 4

/-- The filtered ball falls; in a reset it is ignored (R40), until the pages have their reset values. -/
def Dev.ilkFall (d : Dev) : Dev :=
  let d : Dev := { d with pwr := { d.pwr with ilkBall := false } }
  if d.alive && !d.pwr.devOff then d.ilkLow else d

/-- The filtered ball rises. -/
def Dev.ilkRise (d : Dev) : Dev :=
  let d : Dev := { d with pwr := { d.pwr with ilkBall := true } }
  if d.alive && !d.pwr.devOff then { d with pwr := { d.pwr with ilk := true } } else d

/-! ### Transitions (R62, R64) -/

def Dev.clocksStopped (d : Dev) : Dev :=
  if d.pwr.stopping && d.pwr.st == .ready then { d with pwr := { d.pwr with stopping := false, st := .standby } } else d

def Dev.drainDone (d : Dev) : Dev := if d.pwr.st == .entering && d.drained then d.enterSafeOff else d

def Dev.drainLate (d : Dev) : Dev :=
  if d.pwr.st == .entering && !d.drained then { d with pwr := { d.pwr with st := .standby, drainTimeout := true } } else d

/-- The device returns from SAFE_OFF: by a wake `event` to the state that CW_WAKE.TARGET names, or to the one that a PWR_REQ
asked for (R64). -/
def Dev.safeOffWake (d : Dev) (event : Bool) : Dev :=
  if d.pwr.st != .safeOff || (if event then !d.pwr.wakeReq || d.pwr.leaving != 0 else d.pwr.leaving == 0) then d
  else d.leaveSafeOff (if event then d.rf 0x19044 17 16 else d.pwr.leaving)

/-- The station drives PORESET# low and removes every rail but VAON (R33, R64): a PORESET#, which merges with a reset in progress
(R52). The latch of the thermal trip, outside VAON, does not outlive its rails, acknowledged or not (DESIGN CHOICE,
notes/assumptions/85). -/
def Dev.powerDown (d : Dev) : Dev :=
  if !d.powered then d
  else
    let d := if d.pwr.st == .safeOff then d else d.loseWear
    let causes := mergeCauses (if d.inReset then d.pwr.causes else 0) 2
    let d := (d.latchPair).wipe false
    { d with
      pwr := { d.pwr with st := .campwatch, poreset := true, railHeld := false, clockHeld := false, causes := causes,
                          trip := false, tripHot := false }
      cw := { d.cw with enter := some d.pwr.aonCnt } }

/-! ### Meanings -/

def execIslandPowerOn (inTol : Bool) (s : State) : Host.Outcome State Fault Refusal :=
  .next (s.actWiped (fun d => d.islandPower inTol))

def execVaonLoss (s : State) : Host.Outcome State Fault Refusal := .next (s.actWiped Dev.vaonLoss)

def execPoresetAssert (s : State) : Host.Outcome State Fault Refusal :=
  .next (if s.dev.pwr.poreset then s else s.actWiped Dev.poresetLow)

def execPoresetRelease (mga : Fin 8) (test : Bool) (temps : List (BitVec 16)) (s : State) : Host.Outcome State Fault Refusal :=
  .next (s.act (fun d => d.poresetHigh mga.val test temps))

def execRailFault (rail : Rail) (s : State) : Host.Outcome State Fault Refusal :=
  .next (if s.dev.pwr.poreset || !s.dev.powered then s else s.actWiped (fun d => d.railFault rail))

def execClockFault (cause : ClockCause) (s : State) : Host.Outcome State Fault Refusal :=
  .next (if s.dev.pwr.poreset || !s.dev.powered then s else s.actWiped (fun d => d.clockFault cause))

def execClockFaultRestart (s : State) : Host.Outcome State Fault Refusal := .next (s.act Dev.clockRestart)

def execAonFail (s : State) : Host.Outcome State Fault Refusal := .next (s.act Dev.aonFail)

def execAonCrystalReturn (s : State) : Host.Outcome State Fault Refusal := .next (s.act Dev.aonReturn)

def execLtimePairLatch (s : State) : Host.Outcome State Fault Refusal := .next (s.act Dev.latchPair)

def execThermalTrip (s : State) : Host.Outcome State Fault Refusal := .next (if s.dev.powered then s.act Dev.thermalTrip else s)

def execThermalTripClear (s : State) : Host.Outcome State Fault Refusal := .next (if s.dev.powered then s.act Dev.thermalClear else s)

def execIlkLow (s : State) : Host.Outcome State Fault Refusal := .next (s.act Dev.ilkFall)

def execIlkHigh (s : State) : Host.Outcome State Fault Refusal := .next (s.act Dev.ilkRise)

def execReadyRise (s : State) : Host.Outcome State Fault Refusal := .next (s.live Dev.ballRise)

def execPwrReqStandby (p : Path) (s : State) : Host.Outcome State Fault Refusal := .next (s.write p 0x2044 2)

def execPwrReqReady (p : Path) (s : State) : Host.Outcome State Fault Refusal := .next (s.write p 0x2044 3)

def execPwrReqCampwatch (p : Path) (s : State) : Host.Outcome State Fault Refusal := .next (s.write p 0x2044 5)

def execPwrReqWithdraw (p : Path) (s : State) : Host.Outcome State Fault Refusal := .next (s.write p 0x2044 0)

def execKeptRequestExecute (s : State) : Host.Outcome State Fault Refusal := .next (s.live Dev.keptRun)

def execStandbyClocksStopped (s : State) : Host.Outcome State Fault Refusal := .next (s.live Dev.clocksStopped)

def execCampwatchDrainDone (s : State) : Host.Outcome State Fault Refusal := .next (s.live Dev.drainDone)

def execDrainTimeout (s : State) : Host.Outcome State Fault Refusal := .next (s.live Dev.drainLate)

def execSafeOffWake (event : Bool) (s : State) : Host.Outcome State Fault Refusal :=
  .next (s.live (fun d => d.safeOffWake event))

def execPowerDown (s : State) : Host.Outcome State Fault Refusal :=
  .next (if s.dev.powered then s.actWiped Dev.powerDown else s)

def execStartUpComplete (ms : Nat) (cals : List (Chan × CalOutcome)) (s : State) : Host.Outcome State Fault Refusal :=
  .next (s.live (fun d => d.startUp ms cals))

end Sys2Proof.Machine
end

