-- ==== Sys2Proof/Machine/Reset.lean ====
section
/-! DEFINITION. Meanings of the reset family (R51, R54, R86, R383). -/

namespace Sys2Proof.Machine

/-- CLK.RESET with its key (R69). -/
def resetWord (reach camp : Nat) : Word := w32 (0x4B530000 + camp * 0x100 + reach)

def execResetDevice (p : Path) (s : State) : Host.Outcome State Fault Refusal := .next (s.write p 0x2050 (resetWord 1 0))

def execResetCore (p : Path) (s : State) : Host.Outcome State Fault Refusal := .next (s.write p 0x2050 (resetWord 2 0))

def execResetCamp (p : Path) (c : Camp) (s : State) : Host.Outcome State Fault Refusal :=
  .next (s.write p 0x2050 (resetWord 3 c.val))

def execCampResetAct (c : Camp) (s : State) : Host.Outcome State Fault Refusal := .next (s.live (fun d => d.campAct c.val))

def execCampResetDone (c : Camp) (cals : List (Chan × CalOutcome)) (s : State) : Host.Outcome State Fault Refusal :=
  .next (s.live (fun d => (d.calsEnd cals).campDone c.val))

/-- The watchdog expires while it counts (R383). -/
def Dev.wdogEvent (d : Dev) : Dev := if d.esc.running && !d.esc.monHalt then d.wdogExpire else d

def execWatchdogExpiry (s : State) : Host.Outcome State Fault Refusal := .next (s.live Dev.wdogEvent)

def execWdogKick (p : Path) (v : Word) (s : State) : Host.Outcome State Fault Refusal := .next (s.write p 0x1D048 v)

end Sys2Proof.Machine
end

