-- ==== Sys2Proof/Machine/Stove.lean ====
section
/-! DEFINITION. Meanings of the Stove family (R261–R279). -/

namespace Sys2Proof.Machine

/-- 5 °C in units of 1/16 °C (R266). -/
def fiveDeg : Int := 80

/-- The sensor of a list with the highest reading, lowest number first. -/
def Dev.hottest (d : Dev) (ix : List Nat) : Nat :=
  let at' := fun (i : Nat) => (d.stove.temps.getD i 0).toInt
  ix.foldl (fun m i => if at' m < at' i then i else m) (ix.headD 0)

/-- A THERMAL record (R276): code 0 limit reached, 1 hold, 2 cleared. -/
def Dev.thermalRec (d : Dev) (source : Nat) (ix : List Nat) (code : Nat) (limit : Int) : Dev :=
  d.stoveRec 0x53 source (w32 (d.hottest ix * 256 + code)) (wInt (d.tempMax ix)) (wInt limit)

/-- Stove holds channels (R266, R269, R274): their ramps keep their flaps (R272). -/
def Dev.stoveHold (d : Dev) (ns : List Nat) : Dev :=
  d.changeH (ns.map Un.chan) (fun d => forEach ns (fun n (d : Dev) =>
    (d.markHeld (.chan n)).updCh n (fun x => { x with stoveHeld := true })) d)

/-- Channels with an admitted task, of all zones or of one. -/
def Dev.heldTasks (d : Dev) (zone : Option Nat) : List Nat :=
  (d.admitted.filter (fun t => t.kind == 1 && (match zone with | some z => t.unit / 32 == z | none => true))).map (·.unit)

/-- Zone z after a sample (R266). -/
def Dev.zoneSample (d : Dev) (z : Nat) : Dev :=
  let ix := [2 * z, 2 * z + 1]
  let t := d.tz z
  let lim := d.zTmax z
  let src := 0xB000 + z
  let d :=
    if lim ≤ t ∧ !d.stove.zLim.contains z then
      (d.setStove { d.stove with zLim := d.stove.zLim ++ [z] }).thermalRec src ix 0 lim
    else if t ≤ lim - fiveDeg ∧ d.stove.zLim.contains z then
      (d.setStove { d.stove with zLim := d.stove.zLim.erase z, zFired := d.stove.zFired.erase z }).thermalRec src ix 2 lim
    else d
  if lim + fiveDeg ≤ t ∧ !d.stove.zFired.contains z then
    (((d.setStove { d.stove with zFired := d.stove.zFired ++ [z] }).stoveHold (d.heldTasks (some z))).fault (zonePage z) 0
      ).thermalRec src ix 1 (lim + fiveDeg)
  else d

/-- The package after a sample (R266). -/
def Dev.packageSample (d : Dev) : Dev :=
  let ix := [32, 33, 34, 35]
  let t := d.tp
  let lim := d.pTmax
  let d :=
    if lim ≤ t ∧ !d.stove.pLim then (d.setStove { d.stove with pLim := true }).thermalRec 0xB010 ix 0 lim
    else if t ≤ lim - fiveDeg ∧ d.stove.pLim then
      (d.setStove { d.stove with pLim := false, pFired := false }).thermalRec 0xB010 ix 2 lim
    else d
  if lim + fiveDeg ≤ t ∧ !d.stove.pFired then
    (((d.setStove { d.stove with pFired := true }).stoveHold (d.heldTasks none)).fault stovePage 3).thermalRec 0xB010 ix 1
      (lim + fiveDeg)
  else d

/-- A sample of the 36 sensors; holds apply before admissions (R265, R266, R273). -/
def Dev.sensorSample (d : Dev) (temps : List (BitVec 16)) : Dev :=
  let ts := (List.range 36).map (fun i => temps.getD i (d.stove.temps.getD i 0))
  let d := (d.setStove { d.stove with temps := ts }).tripSample
  let d := (forRange 16 (fun z (d : Dev) => d.zoneSample z) d).packageSample
  d.setStove { d.stove with walkDue := true }

/-- A measurement of the rails, without the force power; the mean of 10,000 is MEAS_BASE (R264). -/
def Dev.powerMeasure (d : Dev) (railMw forceMw : Nat) : Dev :=
  let s := d.stove
  let n := s.accN + 1
  let sum := s.accSum + (railMw - forceMw)
  if n < 10000 then d.setStove { s with accN := n, accSum := sum }
  else
    let d := d.setStove { s with accN := 0, accSum := 0, measBase := sum / n }
    if d.baseDecl < d.stove.measBase then d.fault stovePage 4 else d

/-- A lease ends while its task is admitted (R274), and a walk follows (R267). -/
def Dev.leaseEnd (d : Dev) (n : Nat) : Dev :=
  match d.taskOf 1 n true with
  | some t => if t.dur.isSome && d.ust (.chan n) == .run then
    let d := ((d.stoveHold [n]).missed t 3).fault stovePage 0
    d.setStove { d.stove with walkDue := true }
  else d
  | none => d

/-- A channel task has waited DEFER_MAX (R269). -/
def Dev.deferEnd (d : Dev) (n : Nat) : Dev :=
  match d.taskOf 1 n false with
  | some t => if d.rd 0x805C != 0 then (((d.withdraw 1 n).stoveHold [n]).missed t 1).fault stovePage 1 else d
  | none => d

/-- The cooldown ends, and a walk follows (R263, R267). -/
def Dev.coolEnd (d : Dev) : Dev := d.setStove { d.stove with burstEnd := none, walkDue := true }

def execSensorSample (temps : List (BitVec 16)) (s : State) : Host.Outcome State Fault Refusal :=
  .next (s.live (fun d => d.sensorSample temps))

def execStovePowerMeasure (railMw forceMw : Nat) (s : State) : Host.Outcome State Fault Refusal :=
  .next (s.live (fun d => d.powerMeasure railMw forceMw))

def execLeaseExpiry (n : Chan) (s : State) : Host.Outcome State Fault Refusal := .next (s.live (fun d => d.leaseEnd n.val))

def execDeferExpiry (n : Chan) (s : State) : Host.Outcome State Fault Refusal := .next (s.live (fun d => d.deferEnd n.val))

def execCooldownEnd (s : State) : Host.Outcome State Fault Refusal := .next (s.live Dev.coolEnd)

end Sys2Proof.Machine
end

