-- ==== Sys2Proof/Machine/Timers.lean ====
section
/-! DEFINITION. Meanings of the timer family (R313–R327). -/

namespace Sys2Proof.Machine

/-- COUNT of a running timer reaches a value after the ticks that this takes. -/
def Dev.tmReach (d : Dev) (t : Nat) (c : Dev → Nat) : Dev :=
  if d.ust (.timer t) == .run && (d.tm t).running && d.tmPre t != 0 then d.tmRunTo t (c d) else d

def execTimerMatch (t : TimerIx) (s : State) : Host.Outcome State Fault Refusal :=
  .next (s.live (fun d =>
    if (d.tmMatch t.val).toNat ≤ (d.tmTop t.val).toNat then d.tmReach t.val (fun d => (d.tmMatch t.val).toNat) else d))

def execTimerOverflow (t : TimerIx) (s : State) : Host.Outcome State Fault Refusal :=
  .next (s.live (fun d => d.tmReach t.val (fun _ => 0)))

def execTimerOutputAct (t : TimerIx) (s : State) : Host.Outcome State Fault Refusal :=
  .next (s.live (fun d => d.tmOutputs t.val))

def execTmStart (p : Path) (t : TimerIx) (s : State) : Host.Outcome State Fault Refusal := .next (s.write p (tmAt t.val + 0x3C) 1)

def execTmStop (p : Path) (t : TimerIx) (s : State) : Host.Outcome State Fault Refusal := .next (s.write p (tmAt t.val + 0x3C) 2)

def execTmLoad (p : Path) (t : TimerIx) (s : State) : Host.Outcome State Fault Refusal := .next (s.write p (tmAt t.val + 0x3C) 3)

def execTmCapture (p : Path) (t : TimerIx) (s : State) : Host.Outcome State Fault Refusal :=
  .next (s.write p (tmAt t.val + 0x3C) 4)

def execTmRelease (p : Path) (t : TimerIx) (s : State) : Host.Outcome State Fault Refusal :=
  .next (s.write p (tmAt t.val + 0x3C) 5)

def execTinEdge (n : Fin 4) (level : Bool) (t : Time) (s : State) : Host.Outcome State Fault Refusal :=
  .next (s.live (fun d => d.tinEdge n.val level t))

def execTinStuck (n : Fin 4) (s : State) : Host.Outcome State Fault Refusal := .next (s.live (fun d => d.tinStuck n.val))

def execCountLoRead (p : Path) (t : TimerIx) (s : State) : Host.Outcome State Fault Refusal := .next (s.read p (tmAt t.val + 0x40))

def execCapLtHiRead (p : Path) (t : TimerIx) (s : State) : Host.Outcome State Fault Refusal := .next (s.read p (tmAt t.val + 0x54))

end Sys2Proof.Machine
end

