-- ==== Sys2Proof/Machine/Vierma.lean ====
section
/-! DEFINITION. Meanings of the Vierma family: link, field events, the proxy window and forwarding (R464–R482). -/

namespace Sys2Proof.Machine

/-- A tunnelled PAGE frame (R476): a request acts as a host port access of this device, with its latches; a completion ends a
read that this device waits for. -/
def Dev.pageFrame (d : Dev) (m : PageMsg) : Dev :=
  match m with
  | .request off write =>
    if d.vl.addr.isNone || decide (0x2000000 ≤ off) then d
    else match write with
      | some v => d.busWrite .host off v
      | none => (d.busRead .host off).1
  | .completion p v =>
    if d.vl.proxy.contains p.num then
      (d.updVl (fun x => { x with proxy := x.proxy.erase p.num })).setPath p { d.path p with ans := v }
    else d

/-- A proxy read has no answer after 500 µs (R476). -/
def Dev.proxyLate (d : Dev) (p : Path) : Dev :=
  if d.vl.proxy.contains p.num then
    ((d.updVl (fun x => { x with proxy := x.proxy.erase p.num })).setPath p { d.path p with ans := 0xFFFFFFFF }).fault linkPage 5
  else d

/-- A load of Efyon-S that waited for an answer through the proxy window completes with it. -/
def State.loaded (s : State) (p : Path) : State :=
  match p, s.dev.esc.load with
  | .efyonS, some (reg, k, n, signed) =>
    if s.dev.vl.proxy.contains p.num then s
    else
      let e := s.dev.esc
      let v := extend n signed (part (s.dev.path p).ans k n)
      State.land 4 { s with dev := s.dev.setEsc { e with load := none, core := e.core.apply ⟨reg, v, 0xFFFFFFFF, 0⟩ } }
  | _, _ => s

/-- An answer to a proxy read: the frame, or the time-out. -/
def State.proxyEnd (s : State) (p : Path) (f : Dev → Dev) : State :=
  if s.dev.alive then (({ s with dev := f s.dev } : State).loaded p).finish else s

/-- A PAGE frame. -/
def State.page (s : State) (m : PageMsg) : State :=
  match m with
  | .request _ _ => s.live (fun d => d.pageFrame m)
  | .completion p _ => s.proxyEnd p (fun d => d.pageFrame m)

/-- A field reset: the command at the root, or its instant (R479). -/
def State.fieldReset (s : State) (k : FieldReset) : State :=
  match k with
  | .fire p key => s.write p 0x1B044 (w32 (key.toNat * 0x10000 + 2))
  | .instant => s.live Dev.fieldResetAct

def execViermaLinkTrained (p : Fin 4) (s : State) : Host.Outcome State Fault Refusal :=
  .next (s.live (fun d => d.linkUp p.val))

def execLossOfSignal (p : Fin 4) (lost : Bool) (crcErrors : Nat) (s : State) : Host.Outcome State Fault Refusal :=
  .next (s.live (fun d => d.portLoss p.val lost crcErrors))

def execEnum (f : EnumFrame) (s : State) : Host.Outcome State Fault Refusal := .next (s.live (fun d => d.enum f))

def execDelay (p : Fin 4) (roundTripPs : Nat) (s : State) : Host.Outcome State Fault Refusal :=
  .next (s.live (fun d => d.portDelay p.val roundTripPs))

def execPhase (f : PhaseFrame) (s : State) : Host.Outcome State Fault Refusal := .next (s.live (fun d => d.phaseFrame f))

def execFieldJoin (t : Time) (s : State) : Host.Outcome State Fault Refusal := .next (s.live (fun d => d.join t))

def execFire (p : Path) (n : Fin 256) (s : State) : Host.Outcome State Fault Refusal :=
  .next (s.write p 0x1B044 (w32 (n.val * 256 + 1)))

def execFieldReset (k : FieldReset) (s : State) : Host.Outcome State Fault Refusal := .next (s.fieldReset k)

def execQuery (n : Fin 256) (s : State) : Host.Outcome State Fault Refusal := .next (s.live (fun d => d.fieldQuery n.val))

def execVote (n : Fin 256) (a : BitVec 18) (ok : Bool) (s : State) : Host.Outcome State Fault Refusal :=
  .next (s.live (fun d => d.fieldVote n.val a.toNat ok))

def execFieldEventDecide (n : Fin 256) (s : State) : Host.Outcome State Fault Refusal :=
  .next (s.live (fun d => d.fieldDecide n.val))

def execGo (n : Fin 256) (t : Time) (s : State) : Host.Outcome State Fault Refusal := .next (s.live (fun d => d.fieldGo n.val t))

/-- A REFUSE frame reaches a member. -/
def Dev.refuseIn (d : Dev) (n : Nat) : Dev := if d.root || !d.inField then d else d.fieldRefuse n

def execRefuse (n : Fin 256) (s : State) : Host.Outcome State Fault Refusal := .next (s.live (fun d => d.refuseIn n.val))

def execFieldEventInstant (n : Fin 256) (s : State) : Host.Outcome State Fault Refusal :=
  .next (s.live (fun d => d.fieldInstant n.val))

def execWready (a : BitVec 18) (cfg amp avg : Word) (wpos : Fin 8) (s : State) : Host.Outcome State Fault Refusal :=
  .next (s.live (fun d => d.wready a.toNat cfg amp avg wpos.val))

def execFstart (t : Option Time) (s : State) : Host.Outcome State Fault Refusal := .next (s.live (fun d => d.fstartIn t))

def execData (x : FieldData) (s : State) : Host.Outcome State Fault Refusal := .next (s.live (fun d => d.fieldData x))

def execPage (m : PageMsg) (s : State) : Host.Outcome State Fault Refusal := .next (s.page m)

def execProxyTimeout (p : Path) (s : State) : Host.Outcome State Fault Refusal := .next (s.proxyEnd p (fun d => d.proxyLate p))

def execRecord (m : RecordMsg) (s : State) : Host.Outcome State Fault Refusal := .next (s.live (fun d => d.forward m))

def execUplinkLoss (s : State) : Host.Outcome State Fault Refusal := .next (s.live Dev.uplinkLoss)

def execDownlinkLoss (p : Fin 4) (lost : List (BitVec 18)) (s : State) : Host.Outcome State Fault Refusal :=
  .next (s.live (fun d => d.downlinkLoss p.val (lost.map BitVec.toNat)))

end Sys2Proof.Machine
end

