-- ==== Sys2Proof/Machine/WeirRun.lean ====
section
/-! DEFINITION. Meanings of the Weir family (R188–R216). -/

namespace Sys2Proof.Machine

/-- The coefficients of a field run in its FSTORE region, at +0 by channel and row: of each of the 512 channels, 0 where one takes
no part (R210; the order is DEDUCED, notes/assumptions/22). -/
def fstoreCoefs (w : WeirData) : List (Nat × Word) :=
  let base := fld w.cfg.fstore 6 0 * 0x2000000
  (List.range 512).flatMap (fun j => (List.range 8192).map (fun r => (base + (8192 * j + r) * 4, w.coefWord j r)))

/-- The words that a field run leaves in its FSTORE region: the coefficients, and row entries at +16 MiB by channel and pin (R210,
R213). -/
def fstoreWords (w : WeirData) : List (Nat × Word) :=
  let base := fld w.cfg.fstore 6 0 * 0x2000000
  fstoreCoefs w ++
    (List.range 512).flatMap (fun j => (List.range 4096).map (fun p => (base + 0x1000000 + (4096 * j + p) * 4, w.rowEntry j p)))

/-- What a frame that completes writes to Lakebed: in field mode the coefficients accumulate there with each averaged frame, in the
scale of the finished ones (R210, step 5 of R188). The spec names neither that scale nor the moment (DESIGN CHOICE,
notes/assumptions/89). -/
def Dev.fstoreFrame (d : Dev) (words : List ChipWords) (synced : Bool) : List (Nat × Word) :=
  match (d.weirFrame words synced).weir.run with
  | some w => if d.weir.rstate = 3 ∧ w.cfg.field ∧ synced then fstoreCoefs w else []
  | none => []

/-- The end of a frame, with FSTORE. -/
def State.weirFrame (s : State) (words : List ChipWords) (synced : Bool) : State :=
  if s.dev.alive then
    ({ s with mem := Memory.putWords (s.dev.fstoreFrame words synced) s.mem } : State).act (fun d => d.weirFrame words synced)
  else s

/-- What a commit writes to Lakebed. -/
def Dev.fstoreOut (d : Dev) : List (Nat × Word) :=
  match d.weir.run with
  | some w => if d.weir.rstate = 4 ∧ w.cfg.field then fstoreWords w else []
  | none => []

/-- Step 7 of R188, with FSTORE. -/
def State.weirCommit (s : State) : State :=
  if s.dev.alive then ({ s with mem := Memory.putWords s.dev.fstoreOut s.mem } : State).act Dev.weirCommit else s

def execWeirStart (p : Path) (s : State) : Host.Outcome State Fault Refusal := .next (s.write p 0xA080 1)

def execWeirAbort (p : Path) (s : State) : Host.Outcome State Fault Refusal := .next (s.write p 0xA080 2)

def execWeirDriveStart (s : State) : Host.Outcome State Fault Refusal := .next (s.live Dev.weirDrive)

def execWeirFrameEnd (words : List ChipWords) (synced : Bool) (s : State) : Host.Outcome State Fault Refusal :=
  .next (s.weirFrame words synced)

def execWeirDriveEnd (s : State) : Host.Outcome State Fault Refusal := .next (s.live Dev.weirDriveEnd)

def execWeirCommit (s : State) : Host.Outcome State Fault Refusal := .next s.weirCommit

end Sys2Proof.Machine
end

