-- ==== Sys2Proof/Machine/Dispatch.lean ====
section
/-! DEFINITION. The meaning of every command: one arm per constructor of `Instr`, each one direct call. -/

namespace Sys2Proof.Machine

def exec (i : Instr) (s : State) : Host.Outcome State Fault Refusal :=
  match i with
  | .islandPowerOn inTol => Sys2Proof.Machine.execIslandPowerOn inTol s
  | .vaonLoss => Sys2Proof.Machine.execVaonLoss s
  | .poresetAssert => Sys2Proof.Machine.execPoresetAssert s
  | .poresetRelease mga test temps => Sys2Proof.Machine.execPoresetRelease mga test temps s
  | .railFault rail => Sys2Proof.Machine.execRailFault rail s
  | .clockFault cause => Sys2Proof.Machine.execClockFault cause s
  | .clockFaultRestart => Sys2Proof.Machine.execClockFaultRestart s
  | .aonFail => Sys2Proof.Machine.execAonFail s
  | .aonCrystalReturn => Sys2Proof.Machine.execAonCrystalReturn s
  | .ltimePairLatch => Sys2Proof.Machine.execLtimePairLatch s
  | .thermalTrip => Sys2Proof.Machine.execThermalTrip s
  | .thermalTripClear => Sys2Proof.Machine.execThermalTripClear s
  | .ilkLow => Sys2Proof.Machine.execIlkLow s
  | .ilkHigh => Sys2Proof.Machine.execIlkHigh s
  | .readyRise => Sys2Proof.Machine.execReadyRise s
  | .resetDevice p => Sys2Proof.Machine.execResetDevice p s
  | .resetCore p => Sys2Proof.Machine.execResetCore p s
  | .resetCamp p c => Sys2Proof.Machine.execResetCamp p c s
  | .campResetAct c => Sys2Proof.Machine.execCampResetAct c s
  | .campResetDone c cals => Sys2Proof.Machine.execCampResetDone c cals s
  | .watchdogExpiry => Sys2Proof.Machine.execWatchdogExpiry s
  | .wdogKick p v => Sys2Proof.Machine.execWdogKick p v s
  | .perstAssert => Sys2Proof.Machine.execPerstAssert s
  | .perstRelease => Sys2Proof.Machine.execPerstRelease s
  | .linkUp speed lanes => Sys2Proof.Machine.execLinkUp speed lanes s
  | .tapReset => Sys2Proof.Machine.execTapReset s
  | .pwrReqStandby p => Sys2Proof.Machine.execPwrReqStandby p s
  | .pwrReqReady p => Sys2Proof.Machine.execPwrReqReady p s
  | .pwrReqCampwatch p => Sys2Proof.Machine.execPwrReqCampwatch p s
  | .pwrReqWithdraw p => Sys2Proof.Machine.execPwrReqWithdraw p s
  | .keptRequestExecute => Sys2Proof.Machine.execKeptRequestExecute s
  | .standbyClocksStopped => Sys2Proof.Machine.execStandbyClocksStopped s
  | .campwatchDrainDone => Sys2Proof.Machine.execCampwatchDrainDone s
  | .drainTimeout => Sys2Proof.Machine.execDrainTimeout s
  | .safeOffWake event => Sys2Proof.Machine.execSafeOffWake event s
  | .pitchCheck p k => Sys2Proof.Machine.execPitchCheck p k s
  | .pitchArm p k => Sys2Proof.Machine.execPitchArm p k s
  | .pitchDisarm p k => Sys2Proof.Machine.execPitchDisarm p k s
  | .pitchDiscard p k => Sys2Proof.Machine.execPitchDiscard p k s
  | .checkComplete k => Sys2Proof.Machine.execCheckComplete k s
  | .pitchApply k => Sys2Proof.Machine.execPitchApply k s
  | .stageRevert p page => Sys2Proof.Machine.execStageRevert p page s
  | .registerWrite p off x => Sys2Proof.Machine.execRegisterWrite p off x s
  | .readClear p off => Sys2Proof.Machine.execReadClear p off s
  | .faultAck p page v => Sys2Proof.Machine.execFaultAck p page v s
  | .quarWrite p page v => Sys2Proof.Machine.execQuarWrite p page v s
  | .settlingEnd unit => Sys2Proof.Machine.execSettlingEnd unit s
  | .ltimeLoRead p => Sys2Proof.Machine.execLtimeLoRead p s
  | .flapCloseSettled n f iNa vUv => Sys2Proof.Machine.execFlapCloseSettled n f iNa vUv s
  | .forceRampDone n => Sys2Proof.Machine.execForceRampDone n s
  | .flapIsolated n f iNa vUv => Sys2Proof.Machine.execFlapIsolated n f iNa vUv s
  | .overvoltage n f v i1 t => Sys2Proof.Machine.execOvervoltage n f v i1 t s
  | .senseLoss n v i1 t => Sys2Proof.Machine.execSenseLoss n v i1 t s
  | .cmpEntry n which word t => Sys2Proof.Machine.execCmpEntry n which word t s
  | .complyEntry n held vi t => Sys2Proof.Machine.execComplyEntry n held vi t s
  | .complyExit n long vi t => Sys2Proof.Machine.execComplyExit n long vi t s
  | .apertureEnd n first more ovl t => Sys2Proof.Machine.execApertureEnd n first more ovl t s
  | .calFull p n => Sys2Proof.Machine.execCalFull p n s
  | .calQuick p n => Sys2Proof.Machine.execCalQuick p n s
  | .calFlapTest p n => Sys2Proof.Machine.execCalFlapTest p n s
  | .calibrationComplete n o => Sys2Proof.Machine.execCalibrationComplete n o s
  | .encoderEdge x a b z t => Sys2Proof.Machine.execEncoderEdge x a b z t s
  | .encLineFault x l => Sys2Proof.Machine.execEncLineFault x l s
  | .encLineRecover x l => Sys2Proof.Machine.execEncLineRecover x l s
  | .encIndex x t => Sys2Proof.Machine.execEncIndex x t s
  | .zStuck x => Sys2Proof.Machine.execZStuck x s
  | .zcEdge t => Sys2Proof.Machine.execZcEdge t s
  | .plsPulse t => Sys2Proof.Machine.execPlsPulse t s
  | .plsStuck => Sys2Proof.Machine.execPlsStuck s
  | .stallEntry => Sys2Proof.Machine.execStallEntry s
  | .extrapEnd => Sys2Proof.Machine.execExtrapEnd s
  | .markFire m pos merged rev => Sys2Proof.Machine.execMarkFire m pos merged rev s
  | .clearErrors p => Sys2Proof.Machine.execClearErrors p s
  | .turnsZero p => Sys2Proof.Machine.execTurnsZero p s
  | .phFracRead p => Sys2Proof.Machine.execPhFracRead p s
  | .weirStart p => Sys2Proof.Machine.execWeirStart p s
  | .weirAbort p => Sys2Proof.Machine.execWeirAbort p s
  | .weirDriveStart => Sys2Proof.Machine.execWeirDriveStart s
  | .weirFrameEnd words synced => Sys2Proof.Machine.execWeirFrameEnd words synced s
  | .weirDriveEnd => Sys2Proof.Machine.execWeirDriveEnd s
  | .weirCommit => Sys2Proof.Machine.execWeirCommit s
  | .streamOutput c k t words => Sys2Proof.Machine.execStreamOutput c k t words s
  | .phaseGridRelease c k => Sys2Proof.Machine.execPhaseGridRelease c k s
  | .coefCopyDone c => Sys2Proof.Machine.execCoefCopyDone c s
  | .cwDataAccess p c staged write => Sys2Proof.Machine.execCwDataAccess p c staged write s
  | .gateDurationEnd i1 => Sys2Proof.Machine.execGateDurationEnd i1 s
  | .rearm p i1 => Sys2Proof.Machine.execRearm p i1 s
  | .clearFlCount p i1 => Sys2Proof.Machine.execClearFlCount p i1 s
  | .sensorSample temps => Sys2Proof.Machine.execSensorSample temps s
  | .stovePowerMeasure railMw forceMw => Sys2Proof.Machine.execStovePowerMeasure railMw forceMw s
  | .leaseExpiry n => Sys2Proof.Machine.execLeaseExpiry n s
  | .deferExpiry n => Sys2Proof.Machine.execDeferExpiry n s
  | .cooldownEnd => Sys2Proof.Machine.execCooldownEnd s
  | .push p q v => Sys2Proof.Machine.execPush p q v s
  | .pushEop p q v => Sys2Proof.Machine.execPushEop p q v s
  | .pcmdAbort p q => Sys2Proof.Machine.execPcmdAbort p q s
  | .pcmdSetLastb p q lastb => Sys2Proof.Machine.execPcmdSetLastb p q lastb s
  | .consumerRead p q => Sys2Proof.Machine.execConsumerRead p q s
  | .drop p q => Sys2Proof.Machine.execDrop p q s
  | .pendingPacketRetry q => Sys2Proof.Machine.execPendingPacketRetry q s
  | .spillMove q => Sys2Proof.Machine.execSpillMove q s
  | .spillRefill q => Sys2Proof.Machine.execSpillRefill q s
  | .linkSweepDone q keep => Sys2Proof.Machine.execLinkSweepDone q keep s
  | .flush p q => Sys2Proof.Machine.execFlush p q s
  | .clearQueueCounters p q => Sys2Proof.Machine.execClearQueueCounters p q s
  | .lossRecordEmit => Sys2Proof.Machine.execLossRecordEmit s
  | .headRead p => Sys2Proof.Machine.execHeadRead p s
  | .tailWrite p v => Sys2Proof.Machine.execTailWrite p v s
  | .timerMatch t => Sys2Proof.Machine.execTimerMatch t s
  | .timerOverflow t => Sys2Proof.Machine.execTimerOverflow t s
  | .timerOutputAct t => Sys2Proof.Machine.execTimerOutputAct t s
  | .tmStart p t => Sys2Proof.Machine.execTmStart p t s
  | .tmStop p t => Sys2Proof.Machine.execTmStop p t s
  | .tmLoad p t => Sys2Proof.Machine.execTmLoad p t s
  | .tmCapture p t => Sys2Proof.Machine.execTmCapture p t s
  | .tmRelease p t => Sys2Proof.Machine.execTmRelease p t s
  | .tinEdge n level t => Sys2Proof.Machine.execTinEdge n level t s
  | .tinStuck n => Sys2Proof.Machine.execTinStuck n s
  | .countLoRead p t => Sys2Proof.Machine.execCountLoRead p t s
  | .capLtHiRead p t => Sys2Proof.Machine.execCapLtHiRead p t s
  | .nop e => Sys2Proof.Machine.execNop e s
  | .jr e ra => Sys2Proof.Machine.execJr e ra s
  | .jalr e rd ra => Sys2Proof.Machine.execJalr e rd ra s
  | .movx e x ra => Sys2Proof.Machine.execMovx e x ra s
  | .movfx e rd x => Sys2Proof.Machine.execMovfx e rd x s
  | .movs e x ra => Sys2Proof.Machine.execMovs e x ra s
  | .movfs e rd x => Sys2Proof.Machine.execMovfs e rd x s
  | .pushq e ra rb => Sys2Proof.Machine.execPushq e ra rb s
  | .pushqe e ra rb => Sys2Proof.Machine.execPushqe e ra rb s
  | .qabort e rb => Sys2Proof.Machine.execQabort e rb s
  | .qlast e ra rb => Sys2Proof.Machine.execQlast e ra rb s
  | .qstat e rd rb => Sys2Proof.Machine.execQstat e rd rb s
  | .popq e rd rb => Sys2Proof.Machine.execPopq e rd rb s
  | .qdrop e rb => Sys2Proof.Machine.execQdrop e rb s
  | .sync e => Sys2Proof.Machine.execSync e s
  | .halt e => Sys2Proof.Machine.execHalt e s
  | .trap e n => Sys2Proof.Machine.execTrap e n s
  | .skip e cc => Sys2Proof.Machine.execSkip e cc s
  | .add e rd ra rb => Sys2Proof.Machine.execAdd e rd ra rb s
  | .addc e rd ra rb => Sys2Proof.Machine.execAddc e rd ra rb s
  | .sub e rd ra rb => Sys2Proof.Machine.execSub e rd ra rb s
  | .subc e rd ra rb => Sys2Proof.Machine.execSubc e rd ra rb s
  | .adds e rd ra rb => Sys2Proof.Machine.execAdds e rd ra rb s
  | .subs e rd ra rb => Sys2Proof.Machine.execSubs e rd ra rb s
  | .neg e rd ra => Sys2Proof.Machine.execNeg e rd ra s
  | .negs e rd ra => Sys2Proof.Machine.execNegs e rd ra s
  | .abs e rd ra => Sys2Proof.Machine.execAbs e rd ra s
  | .abss e rd ra => Sys2Proof.Machine.execAbss e rd ra s
  | .cmp e ra rb => Sys2Proof.Machine.execCmp e ra rb s
  | .min e rd ra rb => Sys2Proof.Machine.execMin e rd ra rb s
  | .max e rd ra rb => Sys2Proof.Machine.execMax e rd ra rb s
  | .minu e rd ra rb => Sys2Proof.Machine.execMinu e rd ra rb s
  | .maxu e rd ra rb => Sys2Proof.Machine.execMaxu e rd ra rb s
  | .and e rd ra rb => Sys2Proof.Machine.execAnd e rd ra rb s
  | .or e rd ra rb => Sys2Proof.Machine.execOr e rd ra rb s
  | .xor e rd ra rb => Sys2Proof.Machine.execXor e rd ra rb s
  | .andn e rd ra rb => Sys2Proof.Machine.execAndn e rd ra rb s
  | .tst e ra rb => Sys2Proof.Machine.execTst e ra rb s
  | .shl e rd ra rb => Sys2Proof.Machine.execShl e rd ra rb s
  | .shr e rd ra rb => Sys2Proof.Machine.execShr e rd ra rb s
  | .sar e rd ra rb => Sys2Proof.Machine.execSar e rd ra rb s
  | .ror e rd ra rb => Sys2Proof.Machine.execRor e rd ra rb s
  | .rol e rd ra rb => Sys2Proof.Machine.execRol e rd ra rb s
  | .clz e rd ra => Sys2Proof.Machine.execClz e rd ra s
  | .popc e rd ra => Sys2Proof.Machine.execPopc e rd ra s
  | .brev e rd ra => Sys2Proof.Machine.execBrev e rd ra s
  | .sextb e rd ra => Sys2Proof.Machine.execSextb e rd ra s
  | .sexth e rd ra => Sys2Proof.Machine.execSexth e rd ra s
  | .zextb e rd ra => Sys2Proof.Machine.execZextb e rd ra s
  | .zexth e rd ra => Sys2Proof.Machine.execZexth e rd ra s
  | .mul e rd ra rb => Sys2Proof.Machine.execMul e rd ra rb s
  | .mulh e rd ra rb => Sys2Proof.Machine.execMulh e rd ra rb s
  | .mulhu e rd ra rb => Sys2Proof.Machine.execMulhu e rd ra rb s
  | .mulq e rd ra rb => Sys2Proof.Machine.execMulq e rd ra rb s
  | .mac e acc ra rb => Sys2Proof.Machine.execMac e acc ra rb s
  | .msu e acc ra rb => Sys2Proof.Machine.execMsu e acc ra rb s
  | .macu e acc ra rb => Sys2Proof.Machine.execMacu e acc ra rb s
  | .clra e acc => Sys2Proof.Machine.execClra e acc s
  | .mta e acc ra rb => Sys2Proof.Machine.execMta e acc ra rb s
  | .mova e rd acc k => Sys2Proof.Machine.execMova e rd acc k s
  | .movas e rd acc k => Sys2Proof.Machine.execMovas e rd acc k s
  | .div e rd ra rb => Sys2Proof.Machine.execDiv e rd ra rb s
  | .divu e rd ra rb => Sys2Proof.Machine.execDivu e rd ra rb s
  | .rem e rd ra rb => Sys2Proof.Machine.execRem e rd ra rb s
  | .remu e rd ra rb => Sys2Proof.Machine.execRemu e rd ra rb s
  | .divs e rd ra rb => Sys2Proof.Machine.execDivs e rd ra rb s
  | .addi e rd ra imm => Sys2Proof.Machine.execAddi e rd ra imm s
  | .addsi e rd ra imm => Sys2Proof.Machine.execAddsi e rd ra imm s
  | .andi e rd ra imm => Sys2Proof.Machine.execAndi e rd ra imm s
  | .ori e rd ra imm => Sys2Proof.Machine.execOri e rd ra imm s
  | .xori e rd ra imm => Sys2Proof.Machine.execXori e rd ra imm s
  | .cmpi e ra imm => Sys2Proof.Machine.execCmpi e ra imm s
  | .movi e rd imm => Sys2Proof.Machine.execMovi e rd imm s
  | .shli e rd ra amt => Sys2Proof.Machine.execShli e rd ra amt s
  | .shri e rd ra amt => Sys2Proof.Machine.execShri e rd ra amt s
  | .sari e rd ra amt => Sys2Proof.Machine.execSari e rd ra amt s
  | .rori e rd ra amt => Sys2Proof.Machine.execRori e rd ra amt s
  | .waitph e m => Sys2Proof.Machine.execWaitph e m s
  | .pushqi e ra q eop => Sys2Proof.Machine.execPushqi e ra q eop s
  | .popqi e rd q => Sys2Proof.Machine.execPopqi e rd q s
  | .ld e rd p am sz simm => Sys2Proof.Machine.execLd e rd p am sz simm s
  | .ldu e rd p am sz simm => Sys2Proof.Machine.execLdu e rd p am sz simm s
  | .st e rd p am sz simm => Sys2Proof.Machine.execSt e rd p am sz simm s
  | .ldx e x p am simm => Sys2Proof.Machine.execLdx e x p am simm s
  | .stx e x p am simm => Sys2Proof.Machine.execStx e x p am simm s
  | .mac2 e acc p q amp amq word => Sys2Proof.Machine.execMac2 e acc p q amp amq word s
  | .br e disp => Sys2Proof.Machine.execBr e disp s
  | .call e disp => Sys2Proof.Machine.execCall e disp s
  | .repN e n => Sys2Proof.Machine.execRepN e n s
  | .repLc e => Sys2Proof.Machine.execRepLc e s
  | .imx e v => Sys2Proof.Machine.execImx e v s
  | .fastInterruptEntry i1 => Sys2Proof.Machine.execFastInterruptEntry i1 s
  | .normalInterruptEntry => Sys2Proof.Machine.execNormalInterruptEntry s
  | .ctxRelease p x => Sys2Proof.Machine.execCtxRelease p x s
  | .ctxStep p x => Sys2Proof.Machine.execCtxStep p x s
  | .doorbell p v => Sys2Proof.Machine.execDoorbell p v s
  | .clrPend p i1 => Sys2Proof.Machine.execClrPend p i1 s
  | .setEnS p i1 => Sys2Proof.Machine.execSetEnS p i1 s
  | .clrEnS p i1 => Sys2Proof.Machine.execClrEnS p i1 s
  | .setEnH p i1 => Sys2Proof.Machine.execSetEnH p i1 s
  | .clrEnH p i1 => Sys2Proof.Machine.execClrEnH p i1 s
  | .clrStormed p i1 => Sys2Proof.Machine.execClrStormed p i1 s
  | .claimS p => Sys2Proof.Machine.execClaimS p s
  | .claimH p => Sys2Proof.Machine.execClaimH p s
  | .completeS p v => Sys2Proof.Machine.execCompleteS p v s
  | .completeH p v => Sys2Proof.Machine.execCompleteH p v s
  | .icBitmapWrite p b w v => Sys2Proof.Machine.execIcBitmapWrite p b w v s
  | .stormWindowEnd => Sys2Proof.Machine.execStormWindowEnd s
  | .moderationEnd => Sys2Proof.Machine.execModerationEnd s
  | .bar2Request addr write len => Sys2Proof.Machine.execBar2Request addr write len s
  | .l1Entry => Sys2Proof.Machine.execL1Entry s
  | .d3hotEntry => Sys2Proof.Machine.execD3hotEntry s
  | .d0Entry => Sys2Proof.Machine.execD0Entry s
  | .flr => Sys2Proof.Machine.execFlr s
  | .hotReset => Sys2Proof.Machine.execHotReset s
  | .linkDown => Sys2Proof.Machine.execLinkDown s
  | .outletTailWrite p o v => Sys2Proof.Machine.execOutletTailWrite p o v s
  | .descFetchDone o r => Sys2Proof.Machine.execDescFetchDone o r s
  | .close p o => Sys2Proof.Machine.execClose p o s
  | .outletFlushTimeout o => Sys2Proof.Machine.execOutletFlushTimeout o s
  | .packetAcked o => Sys2Proof.Machine.execPacketAcked o s
  | .mgmtTransaction x => Sys2Proof.Machine.execMgmtTransaction x s
  | .stretchTimeout => Sys2Proof.Machine.execStretchTimeout s
  | .busStuckTimeout => Sys2Proof.Machine.execBusStuckTimeout s
  | .attentionRequest r => Sys2Proof.Machine.execAttentionRequest r s
  | .atnAbandon => Sys2Proof.Machine.execAtnAbandon s
  | .backoffEnd => Sys2Proof.Machine.execBackoffEnd s
  | .atnRaise p => Sys2Proof.Machine.execAtnRaise p s
  | .cwWriteApply => Sys2Proof.Machine.execCwWriteApply s
  | .senseChange n level a => Sys2Proof.Machine.execSenseChange n level a s
  | .senseStuck n => Sys2Proof.Machine.execSenseStuck n s
  | .pollDue e => Sys2Proof.Machine.execPollDue e s
  | .pollTransferDone bytes => Sys2Proof.Machine.execPollTransferDone bytes s
  | .drainRecord => Sys2Proof.Machine.execDrainRecord s
  | .releaseWake p => Sys2Proof.Machine.execReleaseWake p s
  | .emptyBatch p => Sys2Proof.Machine.execEmptyBatch p s
  | .wakeHoldExpiry => Sys2Proof.Machine.execWakeHoldExpiry s
  | .tblDataAccess p write => Sys2Proof.Machine.execTblDataAccess p write s
  | .powerDown => Sys2Proof.Machine.execPowerDown s
  | .startUpComplete ms cals => Sys2Proof.Machine.execStartUpComplete ms cals s
  | .configurationRequest x => Sys2Proof.Machine.execConfigurationRequest x s
  | .l1Exit => Sys2Proof.Machine.execL1Exit s
  | .aonLoRead p => Sys2Proof.Machine.execAonLoRead p s
  | .illegalEncoding e w => Sys2Proof.Machine.execIllegalEncoding e w s
  | .viermaLinkTrained p => Sys2Proof.Machine.execViermaLinkTrained p s
  | .lossOfSignal p lost crcErrors => Sys2Proof.Machine.execLossOfSignal p lost crcErrors s
  | .enum f => Sys2Proof.Machine.execEnum f s
  | .delay p roundTripPs => Sys2Proof.Machine.execDelay p roundTripPs s
  | .phase f => Sys2Proof.Machine.execPhase f s
  | .fieldJoin t => Sys2Proof.Machine.execFieldJoin t s
  | .fire p n => Sys2Proof.Machine.execFire p n s
  | .fieldReset k => Sys2Proof.Machine.execFieldReset k s
  | .query n => Sys2Proof.Machine.execQuery n s
  | .vote n a ok => Sys2Proof.Machine.execVote n a ok s
  | .fieldEventDecide n => Sys2Proof.Machine.execFieldEventDecide n s
  | .go n t => Sys2Proof.Machine.execGo n t s
  | .refuse n => Sys2Proof.Machine.execRefuse n s
  | .fieldEventInstant n => Sys2Proof.Machine.execFieldEventInstant n s
  | .wready a cfg amp avg wpos => Sys2Proof.Machine.execWready a cfg amp avg wpos s
  | .fstart t => Sys2Proof.Machine.execFstart t s
  | .data d => Sys2Proof.Machine.execData d s
  | .page m => Sys2Proof.Machine.execPage m s
  | .proxyTimeout p => Sys2Proof.Machine.execProxyTimeout p s
  | .record m => Sys2Proof.Machine.execRecord m s
  | .uplinkLoss => Sys2Proof.Machine.execUplinkLoss s
  | .downlinkLoss p lost => Sys2Proof.Machine.execDownlinkLoss p lost s
  | .scrubAccess m a r => Sys2Proof.Machine.execScrubAccess m a r s
  | .wearSnapshot ok => Sys2Proof.Machine.execWearSnapshot ok s
  | .eolPrediction => Sys2Proof.Machine.execEolPrediction s
  | .idleSlotCalibration => Sys2Proof.Machine.execIdleSlotCalibration s
  | .referenceCheck p => Sys2Proof.Machine.execReferenceCheck p s
  | .referenceCheckDone ppm => Sys2Proof.Machine.execReferenceCheckDone ppm s
  | .program p headerCrcOk => Sys2Proof.Machine.execProgram p headerCrcOk s
  | .fwProgramDone ok => Sys2Proof.Machine.execFwProgramDone ok s
  | .load p => Sys2Proof.Machine.execLoad p s
  | .fwLoadDone crcOk => Sys2Proof.Machine.execFwLoadDone crcOk s
  | .switch p ns => Sys2Proof.Machine.execSwitch p ns s
  | .monBreak => Sys2Proof.Machine.execMonBreak s
  | .monId => Sys2Proof.Machine.execMonId s
  | .monUnlock l c => Sys2Proof.Machine.execMonUnlock l c s
  | .monKey r => Sys2Proof.Machine.execMonKey r s
  | .monLock => Sys2Proof.Machine.execMonLock s
  | .monBaud n => Sys2Proof.Machine.execMonBaud n s
  | .baudRevert => Sys2Proof.Machine.execBaudRevert s
  | .lockoutEnd => Sys2Proof.Machine.execLockoutEnd s
  | .monPeek a n => Sys2Proof.Machine.execMonPeek a n s
  | .monRd a n => Sys2Proof.Machine.execMonRd a n s
  | .monWr a v => Sys2Proof.Machine.execMonWr a v s
  | .monPop q => Sys2Proof.Machine.execMonPop q s
  | .monQdrop q => Sys2Proof.Machine.execMonQdrop q s
  | .monPush q v eop => Sys2Proof.Machine.execMonPush q v eop s
  | .monCtx c k => Sys2Proof.Machine.execMonCtx c k s
  | .monCtxStep c k => Sys2Proof.Machine.execMonCtxStep c k s
  | .monCtxRelease c k => Sys2Proof.Machine.execMonCtxRelease c k s
  | .monHalt => Sys2Proof.Machine.execMonHalt s
  | .monGo => Sys2Proof.Machine.execMonGo s
  | .monSstep => Sys2Proof.Machine.execMonSstep s
  | .haltTimeout => Sys2Proof.Machine.execHaltTimeout s
  | .monSreg r => Sys2Proof.Machine.execMonSreg r s
  | .monFlap n => Sys2Proof.Machine.execMonFlap n s
  | .monFlapOpen n => Sys2Proof.Machine.execMonFlapOpen n s
  | .extest => Sys2Proof.Machine.execExtest s
  | .highz => Sys2Proof.Machine.execHighz s
  | .idcode => Sys2Proof.Machine.execIdcode s
  | .samplePreload => Sys2Proof.Machine.execSamplePreload s
  | .bypass => Sys2Proof.Machine.execBypass s
  | .debug op v off => Sys2Proof.Machine.execDebug op v off s

end Sys2Proof.Machine
end

