-- ==== Sys2Proof/Machine/Tick.lean ====
section
/-! DEFINITION. A tick of the clock, which passes where no command waits (DESIGN CHOICE, notes/assumptions/1): one CK_SYS cycle
of 1 ns, or one CK_AON cycle while CK_SYS stands still. Only what the spec drives by the clock itself moves; what the outside or
a longer interval brings has a command of its own. -/

namespace Sys2Proof.Machine

/-- Ticks of the timers' clock sources in this cycle (R314): CK_SYS, CK_REF, CK_AON. -/
def Dev.tmClocks (d : Dev) (ref aon : Bool) : Dev :=
  forRange 32 (fun t (d : Dev) =>
    match d.tmSrc t with
    | 0 => d.tmTick t
    | 1 => if ref then d.tmTick t else d
    | 2 => if aon then d.tmTick t else d
    | _ => d) d

/-- IDLE counts the CK_SEQ cycles in which no context of a camp is ready (R362, R386): CK_SEQ has an edge at every even LTIME
(R44; DESIGN CHOICE of the phase, notes/assumptions/54). -/
def Dev.seqIdle (d : Dev) : Dev :=
  if d.now.toNat % 2 ≠ 0 then d
  else
    let busy := ((SMap.keys d.ctxs ++ d.knownUnits.filterMap (fun u => match u with | .ctx x => some x | _ => none)).filter d.ctxReady).map (· / 10)
    forRange 16 (fun c (d : Dev) =>
      let a := 0x105048 + c * 0x10000
      if busy.contains c then d else d.wr a (d.rd a + 1)) d

/-- The rate of CK_AON in Hz: that of the crystal, or during the RC fallback a free one within 5 % of it (R47). -/
def Dev.aonHz (d : Dev) : Nat :=
  if d.pwr.aonRc then min 34406 (max 31130 (Config.rcHz d.now.toNat)) else 32768

/-- LTIME counts (R18, R72), and with it the island's count (R453). An edge of CK_AON ticks the timers 2 or 3 cycles later, which of
the two is free (R49, R314): whether one does so here. -/
def Dev.timePasses (d : Dev) : Dev × Bool :=
  let p := d.pwr
  let f := p.aonFrac + d.aonHz
  let edge := decide (1000000000 ≤ f)
  ({ d with pwr := { p with ltime := p.ltime + 1, aonFrac := if edge then f - 1000000000 else f,
                            aonCnt := if edge then p.aonCnt + 1 else p.aonCnt
                            aonDue := if edge then (if Config.aonLate d.now.toNat then 3 else 2) else p.aonDue - 1 } }, p.aonDue == 1)

/-- Downward counts of CK_SYS, and what their ends bring: the moderation interval (R397) and the watchdog, which pauses while
the debug access holds the core (R383). -/
def Dev.countDown (d : Dev) : Dev :=
  let e := d.esc
  let d := if d.ic.modLeft == 1 then d.modEnd else { d with ic := { d.ic with modLeft := d.ic.modLeft - 1 } }
  if e.running && !e.monHalt then
    if e.wdog == 1 then d.wdogExpire else d.setEsc { e with wdog := e.wdog - 1 }
  else d

/-- The end of a CK_SYS cycle: the marks that it has crossed fire, in ascending order, those that MARK_FIRE has brought apart, and
so do the timers' phase ticks (R169, R314). -/
def Dev.cycleEnd (d : Dev) : Dev :=
  let from_ := d.cps.seen
  let pos := d.tracked.pos
  let d :=
    if pos = from_ || !d.marksFire then d
    else
      let hits := (List.range 256).filterMap (fun m => (d.markHit m).map (fun h => (m, h)))
      -- a timer steps before the events of the cycle act on it (R318)
      let d := forEach hits (fun h (d : Dev) => d.flMarkAll h.1 d.now) (d.phaseTicks from_ pos)
      forEach hits (fun h (d : Dev) => d.fireMark h.1 h.2.1 h.2.2.1 h.2.2.2) d
  (d.setCps { d.cps with seen := d.tracked.pos, fired := [], markWas := [] }).tmClose

/-- Armed pitches whose instant comes with this cycle, lowest controller first (R104). -/
def Dev.pitchTimes (d : Dev) : Dev :=
  forEach ((List.range 17).filter (fun k => (d.ctl k).ps == .armed && d.pitchDue k)) (fun k (d : Dev) => d.pitchApply k) d

/-- The outputs that the timers owe from the cycle before: timer, match, overflow (R319). -/
def Dev.tmOwed (d : Dev) : List (Nat × Bool × Bool) :=
  (List.range 32).map (fun t => (t, (d.tm t).outM, (d.tm t).outO))

/-- The end of one cycle of CK_SYS and the next. Timers that ran at its start step first, then come the pitches, then the ends of downward counts, whose
hard opens win over what a pitch of the cycle closes (R130), then the outputs that the cycle before left (R318, R319,
R324), and the grid outputs whose phase this cycle reaches (R229). -/
def Dev.cycle (d0 : Dev) : Dev :=
  let d := d0
  let (d, aon) := d.cycleEnd.timePasses
  let d := if d.pwr.aonCnt = d0.pwr.aonCnt then d else d.cwEdge
  let d := d.holdAgain
  let owed := d.tmOwed
  let d := forRange 32 (fun t (d : Dev) => d.updTm t (fun x => { x with outM := false, outO := false })) d.hardOver
  let d := ((d.tmClocks (d.now.toNat % 10 == 0) aon).pitchTimes).countDown
  ((d.tmOutputsOf owed).releaseAll).retryAll.seqIdle

/-- One cycle of CK_AON while CK_SYS stands still. -/
def Dev.aonCycle (d : Dev) : Dev := ({ d with pwr := { d.pwr with aonCnt := d.pwr.aonCnt + 1, aonFrac := 0 } } : Dev).cwEdge

def tick (s : State) : State :=
  if s.dev.pwr.ckSys then (s.act Dev.cycle).runSteps
  else if s.dev.pwr.vaonOk then { s with dev := s.dev.aonCycle }
  else s

end Sys2Proof.Machine
end

