-- ==== Sys2Proof/Safety.lean ====
section
/-! DEFINITION. What counts as a safe run: no command stops the machine, and Lakebed keeps its canonical form. -/

namespace Sys2Proof.Machine

/-- Lakebed's list is canonical, so that equal memories are equal data. -/
def State.Canonical (s : State) : Prop := Memory.wf s.mem = true

/-- A step that answers a next state. -/
def State.Runs (s : State) : Prop := ∃ t, step s = .next t

/-- The states that satisfy a property and every state that a step leads to from one of them. -/
def Keeps (p : State → Prop) : Prop := ∀ s t, p s → step s = .next t → p t

/-- A path other than a sequencer's, which can reach the registers. -/
def State.Via (s : State) (p : Path) : Prop := s.dev.pathOk p = true ∧ (p = .host ∨ p = .mgmt ∨ p = .efyonS)

/-- CK_SYS serves the registers. -/
abbrev State.Alive (s : State) : Prop := s.dev.alive = true

/-- The core issues the next instruction and executes it: it is ready, nothing skips the instruction, REP does not repeat it
no times, IMX extends it only if it may, and its word can be fetched. On Efyon-S no entry is in progress and no exit token
follows; on Efyon-L no earlier result is still to come. -/
def State.CanIssue (s : State) (e : CoreId) (imm : Bool) : Prop :=
  let c := s.dev.core e
  s.Alive ∧ s.dev.ready e = true ∧ c.skip = false ∧ c.rep ≠ some 0 ∧ (c.imx = none ∨ imm = true) ∧
    match e with
    | .main => s.dev.esc.entering = false ∧ s.mainFetchBad c.pc = false ∧ c.retire.pc.toNat < 0xFFFFFF00
    | .seq x => s.dev.seqFetchBad x.val c.pc = false ∧ c.pend = []

/-- The device once the instruction has been counted: ISSUED of the camp's sequencer. -/
def Dev.counted (d : Dev) : CoreId → Dev
  | .main => d
  | .seq x => d.issued x.val

/-- The state at the end of a command that left the core `c`, Lakebed as it was, and nothing else changed. -/
def State.coreIs (s : State) (e : CoreId) (c : Core) : State :=
  State.finish { s with dev := (s.dev.counted e).setCore e c }

/-- Nothing is due at the end of the cycle: no unit waits for a hold, no admission walk is due, no scan acts, no wake event
waits, no trip stands, no aperture's delay ends, no Weir run is due to start, stop or tell its captured words, the READY ball is as
its conditions say, no message is due to leave, and no cause of attention, image or field state is new. -/
def Dev.Quiet (d : Dev) : Prop :=
  d.holds = [] ∧ d.stove.walkDue = false ∧ d.scanning = false ∧ d.pwr.wakeReq = false ∧ d.pwr.trip = false ∧
  d.pwr.fill = false ∧ d.apsDue = [] ∧
  (d.weir.run.all (fun w => w.stop.isNone && !w.sent && (!w.cfg.field || w.told))) = true ∧
  (d.readyOk = true ∨ d.pwr.ball = false) ∧ d.mgmt.anyFault = d.anyFault ∧ d.mgmt.anyHeld = d.anyHeld ∧
  (d.ic.owed && (d.ic.urgent || d.ic.modLeft == 0) && (d.canSend || d.host.d3 || d.host.l1)) = false ∧
  d.vl.seen = d.fieldState.code ∧ d.health.load = none

/-- FLAGS with the flags that a result sets. -/
def Core.withFlags (c : Core) (r : Res) : Core :=
  { c with flags := (c.flags &&& ~~~(r.mask.truncate 6)) ||| ((r.fl &&& r.mask).truncate 6) }

/-- Writes of one instruction to registers as numbered in `PendW`, with their masks, seen at a distance (R363): the core with
them. On Efyon-S a write takes effect at once (R372). -/
def Core.gets (c : Core) (e : CoreId) (n dist : Nat) (ws : List (Nat × Word × Word)) : Core :=
  let l := ws.map (fun w => (⟨w.1, w.2.1, w.2.2, n + dist⟩ : PendW))
  match e with
  | .main => l.foldl Core.apply c
  | .seq _ => if dist = 1 then l.foldl Core.apply c else { c with pend := c.pend ++ l }

/-- The device in which the instruction that `e` issues has been counted and the core stands behind it. -/
def Dev.stepped (d : Dev) (e : CoreId) : Dev := (d.counted e).setCore e (d.core e).retire

/-- The end of an instruction that acted on the rest of the state: results that have come to their distance take effect on
Efyon-L; on Efyon-S an exit whose token the pc has reached takes place. -/
def State.ends (s : State) : CoreId → State
  | .main => (State.land 4 s).finish
  | .seq x => State.finish { s with dev := s.dev.ctxSettle x.val }

/-- An instruction that acts on the device beside its core. -/
def State.acts (s : State) (e : CoreId) (f : Dev → Dev) : State := State.ends { s with dev := f (s.dev.stepped e) } e

end Sys2Proof.Machine
end

