-- ==== Sys2Proof/Certificates/Slice0/Obligations.lean ====
section
/-! DEFINITION. The statements for the provers. Each docstring names the rules of spec/ that the statement formalises. -/

open Sys2Proof Sys2Proof.Machine

/-! ### The queue, Lakebed and reset -/

/-- A step takes the command at the front of the queue and runs it on the state with the queue's rest. -/
def Obligations.StepRunsFrontCommand : Prop :=
  ∀ (i : Instr) (rest : List Instr) (s : State), step { s with pending := i :: rest } = exec i { s with pending := rest }

/-- Where no command waits, a clock tick passes: while CK_SYS runs a cycle acts, in which LTIME counts by 1; while it stands still
the island's count moves if VAON is present, and nothing but its polls with it. The tick on an empty queue is the model's
choice (notes/assumptions/1). -/
def Obligations.EmptyQueueTicks : Prop :=
  ∀ s : State, s.pending = [] →
    step s = .next (tick s) ∧
    (s.dev.pwr.ckSys = true → tick s = (s.act Dev.cycle).runSteps ∧ (s.dev.timePasses).1.now = s.dev.now + 1) ∧
    (s.dev.pwr.ckSys = false → s.dev.pwr.vaonOk = true →
      ∃ cw, tick s = { s with dev := { s.dev with pwr := { s.dev.pwr with aonCnt := s.dev.pwr.aonCnt + 1, aonFrac := 0 }, cw := cw } }) ∧
    (s.dev.pwr.ckSys = false → s.dev.pwr.vaonOk = false → tick s = s)

/-- Every command completes on every state, and leaves the queue of waiting commands alone. -/
def Obligations.EveryCommandCompletes : Prop :=
  ∀ (i : Instr) (s : State), ∃ t, exec i s = .next t ∧ t.pending = s.pending

/-- Lakebed's list stays canonical through every step, whatever command or tick it is. -/
def Obligations.StepKeepsCanonical : Prop :=
  Keeps State.Canonical

/-- Lakebed is canonical after reset, no command waits, and an unlisted byte reads 0 (the value of such a byte is the model's
choice, notes/assumptions/2). -/
def Obligations.ResetCanonical : Prop :=
  State.reset.Canonical ∧ State.reset.pending = [] ∧ ∀ a, Memory.byte State.reset.mem a = 0

/-- Reset: only the always-on island has power, no queue holds a packet, no flap is closed, the counts are 0, and registers read
the reset values of R149, R215 and others. -/
def Obligations.ResetValues : Prop :=
  let d := State.reset.dev
  d.pwr.st = .campwatch ∧ d.pwr.devOff = true ∧ d.now = 0 ∧ d.pwr.aonCnt = 0 ∧ d.alive = false ∧
  d.mon.level = 0 ∧ d.mon.baud = 115200 ∧ d.esc.running = false ∧
  (∀ u, d.ust u = .off) ∧ (∀ q, (d.queue q).pkts = []) ∧
  (∀ n, (d.ch n).fF.shut = false ∧ (d.ch n).fS.shut = false ∧ (d.ch n).ampOn = false) ∧
  (∀ n < 512, d.rd (0x200048 + n * 0x1000) = 0x0CCDFFFF) ∧ d.rd 0xA040 = 0x00011010 ∧ d.rd 0x3044 = 0x00002710 ∧
  d.rf 0x1D044 15 0 = 2000

/-! ### Efyon: results -/

/-- Every ALU instruction gives its result to rd and its flags to FLAGS, counts, and changes no other register of its core and
nothing else of the device (CMP and TST write no register; d0 takes no value). -/
def Obligations.AluResults : Prop :=
  ∀ (e : CoreId) (rd ra rb : Reg) (s : State), s.CanIssue e false →
    let c := s.dev.core e
    let a := c.dr ra.val
    let b := c.dr rb.val
    let put := fun (n : Nat) (r : Res) =>
      (Host.Outcome.next (s.coreIs e ((c.retire.setD n r.v).withFlags r)) : Host.Outcome State Fault Refusal)
    let gives := put rd.val
    exec (.add e rd ra rb) s = gives (addRes a b false) ∧
    exec (.addc e rd ra rb) s = gives (addRes a b (c.flag 2)) ∧
    exec (.sub e rd ra rb) s = gives (subRes a b false) ∧
    exec (.subc e rd ra rb) s = gives (subRes a b (!c.flag 2)) ∧
    exec (.adds e rd ra rb) s = gives (satSum (a.toInt + b.toInt)) ∧
    exec (.subs e rd ra rb) s = gives (satSum (a.toInt - b.toInt)) ∧
    exec (.neg e rd ra) s = gives (subRes 0 a false) ∧
    exec (.negs e rd ra) s = gives (satSum (-a.toInt)) ∧
    exec (.abs e rd ra) s = gives (absRes a) ∧
    exec (.abss e rd ra) s = gives (satSum a.toInt.natAbs) ∧
    exec (.cmp e ra rb) s = put 0 (subRes a b false) ∧
    exec (.min e rd ra rb) s = gives (.of (if a.toInt ≤ b.toInt then a else b)) ∧
    exec (.max e rd ra rb) s = gives (.of (if a.toInt ≤ b.toInt then b else a)) ∧
    exec (.minu e rd ra rb) s = gives (.of (if a.toNat ≤ b.toNat then a else b)) ∧
    exec (.maxu e rd ra rb) s = gives (.of (if a.toNat ≤ b.toNat then b else a)) ∧
    exec (.and e rd ra rb) s = gives (.of (a &&& b) none (some false)) ∧
    exec (.or e rd ra rb) s = gives (.of (a ||| b) none (some false)) ∧
    exec (.xor e rd ra rb) s = gives (.of (a ^^^ b) none (some false)) ∧
    exec (.andn e rd ra rb) s = gives (.of (a &&& ~~~b) none (some false)) ∧
    exec (.tst e ra rb) s = put 0 (.of (a &&& b) none (some false)) ∧
    exec (.shl e rd ra rb) s = gives (shlRes a (b.toNat % 256)) ∧
    exec (.shr e rd ra rb) s = gives (shrRes a (b.toNat % 256)) ∧
    exec (.sar e rd ra rb) s = gives (sarRes a (b.toNat % 256)) ∧
    exec (.ror e rd ra rb) s = gives (.of (a.rotateRight (b.toNat % 256 % 32))) ∧
    exec (.rol e rd ra rb) s = gives (.of (a.rotateLeft (b.toNat % 256 % 32))) ∧
    exec (.clz e rd ra) s = gives (.of (w32 (clz a))) ∧
    exec (.popc e rd ra) s = gives (.of (w32 (bitCount a))) ∧
    exec (.brev e rd ra) s = gives (.of (brev a)) ∧
    exec (.sextb e rd ra) s = gives (.of ((a.truncate 8).signExtend 32)) ∧
    exec (.sexth e rd ra) s = gives (.of ((a.truncate 16).signExtend 32)) ∧
    exec (.zextb e rd ra) s = gives (.of (a &&& 0xFF)) ∧
    exec (.zexth e rd ra) s = gives (.of (a &&& 0xFFFF))

/-- The immediate instructions act as their ALU kind, with the immediate extended by IMX where it stands before them, else by its
sign (ADDI, ADDSI, CMPI, MOVI) or with zeros (ANDI, ORI, XORI). -/
def Obligations.ImmediateResults : Prop :=
  ∀ (e : CoreId) (rd ra : Reg) (i : BitVec 16) (k : BitVec 8) (s : State),
    let c := s.dev.core e
    let a := c.dr ra.val
    let sx : Word := match c.imx with | some h => h ++ i | none => i.signExtend 32
    let zx : Word := match c.imx with | some h => h ++ i | none => i.zeroExtend 32
    let put := fun (n : Nat) (r : Res) =>
      (Host.Outcome.next (s.coreIs e ((c.retire.setD n r.v).withFlags r)) : Host.Outcome State Fault Refusal)
    let gives := put rd.val
    (s.CanIssue e true →
      exec (.addi e rd ra i) s = gives (addRes a sx false) ∧
      exec (.addsi e rd ra i) s = gives (satSum (a.toInt + sx.toInt)) ∧
      exec (.andi e rd ra i) s = gives (.of (a &&& zx) none (some false)) ∧
      exec (.ori e rd ra i) s = gives (.of (a ||| zx) none (some false)) ∧
      exec (.xori e rd ra i) s = gives (.of (a ^^^ zx) none (some false)) ∧
      exec (.cmpi e ra i) s = put 0 (subRes a sx false) ∧
      exec (.movi e rd i) s = .next (s.coreIs e (c.retire.setD rd.val sx))) ∧
    (s.CanIssue e false →
      exec (.shli e rd ra k) s = gives (shlRes a k.toNat) ∧
      exec (.shri e rd ra k) s = gives (shrRes a k.toNat) ∧
      exec (.sari e rd ra k) s = gives (sarRes a k.toNat) ∧
      exec (.rori e rd ra k) s = gives (.of (a.rotateRight (k.toNat % 32))))

/-- Products and the moves out of an accumulator are seen at distance 2 on Efyon-L and at once on Efyon-S; their flags are seen by
the next instruction on both (R347, R363). -/
def Obligations.ProductResults : Prop :=
  ∀ (e : CoreId) (rd ra rb : Reg) (acc : AccIx) (k : Fin 32) (s : State), s.CanIssue e false →
    let c := s.dev.core e
    let a := c.dr ra.val
    let b := c.dr rb.val
    let x := c.ar acc.val
    let gives := fun (r : Res) =>
      (Host.Outcome.next (s.coreIs e ((c.retire.gets e c.n 2 [(rd.val, r.v, 0xFFFFFFFF)]).withFlags r)) :
        Host.Outcome State Fault Refusal)
    exec (.mul e rd ra rb) s = gives (mulRes a b) ∧
    exec (.mulh e rd ra rb) s = gives (.of (BitVec.ofInt 32 (a.toInt * b.toInt / 2 ^ 32))) ∧
    exec (.mulhu e rd ra rb) s = gives (.of (BitVec.ofNat 32 (a.toNat * b.toNat / 2 ^ 32))) ∧
    exec (.mulq e rd ra rb) s = gives (mulqRes a b) ∧
    exec (.mova e rd acc k) s = .next (s.coreIs e (c.retire.gets e c.n 2 [(rd.val, (x >>> k.val).truncate 32, 0xFFFFFFFF)])) ∧
    exec (.movas e rd acc k) s = gives (movasRes x k.val)

/-- The accumulate instructions change one accumulator, modulo 2⁷², and no flag. -/
def Obligations.AccumulatorResults : Prop :=
  ∀ (e : CoreId) (acc : AccIx) (ra rb : Reg) (s : State), s.CanIssue e false →
    let c := s.dev.core e
    let a := c.dr ra.val
    let b := c.dr rb.val
    let x := (c.ar acc.val).toInt
    let gives := fun (i : Int) =>
      (Host.Outcome.next (s.coreIs e (c.retire.setA acc.val (BitVec.ofInt 72 i))) : Host.Outcome State Fault Refusal)
    exec (.mac e acc ra rb) s = gives (x + a.toInt * b.toInt) ∧
    exec (.msu e acc ra rb) s = gives (x - a.toInt * b.toInt) ∧
    exec (.macu e acc ra rb) s = gives (x + (a.toNat * b.toNat : Nat)) ∧
    exec (.clra e acc) s = gives 0 ∧
    exec (.mta e acc ra rb) s = gives (b.toInt * 2 ^ 32 + (a.toNat : Int))

/-- A division gives its quotient or remainder and its flags; by 0 on Efyon-S with CTRL.TRAPDZ it does so too, and a
divide-by-zero exception (vector 2) follows with the next instruction as its return point. A context is busy for 16 CK_SEQ. -/
def Obligations.DivisionResults : Prop :=
  ∀ (e : CoreId) (rd ra rb : Reg) (s : State), s.CanIssue e false →
    let c := s.dev.core e
    let a := c.dr ra.val
    let b := c.dr rb.val
    let after := fun (r : Res) => { (c.retire.setD rd.val r.v).withFlags r with busy := some (2, s.dev.now + 32) }
    let gives := fun (r : Res) => (Host.Outcome.next (s.coreIs e (after r)) : Host.Outcome State Fault Refusal)
    let traps := fun (r : Res) => (Host.Outcome.next (State.finish (State.exception
      { s with dev := s.dev.setCore e (after r) } 2 0 0 (after r).returnPoint)) : Host.Outcome State Fault Refusal)
    let dz := e = .main ∧ b = 0 ∧ c.ctrl.getLsbD 0 = true
    (¬dz →
      exec (.div e rd ra rb) s = gives (divRes a b) ∧
      exec (.divu e rd ra rb) s = gives (divuRes a b) ∧
      exec (.rem e rd ra rb) s = gives (remRes a b) ∧
      exec (.remu e rd ra rb) s = gives (remuRes a b) ∧
      exec (.divs e rd ra rb) s = gives (divsRes a b)) ∧
    (dz →
      exec (.div e rd ra rb) s = traps (divRes a b) ∧
      exec (.divu e rd ra rb) s = traps (divuRes a b) ∧
      exec (.rem e rd ra rb) s = traps (remRes a b) ∧
      exec (.remu e rd ra rb) s = traps (remuRes a b) ∧
      exec (.divs e rd ra rb) s = traps (divsRes a b))

/-- Results and flags of R339 and R340 as exact arithmetic: sums and differences with carry and overflow, saturation, products,
quotients and remainders. -/
def Obligations.ArithmeticIsExact : Prop :=
  ∀ (a b : Word) (k : Bool),
    (let r := addRes a b k
     r.v.toNat = (a.toNat + b.toNat + k.toNat) % 2 ^ 32 ∧
     (r.fl.getLsbD 2 = true ↔ 2 ^ 32 ≤ a.toNat + b.toNat + k.toNat) ∧
     (r.fl.getLsbD 3 = true ↔ ¬(-2 ^ 31 ≤ a.toInt + b.toInt + k.toNat ∧ a.toInt + b.toInt + k.toNat < 2 ^ 31)) ∧
     (r.fl.getLsbD 0 = true ↔ r.v = 0) ∧ (r.fl.getLsbD 1 = r.v.msb) ∧ r.mask = 0xF) ∧
    (let r := subRes a b k
     (r.v.toNat : Int) = ((a.toNat : Int) - b.toNat - k.toNat) % 2 ^ 32 ∧
     (r.fl.getLsbD 2 = true ↔ b.toNat + k.toNat ≤ a.toNat) ∧
     (r.fl.getLsbD 3 = true ↔ ¬(-2 ^ 31 ≤ a.toInt - b.toInt - k.toNat ∧ a.toInt - b.toInt - k.toNat < 2 ^ 31)) ∧
     (r.fl.getLsbD 0 = true ↔ r.v = 0) ∧ (r.fl.getLsbD 1 = r.v.msb) ∧ r.mask = 0xF) ∧
    (let r := satSum (a.toInt + b.toInt)
     r.v.toInt = max (-2 ^ 31) (min (2 ^ 31 - 1) (a.toInt + b.toInt)) ∧
     (r.fl.getLsbD 4 = true ↔ r.v.toInt ≠ a.toInt + b.toInt) ∧ r.fl.getLsbD 3 = false) ∧
    (let r := mulqRes a b
     r.v.toInt = min (2 ^ 31 - 1) (a.toInt * b.toInt / 2 ^ 31) ∧ (r.fl.getLsbD 4 = true ↔ a = 0x80000000 ∧ b = 0x80000000)) ∧
    (b ≠ 0 → (divuRes a b).v.toNat = a.toNat / b.toNat ∧ (remuRes a b).v.toNat = a.toNat % b.toNat ∧
      (divsRes a b).v.toInt = min (2 ^ 31 - 1) (a.toInt.tdiv b.toInt) ∧
      (remRes a b).v.toInt = a.toInt.tmod b.toInt ∧
      ((divRes a b).fl.getLsbD 3 = true ↔ a = 0x80000000 ∧ b = 0xFFFFFFFF))

/-- The edge cases of R357: results, and the flags that its table names. -/
def Obligations.ArithmeticEdgeCases : Prop :=
  (addRes 0x7FFFFFFF 1 false).v = 0x80000000 ∧ (addRes 0x7FFFFFFF 1 false).fl &&& 0xC = 0x8 ∧
  (satSum ((0x7FFFFFFF : Word).toInt + 1)).v = 0x7FFFFFFF ∧ (satSum ((0x7FFFFFFF : Word).toInt + 1)).fl &&& 0x10 = 0x10 ∧
  (satSum ((0x80000000 : Word).toInt - 1)).v = 0x80000000 ∧ (satSum ((0x80000000 : Word).toInt - 1)).fl &&& 0x10 = 0x10 ∧
  (subRes 0 0x80000000 false).v = 0x80000000 ∧ (subRes 0 0x80000000 false).fl &&& 0x8 = 0x8 ∧
  (satSum (-(0x80000000 : Word).toInt)).v = 0x7FFFFFFF ∧ (satSum (-(0x80000000 : Word).toInt)).fl &&& 0x10 = 0x10 ∧
  (absRes 0x80000000).v = 0x80000000 ∧ (absRes 0x80000000).fl &&& 0xA = 0xA ∧
  (satSum (0x80000000 : Word).toInt.natAbs).v = 0x7FFFFFFF ∧ (satSum (0x80000000 : Word).toInt.natAbs).fl &&& 0x10 = 0x10 ∧
  (mulRes 0x80000000 0xFFFFFFFF).v = 0x80000000 ∧ (mulRes 0x80000000 0xFFFFFFFF).fl &&& 0x8 = 0x8 ∧
  (mulqRes 0x80000000 0x80000000).v = 0x7FFFFFFF ∧ (mulqRes 0x80000000 0x80000000).fl &&& 0x10 = 0x10 ∧
  (divRes 0x80000000 0xFFFFFFFF).v = 0x80000000 ∧ (divRes 0x80000000 0xFFFFFFFF).fl &&& 0x8 = 0x8 ∧
  (remRes 0x80000000 0xFFFFFFFF).v = 0 ∧
  (divsRes 0x80000000 0xFFFFFFFF).v = 0x7FFFFFFF ∧ (divsRes 0x80000000 0xFFFFFFFF).fl &&& 0x18 = 0x10 ∧
  (divsRes 0x80000000 0xFFFFFFFF).mask &&& 0x8 = 0x8 ∧
  (∀ a : Word, (divRes a 0).v = (if 0 ≤ a.toInt then 0x7FFFFFFF else 0x80000000) ∧ (divsRes a 0) = divRes a 0 ∧
    (divuRes a 0).v = 0xFFFFFFFF ∧ (remRes a 0).v = a ∧ (remuRes a 0).v = a ∧
    ∀ r ∈ [divRes a 0, divuRes a 0, remRes a 0, remuRes a 0, divsRes a 0],
      r.fl.getLsbD 5 = true ∧ r.fl.getLsbD 3 = false ∧ r.mask = 0x2B ∧ (r.fl.getLsbD 0 = true ↔ r.v = 0) ∧
        r.fl.getLsbD 1 = r.v.msb) ∧
  (∀ x : BitVec 72, 2 ^ 31 ≤ x.toInt → (movasRes x 0).v = 0x7FFFFFFF ∧ (movasRes x 0).fl = 0x10) ∧
  (∀ x : BitVec 72, x.toInt < -2 ^ 31 → (movasRes x 0).v = 0x80000000 ∧ (movasRes x 0).fl = 0x10) ∧
  (∀ (e : CoreId) (acc : AccIx) (ra rb : Reg) (s : State), s.CanIssue e false →
    (s.dev.core e).ar acc.val = 0x7FFFFFFFFFFFFFFFFF → (s.dev.core e).dr ra.val = 1 → (s.dev.core e).dr rb.val = 1 →
    exec (.mac e acc ra rb) s = .next (s.coreIs e ((s.dev.core e).retire.setA acc.val 0x800000000000000000))) ∧
  clz 0 = 32 ∧ (Res.of (w32 (clz 0))).fl.getLsbD 0 = false

/-- Shifts by 0 to 255 (R358): the amount is the low 8 bits of rb; the results, and C as the last bit out; by 0 the input and C
stay. -/
def Obligations.ShiftAmounts : Prop :=
  (∀ (e : CoreId) (rd ra rb : Reg) (s : State), s.CanIssue e false →
    let c := s.dev.core e
    let k := (c.dr rb.val).toNat % 256
    let gives := fun (r : Res) =>
      (Host.Outcome.next (s.coreIs e ((c.retire.setD rd.val r.v).withFlags r)) : Host.Outcome State Fault Refusal)
    exec (.shl e rd ra rb) s = gives (shlRes (c.dr ra.val) k) ∧ exec (.shr e rd ra rb) s = gives (shrRes (c.dr ra.val) k) ∧
    exec (.sar e rd ra rb) s = gives (sarRes (c.dr ra.val) k) ∧ exec (.ror e rd ra rb) s = gives (rorRes (c.dr ra.val) k) ∧
    exec (.rol e rd ra rb) s = gives (rolRes (c.dr ra.val) k)) ∧
  (∀ (a : Word) (k : Nat), k < 256 →
    ((shlRes a 0).v = a ∧ (shrRes a 0).v = a ∧ (sarRes a 0).v = a ∧
      (shlRes a 0).mask = 0xB ∧ (shrRes a 0).mask = 0xB ∧ (sarRes a 0).mask = 0xB) ∧
    (1 ≤ k → k < 32 →
      (shlRes a k).v = a <<< k ∧ (shlRes a k).fl.getLsbD 2 = a.getLsbD (32 - k) ∧
      (shrRes a k).v = a >>> k ∧ (shrRes a k).fl.getLsbD 2 = a.getLsbD (k - 1) ∧
      (sarRes a k).v = a.sshiftRight k ∧ (sarRes a k).fl.getLsbD 2 = a.getLsbD (k - 1)) ∧
    (k = 32 → (shlRes a k).v = 0 ∧ (shlRes a k).fl.getLsbD 2 = a.getLsbD 0 ∧ (shrRes a k).v = 0 ∧
      (shrRes a k).fl.getLsbD 2 = a.getLsbD 31) ∧
    (32 < k → (shlRes a k).v = 0 ∧ (shlRes a k).fl.getLsbD 2 = false ∧ (shrRes a k).v = 0 ∧
      (shrRes a k).fl.getLsbD 2 = false) ∧
    (32 ≤ k → (sarRes a k).v = (if a.getLsbD 31 then 0xFFFFFFFF else 0) ∧ (sarRes a k).fl.getLsbD 2 = a.getLsbD 31) ∧
    (rorRes a k).v = a.rotateRight (k % 32) ∧ (rolRes a k).v = a.rotateLeft (k % 32) ∧
    (rorRes a k).mask = 3 ∧ (rolRes a k).mask = 3)

/-- Moves between data, pointer and special registers, NOP and SYNC (R332, R338). -/
def Obligations.MoveResults : Prop :=
  ∀ (e : CoreId) (rd ra : Reg) (x : PReg) (s : State), s.CanIssue e false →
    let c := s.dev.core e
    let a := c.dr ra.val
    let gives := fun (c : Core) => (Host.Outcome.next (s.coreIs e c) : Host.Outcome State Fault Refusal)
    exec (.nop e) s = gives c.retire ∧
    exec (.sync e) s = gives { c.retire with busy := match c.sent with
      | some t => if s.dev.now.toNat < t.toNat then some (4, t) else none | none => none } ∧
    exec (.movx e x ra) s = gives (c.retire.gets e c.n 2 [(32 + x.val, a, 0xFFFFFFFF)]) ∧
    exec (.movfx e rd x) s = gives (c.retire.setD rd.val (c.xr x.val)) ∧
    exec (.movs e 0 ra) s = gives (c.retire.gets e c.n 2 [(64, a, 0xFFFFFFFF)]) ∧
    exec (.movs e 1 ra) s = gives { c.retire with flags := a.truncate 6 } ∧
    exec (.movs e 2 ra) s = gives (if e = .main then { c.retire with ctrl := a &&& 1 } else c.retire) ∧
    exec (.movs e 3 ra) s = gives c.retire ∧ exec (.movs e 4 ra) s = gives c.retire ∧ exec (.movs e 5 ra) s = gives c.retire ∧
    exec (.movfs e rd 0) s = gives (c.retire.setD rd.val c.lc) ∧
    exec (.movfs e rd 1) s = gives (c.retire.setD rd.val (c.flags.zeroExtend 32)) ∧
    exec (.movfs e rd 2) s = gives (c.retire.setD rd.val (if e = .main then c.ctrl else 0)) ∧
    exec (.movfs e rd 3) s = gives (c.retire.setD rd.val (match e with | .main => 0x80000000 | .seq y => w32 y.val)) ∧
    exec (.movfs e rd 4) s = .next (s.acts e (fun d =>
      let r := d.regRead (corePath e) 0x2060
      r.1.put e c.n rd.val r.2)) ∧
    exec (.movfs e rd 5) s = .next (s.acts e (fun d =>
      let r := d.regRead (corePath e) 0x2064
      r.1.put e c.n rd.val r.2))

/-- The frame of the instructions whose result is stated with `coreIs`: where nothing else is due in the cycle, they change their
own core and, on Efyon-L, the ISSUED count of its camp. Every other core, every other register and every byte of Lakebed read
as before; and ADD, as one of them, leaves every register of its core but rd, FLAGS and what counts the instruction. -/
def Obligations.CoreInstructionsFrame : Prop :=
  ∀ (s : State) (e : CoreId), (s.dev.counted e).Quiet →
    (∀ c : Core,
      let t := s.coreIs e c
      t = { s with dev := (s.dev.counted e).setCore e c } ∧ t.dev.core e = c ∧ (∀ e', e' ≠ e → t.dev.core e' = s.dev.core e') ∧
      (∀ a, (∀ x, e = .seq x → a ≠ 0x105044 + x.val / 10 * 0x10000) → t.dev.rd a = s.dev.rd a) ∧
      t.dev.units = s.dev.units ∧ t.dev.chans = s.dev.chans ∧ t.dev.fab = s.dev.fab ∧ t.dev.ic = s.dev.ic ∧
      (∀ a, Memory.byte t.mem a = Memory.byte s.mem a)) ∧
    (∀ (rd ra rb : Reg) (t : State), s.CanIssue e false → exec (.add e rd ra rb) s = .next t →
      let c := s.dev.core e
      let z := t.dev.core e
      (∀ k, k ≠ rd.val → z.dr k = c.dr k) ∧ z.x = c.x ∧ z.acc = c.acc ∧ z.lc = c.lc ∧ z.ctrl = c.ctrl ∧ z.skip = false ∧
      (∀ i, 4 ≤ i → z.flags.getLsbD i = c.flags.getLsbD i))

/-! ### Efyon: control, memory, queues, entries -/

/-- Jumps outside a delay slot and a repetition: BR and CALL count instructions from their own address, CALL and JALR link their
address + 8, and the target follows the delay slot (R348). A target that R380 turns away is a bus error on Efyon-S. -/
def Obligations.JumpResults : Prop :=
  ∀ (e : CoreId) (rd ra : Reg) (disp : BitVec 26) (s : State), s.CanIssue e false →
    (s.dev.core e).slot = none → (s.dev.core e).rep = none →
    let c := s.dev.core e
    let a := c.dr ra.val
    let t := c.pc + disp.signExtend 32 * 4
    let gives := fun (c : Core) (t : Word) =>
      (Host.Outcome.next (s.coreIs e { c with slot := some t }) : Host.Outcome State Fault Refusal)
    (a.toNat < 0xFFFFFF00 ∨ e ≠ .main ∨ (a = 0xFFFFFFF0 ∧ s.dev.esc.inNormal = true) ∨
        (a = 0xFFFFFFF4 ∧ s.dev.esc.inFast = true) →
      exec (.jr e ra) s = gives c.retire a ∧
      exec (.jalr e rd ra) s = gives (c.retire.setD rd.val (c.pc + 8)) a) ∧
    (t.toNat < 0xFFFFFF00 ∨ e ≠ .main →
      exec (.br e disp) s = gives c.retire t ∧
      exec (.call e disp) s = gives (c.retire.setD 31 (c.pc + 8)) t) ∧
    (e = .main → 0xFFFFFF00 ≤ a.toNat → (a = 0xFFFFFFF0 → s.dev.esc.inNormal = false) →
        (a = 0xFFFFFFF4 → s.dev.esc.inFast = false) →
      exec (.jr e ra) s = .next (State.finish (s.exception 4 0 a { pc := c.unitAt, rep := c.left })) ∧
      exec (.jalr e rd ra) s = .next (State.finish (s.exception 4 0 a { pc := c.unitAt, rep := c.left }))) ∧
    (∀ c' : Core, c'.slot = some t → c'.rep = none → c'.retire.pc = t ∧ c'.retire.slot = none)

/-- SKIP marks the next unit where its condition of R347 holds; a unit that is skipped counts and does nothing else. -/
def Obligations.SkipResults : Prop :=
  ∀ (e : CoreId) (cc : Cond) (s : State), (s.CanIssue e false →
      (s.dev.core e).slot = none → (s.dev.core e).rep = none →
      let c := s.dev.core e
      let z := c.flags.getLsbD 0
      let n := c.flags.getLsbD 1
      let k := c.flags.getLsbD 2
      let v := c.flags.getLsbD 3
      let q := c.flags.getLsbD 4
      let holds := [z, !z, k, !k, n, !n, v, !v, k && !z, !k || z, n == v, n != v, !z && n == v, z || n != v, true, q]
      exec (.skip e cc) s = .next (s.coreIs e { c.retire with skip := holds.getD cc.val false })) ∧
    (∀ rd ra rb : Reg, s.Alive → s.dev.ready e = true → (s.dev.core e).skip = true → (s.dev.core e).pend = [] →
      (e = .main → s.dev.esc.entering = false) → (∀ x, e = .seq x → s.dev.seqFetchBad x.val (s.dev.ctx x.val).pc = false) →
      let after := (s.dev.core e).pass
      exec (.add e rd ra rb) s = .next (State.finish { s with dev := s.dev.setCore e after }) ∧
      after.pc = (s.dev.core e).slot.getD ((s.dev.core e).pc + 4) ∧ after.skip = false ∧ after.n = (s.dev.core e).n + 1 ∧
      after.d = (s.dev.core e).d ∧ after.x = (s.dev.core e).x ∧ after.flags = (s.dev.core e).flags)

/-- A prefix joins the instruction behind it (R335, R350): REP n and REP lc give the count of executions, IMX the high half of an
immediate. Each execution but the last leaves the pc; a count of 0 executes nothing. -/
def Obligations.PrefixResults : Prop :=
  ∀ (e : CoreId) (n : Fin 256) (v : BitVec 16) (s : State),
    let c := s.dev.core e
    let on := fun (c' : Core) => (Host.Outcome.next (State.finish { s with
      dev := s.dev.setCore e { c' with pre := some c.unitAt, pc := c.pc + 4 } }) : Host.Outcome State Fault Refusal)
    (s.CanIssue e false →
      (c.rep = none →
        exec (.repN e n) s = on { c with rep := some (c.again.getD (n.val + 1)), again := none } ∧
        exec (.repLc e) s = on { c with rep := some (c.again.getD c.lc.toNat), again := none }) ∧
      exec (.imx e v) s = on { c with imx := some v }) ∧
    (∀ (c' : Core) (k : Nat), c'.rep = some (k + 2) →
      c'.retire.rep = some (k + 1) ∧ c'.retire.pc = c'.pc ∧ c'.retire.imx = c'.imx ∧ c'.retire.pre = c'.pre) ∧
    (∀ c' : Core, c'.rep = some 1 → c'.retire.rep = none ∧ c'.retire.pc = c'.slot.getD (c'.pc + 4)) ∧
    (∀ rd ra rb : Reg, s.CanIssue e true → c.rep = none → c.imx = none →
      let z : State := { s with dev := s.dev.setCore e { c with rep := some 0 } }
      exec (.add e rd ra rb) z = .next (s.coreIs e ({ c with rep := some 0 } : Core).pass))

/-- What stops a core: HALT, TRAP and WAITPH (R355, R356, R361, R367, R377). The return point of a trap is the next instruction. -/
def Obligations.StopResults : Prop :=
  ∀ (e : CoreId) (n : Fin 32) (m : Mark) (s : State), s.CanIssue e false →
    let c := s.dev.core e
    let d := s.dev.stepped e
    let gives := fun (d : Dev) => (Host.Outcome.next (State.finish { s with dev := d }) : Host.Outcome State Fault Refusal)
    (e = .main →
      exec (.halt e) s = gives (d.setEsc { d.esc with halted := true }) ∧
      exec (.trap e n) s = .next (State.finish (State.exception { s with dev := d } (64 + n.val) n.val 0 c.retire.returnPoint)) ∧
      (s.dev.esc.waits = [] → exec (.waitph e m) s = .next (s.coreIs e { c.retire with
        wait := some (m.val, s.dev.now + 3), waitAt := c.unitAt, waitRep := c.left, waitDs := c.slot.isSome })) ∧
      (∀ w ws, s.dev.esc.waits = w :: ws → w.level < s.dev.esc.stack.length → exec (.waitph e m) s = .next (s.coreIs e { c.retire with
        wait := some (m.val, s.dev.now + 3), waitAt := c.unitAt, waitRep := c.left, waitDs := c.slot.isSome })) ∧
      (∀ t ws, s.dev.esc.waits = { pc := c.unitAt, mark := m.val, arm := t, fired := true, level := s.dev.esc.stack.length } :: ws →
        exec (.waitph e m) s = gives (d.setEsc { d.esc with waits := ws }))) ∧
    (∀ x, e = .seq x →
      exec (.halt e) s = gives (d.changeH [.ctx x.val] (fun d => d.setUnit (.ctx x.val) { d.unit (.ctx x.val) with last := .parked })) ∧
      exec (.trap e n) s = gives (((d.wf (ctxPage x.val + 0x5C) 4 0 n.val).wr (ctxPage x.val + 0x54)
        (w32 (fld c.unitAt 15 0))).faultSc [.ctx x.val] (ctxPage x.val) 2) ∧
      exec (.waitph e m) s = .next (s.coreIs e { c.retire with wait := some (m.val, s.dev.now + 3) }))

/-- Loads and stores that reach memory (R342–R346, R363, R367, R373, R382): on Efyon-S Lakebed at any address, on Efyon-L the data
memory of its sequencer at an aligned address. SIMM is 0 where the mode does not use it. A store of Efyon-S changes the bytes
of its width at its address and no other byte of Lakebed. -/
def Obligations.MemoryAccesses : Prop :=
  ∀ (s : State) (rd : Reg) (xd : PReg) (p : Ptr) (am : Fin 4) (z : Size) (simm : BitVec 12), am = 0 ∨ am = 2 ∨ simm = 0 →
    let wide := fun (z : Size) => match z with | .byte => 1 | .half => 2 | .word => 4
    let sx := fun (z : Size) (v : Nat) => match z with
      | .byte => (BitVec.ofNat 8 v).signExtend 32 | .half => (BitVec.ofNat 16 v).signExtend 32 | .word => w32 v
    let ea := fun (c : Core) => if am.val = 0 then c.xr p.val + simm.signExtend 32 else c.xr p.val
    let next := fun (c : Core) (g : Nat) => c.ptrNext p.val am.val simm.toInt g
    let moved := fun (c c' : Core) (g : Nat) => match (next c g).1 with | some v => c'.setX p.val v | none => c'
    (s.CanIssue .main false → ∀ b, let c := s.dev.core .main
      let val := fun (n : Nat) => ((List.range n).map (fun i => (Memory.byte s.mem (b + i)).toNat * 256 ^ i)).sum
      let bytes := fun (n : Nat) (v : Word) => (List.range n).map (fun i => BitVec.ofNat 8 (v.toNat / 256 ^ i))
      let stores := fun (n g : Nat) (v : Word) (r : Host.Outcome State Fault Refusal) =>
        let u := State.lakeWrite { s with dev := s.dev.setCore .main (moved c c.retire g) } b (bytes n v)
        r = .next u.finish ∧
          (u.dev.close.health.load = none → u.dev.close.pwr.fill = false → ∀ a,
            Memory.byte u.finish.mem a = if b ≤ a ∧ a < b + n then BitVec.ofNat 8 (v.toNat / 256 ^ (a - b)) else Memory.byte s.mem a)
      ((next c (sizeLog z)).2 = false → s.dev.lakeSpan (ea c).toNat (wide z) = some b →
        ((∀ i < wide z, s.dev.inPoolRegion (b + i) = false ∧ s.dev.inOcpen (b + i) = false) → s.dev.mainUe (ea c).toNat b (wide z) = [] →
          exec (.ld .main rd p am z simm) s = .next (s.coreIs .main ((moved c c.retire (sizeLog z)).setD rd.val (sx z (val (wide z))))) ∧
          exec (.ldu .main rd p am z simm) s = .next (s.coreIs .main ((moved c c.retire (sizeLog z)).setD rd.val (w32 (val (wide z)))))) ∧
        stores (wide z) (sizeLog z) (c.dr rd.val) (exec (.st .main rd p am z simm) s)) ∧
      ((next c 2).2 = false → s.dev.lakeSpan (ea c).toNat 4 = some b →
        ((∀ i < 4, s.dev.inPoolRegion (b + i) = false ∧ s.dev.inOcpen (b + i) = false) → s.dev.mainUe (ea c).toNat b 4 = [] →
          exec (.ldx .main xd p am simm) s = .next (s.coreIs .main
            ((if xd.val = p.val then c.retire else moved c c.retire 2).setX xd.val (w32 (val 4))))) ∧
        stores 4 2 (c.xr xd.val) (exec (.stx .main xd p am simm) s))) ∧
    (∀ x : Ctx, s.CanIssue (.seq x) false → let c := s.dev.core (.seq x)
      let m := dataMem (x.val / 10) + (ea c).toNat
      let v := fun (n : Nat) => (s.dev.rd (m - m % 4)).toNat / 2 ^ (8 * (m % 4)) % 2 ^ (8 * n)
      let loads := fun (c' : Core) (reg : Nat) (v : Word) => (Host.Outcome.next (s.coreIs (.seq x)
        { c' with pend := [⟨reg, v, 0xFFFFFFFF, c.n + 3⟩] }) : Host.Outcome State Fault Refusal)
      let stores := fun (n g : Nat) (v : Word) => (Host.Outcome.next (s.acts (.seq x) (fun d =>
        (match (next c g).1 with | some w => d.put (.seq x) c.n (32 + p.val) w | none => d).memWrite (m - m % 4)
          (setFld (s.dev.rd (m - m % 4)) (8 * (m % 4 + n) - 1) (8 * (m % 4)) v.toNat))) : Host.Outcome State Fault Refusal)
      ((next c (sizeLog z)).2 = false → (ea c).toNat < 0x20000 → (ea c).toNat % wide z = 0 →
        (s.dev.ue.contains (m / 8) = false →
          exec (.ld (.seq x) rd p am z simm) s = loads (moved c c.retire (sizeLog z)) rd.val (sx z (v (wide z))) ∧
          exec (.ldu (.seq x) rd p am z simm) s = loads (moved c c.retire (sizeLog z)) rd.val (w32 (v (wide z)))) ∧
        exec (.st (.seq x) rd p am z simm) s = stores (wide z) (sizeLog z) (c.dr rd.val)) ∧
      ((next c 2).2 = false → (ea c).toNat < 0x20000 → (ea c).toNat % 4 = 0 →
        (s.dev.ue.contains (m / 8) = false →
          exec (.ldx (.seq x) xd p am simm) s =
            loads (if xd.val = p.val then c.retire else moved c c.retire 2) (32 + xd.val) (w32 (v 4))) ∧
        exec (.stx (.seq x) xd p am simm) s = stores 4 2 (c.xr xd.val)))

/-- The update of a pointer after an access (R343–R346): none with mode 0, R344 with modes 1 and 2, and with mode 3 an addition on
the reversed bits k − 1 to g of the offset, for m = 2^k; another m is the illegal form. -/
def Obligations.PointerUpdates : Prop :=
  ∀ (c : Core) (p : Ptr) (simm : Int) (g : Nat),
    let a := c.xr p.val
    let b := c.xr (8 + p.val)
    let m := c.xr (16 + p.val)
    let st := c.xr (24 + p.val)
    let wraps := fun (step : Int) =>
      if m = 0 then BitVec.ofInt 32 (a.toNat + step)
      else BitVec.ofInt 32 (b.toNat + ((a.toNat : Int) - b.toNat + step) % m.toNat)
    c.ptrNext p.val 0 simm g = (none, false) ∧
    c.ptrNext p.val 1 simm g = (some (wraps st.toInt), false) ∧
    c.ptrNext p.val 2 simm g = (some (wraps simm), false) ∧
    (∀ step, m ≠ 0 → b.toNat + m.toNat ≤ 2 ^ 32 → b.toNat ≤ (wraps step).toNat ∧ (wraps step).toNat < b.toNat + m.toNat) ∧
    ((∀ k : Nat, k < 32 → m ≠ BitVec.ofNat 32 (2 ^ k)) → c.ptrNext p.val 3 simm g = (some (wraps st.toInt), true)) ∧
    (∀ k : Nat, k < 32 → m = BitVec.ofNat 32 (2 ^ k) →
      let rev := fun (x : Nat) => ((List.range (k - g)).map (fun j => x / 2 ^ (k - 1 - j) % 2 * 2 ^ j)).sum
      let o := (a - b).toNat % 2 ^ k
      ∃ o', c.ptrNext p.val 3 simm g = (some (b + BitVec.ofNat 32 o'), false) ∧ o' < 2 ^ k ∧ o' % 2 ^ min g k = o % 2 ^ min g k ∧
        rev o' = (rev o + rev st.toNat) % 2 ^ (k - g))

/-- MAC2 adds the signed product of two memory operands (R340, R342, R346); P = Q is an illegal encoding. -/
def Obligations.Mac2Results : Prop :=
  ∀ (acc : AccIx) (p q : Ptr) (amp amq : Fin 3) (word : Bool) (s : State), p ≠ q →
    let n := if word then 4 else 2
    let g := if word then 2 else 1
    let next := fun (c : Core) (p : Ptr) (k : Fin 3) => c.ptrNext p.val (match k.val with | 0 => 1 | 1 => 3 | _ => 0) 0 g
    let moved := fun (c c' : Core) (p : Ptr) (k : Fin 3) => match (next c p k).1 with | some v => c'.setX p.val v | none => c'
    let sgn := fun (v : Nat) => if word then (BitVec.ofNat 32 v).toInt else (BitVec.ofNat 16 v).toInt
    let legal := fun (c : Core) => (next c p amp).2 = false ∧ (next c q amq).2 = false
    (s.CanIssue .main false → ∀ b1 b2, let c := s.dev.core .main
      let ok := fun (r : Ptr) (b : Nat) => s.dev.mainUe (c.xr r.val).toNat b n = [] ∧ ∀ i < n, s.dev.inPoolRegion (b + i) = false ∧ s.dev.inOcpen (b + i) = false
      let val := fun (b : Nat) => ((List.range n).map (fun i => (Memory.byte s.mem (b + i)).toNat * 256 ^ i)).sum
      legal c → s.dev.lakeSpan (c.xr p.val).toNat n = some b1 → s.dev.lakeSpan (c.xr q.val).toNat n = some b2 → ok p b1 → ok q b2 →
      exec (.mac2 .main acc p q amp amq word) s = .next (s.coreIs .main ((moved c (moved c c.retire p amp) q amq).setA acc.val
        (BitVec.ofInt 72 ((c.ar acc.val).toInt + sgn (val b1) * sgn (val b2)))))) ∧
    (∀ x : Ctx, s.CanIssue (.seq x) false → let c := s.dev.core (.seq x)
      let at_ := fun (p : Ptr) => dataMem (x.val / 10) + (c.xr p.val).toNat
      let val := fun (p : Ptr) => (s.dev.rd (at_ p - at_ p % 4)).toNat / 2 ^ (8 * (at_ p % 4)) % 2 ^ (8 * n)
      legal c → (∀ r, r = p ∨ r = q → (c.xr r.val).toNat < 0x20000 ∧ (c.xr r.val).toNat % n = 0 ∧
        s.dev.ue.contains (at_ r / 8) = false) →
      exec (.mac2 (.seq x) acc p q amp amq word) s = .next (s.coreIs (.seq x) ((moved c (moved c c.retire p amp) q amq).setA acc.val
        (BitVec.ofInt 72 ((c.ar acc.val).toInt + sgn (val p) * sgn (val q))))))

/-- The fabric instructions have the effect of the port accesses that R353 and R354 name, by the core's own path. -/
def Obligations.QueueInstructions : Prop :=
  ∀ (e : CoreId) (rd ra rb : Reg) (qi : Queue) (eop : Bool) (s : State), s.CanIssue e false →
    let c := s.dev.core e
    let a := c.dr ra.val
    let q := (c.dr rb.val).toNat % 1024
    let writes := fun (o : Nat) (v : Word) =>
      (Host.Outcome.next (s.acts e (fun d => (d.busWrite (corePath e) o v).updCore e (fun c => { c with sent := some (d.now + 4) }))) :
        Host.Outcome State Fault Refusal)
    let pops := fun (q : Nat) => (Host.Outcome.next (s.acts e (fun d =>
      let (d, i0, i1, i2, tag) := d.popWord (corePath e) q
      let d := d.updCore e (·.worksTo (c.n + 4) d.now)
      (((d.put e c.n rd.val i0 4).put e c.n (rd.val + 1) i1 4).put e c.n (rd.val + 2) i2 4).put e c.n (rd.val + 3) tag 4)) :
        Host.Outcome State Fault Refusal)
    exec (.pushq e ra rb) s = writes (0x510000 + 16 * q) a ∧
    exec (.pushqe e ra rb) s = writes (0x510004 + 16 * q) a ∧
    exec (.qabort e rb) s = writes (0x510008 + 16 * q) 1 ∧
    exec (.qlast e ra rb) s = writes (0x510008 + 16 * q) (w32 (a.toNat % 4 * 16 + 2)) ∧
    exec (.qstat e rd rb) s = .next (s.acts e (fun d =>
      let r := d.busRead (corePath e) (0x51000C + 16 * q)
      (r.1.updCore e (·.worksTo (c.n + 3) r.1.now)).put e c.n rd.val r.2 3)) ∧
    exec (.qdrop e rb) s = writes (0x52000C + 16 * q) 1 ∧
    exec (.pushqi e ra qi eop) s = writes (0x510000 + 16 * qi.val + (if eop then 4 else 0)) a ∧
    (rd ∈ [4, 8, 12, 16, 20, 24, 28] → c.rep = none →
      exec (.popq e rd rb) s = pops q ∧ exec (.popqi e rd qi) s = pops qi.val)

/-- An illegal encoding marks a context as ILL and raises exception 1 on Efyon-S (R336); so does a memory instruction whose SIMM
is not 0 where its mode does not use it (R333). A STEP runs one instruction of a parked context, a release ends its wait
(R388). -/
def Obligations.IllegalAndSteps : Prop :=
  ∀ (s : State) (p : Path) (x : Ctx) (w : Word) (e : CoreId) (rd : Reg) (xd : PReg) (q : Ptr) (am : Fin 4) (z : Size) (simm : BitVec 12),
    let ill := fun (e : CoreId) => let c := s.dev.core e
      (Host.Outcome.next (State.finish (match e with
        | .main => s.exception 1 0 0 { pc := c.unitAt, rep := c.left, slot := c.slot }
        | .seq x => { s with dev := ((s.dev.stepped (.seq x)).ctxSettle x.val).seqIll x.val c.unitAt })) :
          Host.Outcome State Fault Refusal)
    (s.CanIssue e true →
      (illegalWord w = true → exec (.illegalEncoding e w) s = ill e) ∧
      (am = 1 ∨ am = 3 → simm ≠ 0 →
        exec (.ld e rd q am z simm) s = ill e ∧ exec (.ldu e rd q am z simm) s = ill e ∧ exec (.st e rd q am z simm) s = ill e ∧
        exec (.ldx e xd q am simm) s = ill e ∧ exec (.stx e xd q am simm) s = ill e)) ∧
    (s.Via p →
      exec (.ctxRelease p x) s = .next (s.act (fun d => d.setCtx x.val { d.ctx x.val with wait := none })) ∧
      (s.dev.ust (.ctx x.val) = .parked →
        exec (.ctxStep p x) s = .next ((s.act (fun d => { d with steps := d.steps ++ [x.val] })).runSteps)))

/-- A fast entry: its source is the lowest that requests one and no fast handler runs. The source's bank takes the place of the
core's registers, and holds the return point (R378). A fast exit brings back the interrupted registers of the bank, its flags
and its return point (R380). -/
def Obligations.FastEntries : Prop :=
  (∀ (s : State) (i : Fin 16), s.Alive → s.dev.esc.monHalt = false → s.dev.fastRequest = some i.val → s.dev.esc.entering = false →
     s.dev.esc.boundary = true → s.dev.esc.inFast = false →
     let e := s.dev.esc
     let d := s.dev.fastGo i.val
     let b := SMap.get {} e.banks i.val
     let kept := SMap.get {} d.esc.banks i.val
     exec (.fastInterruptEntry i) s = .next (State.finish { s with dev := d }) ∧
     d.esc.core.pc = s.dev.rd 0x1D040 + w32 (16 * (16 + i.val)) ∧ d.esc.core.dr 31 = 0xFFFFFFF4 ∧
     d.esc.core.flags = b.flags ∧ kept.flags = e.core.flags ∧ kept.retPc = e.core.returnPoint.pc ∧
     kept.retRep = e.core.returnPoint.rep ∧ d.esc.stack = .fast i.val :: e.stack ∧
     (∀ k, 24 ≤ k → k < 31 → d.esc.core.dr k = SMap.get 0 b.regs (k - 24) ∧ SMap.get 0 kept.regs (k - 24) = e.core.dr k) ∧
     (∀ k, k < 24 → d.esc.core.dr k = e.core.dr k) ∧
     (∀ k, k = 6 ∨ k = 7 → d.esc.core.xr k = SMap.get 0 b.regs (k + 2) ∧ SMap.get 0 kept.regs (k + 2) = e.core.xr k) ∧
     (∀ k, k < 6 ∨ 8 ≤ k → d.esc.core.xr k = e.core.xr k) ∧ d.esc.core.lc = e.core.lc) ∧
  (∀ (d : Dev) (i : Nat), i < 16 →
     let e := d.esc
     let f := (d.fastGo i).fastExit.esc
     f.core.pc = e.core.returnPoint.pc ∧ f.core.flags = e.core.flags ∧ f.stack = e.stack ∧
     (∀ k, f.core.dr k = e.core.dr k) ∧ (∀ k, f.core.xr k = e.core.xr k) ∧
     (e.core.returnPoint.rep ≠ 0 → f.core.again = some e.core.returnPoint.rep))

/-- A normal entry outside every handler: a frame of twelve words below a7, and the core runs on at VBASE + 512 (R377). -/
def Obligations.NormalEntry : Prop :=
  ∀ (s : State) (i b : Nat), s.Alive → s.dev.esc.running = true → s.dev.esc.monHalt = false → s.dev.normalRequest = some i → i < 1024 →
    s.dev.esc.entering = false → s.dev.esc.boundary = true → s.dev.esc.stack = [] →
    let c := s.dev.esc.core
    let a := (c.xr 7 - 48).toNat
    a % 16 = 0 → s.dev.lakeSpan a 48 = some b →
    let t := s.normalGo i
    let r := c.returnPoint
    let cause := w32 (0x20000000 + i)
    let frame := [r.pc, c.flags.zeroExtend 32, c.dr 31, c.lc, w32 r.rep, c.ctrl, cause, 0, 0, 0, 0, 0]
    exec .normalInterruptEntry s = .next t.finish ∧
    t.dev.esc.core.pc = s.dev.rd 0x1D040 + 512 ∧ t.dev.esc.core.dr 31 = 0xFFFFFFF0 ∧ t.dev.esc.core.xr 7 = c.xr 7 - 48 ∧
    t.dev.rd 0x1D050 = cause ∧ t.dev.esc.stack = [.normal i] ∧
    (∀ k j, k < 12 → j < 4 → Memory.byte t.mem (b + 4 * k + j) = BitVec.ofNat 8 ((frame.getD k 0).toNat / 256 ^ j)) ∧
    (∀ x, x < b ∨ b + 48 ≤ x → Memory.byte t.mem x = Memory.byte s.mem x)

/-- Words of every format and group stand for the instructions that the spec's encodings give them (R333–R342); the examples of
R335 and the other worked words are among them. -/
def Obligations.DecodingWords : Prop :=
  decodeEfyon 0x00000000 = .op opNop ∧ decodeEfyon 0xFFFFFFFF = .op opIllegal ∧ illegalWord 0xFFFFFFFF = true ∧
  decodeEfyon 0xFA000001 = .imx 1 ∧ decodeEfyon 0x388086A0 = .op (opMovi 4 0x86A0) ∧ decodeEfyon 0x38201000 = .op (opMovi 1 0x1000) ∧
  decodeEfyon 0xF800000F = .repN 16 ∧ decodeEfyon 0xF9000000 = .repLc ∧
  decodeEfyon 0x04611000 = .op (opAdd 3 1 2) ∧ decodeEfyon 0x08611000 = .op (opMul 3 1 2) ∧
  decodeEfyon 0x08C0F821 = .op (opMovas 6 0 31) ∧
  decodeEfyon 0x00000041 = .op (opSkip 1) ∧ decodeEfyon 0x83FFFFFF = .op (opBr 0x3FFFFFF) ∧ decodeEfyon 0x84000004 = .op (opCall 4) ∧
  decodeEfyon 0x68A18000 = .op (opSt 5 0 1 .word 0) ∧ decodeEfyon 0x78802000 = .op (opMac2 0 0 1 0 0 true)

/-! ### Power, clocks and resets -/

/-- The island's supply and the module's: what each event leaves, and that Lakebed is filled anew (R51, R57). The island's clock,
the interlock and the thermal trip. The interlock is ignored in a reset, but for its level (R40). -/
def Obligations.SupplyAndClockEvents : Prop :=
  (∀ (s : State) (rail : Rail) (cause : ClockCause),
     exec (.islandPowerOn true) s = .next (s.actWiped (fun d => d.bare.noPowerNow d.pwr.st)) ∧
     exec (.islandPowerOn false) s = .next (s.actWiped (fun d =>
       let e := d.bare.noPowerNow d.pwr.st; { e with pwr := { e.pwr with st := .off, vaonOk := false } })) ∧
     (s.dev.pwr.st ≠ .off → exec .vaonLoss s = .next (s.actWiped (fun d =>
       let e := (d.wipe false).noPowerNow d.pwr.st
       { e with pwr := { e.pwr with st := .off, vaonOk := false, pair := none, pairOld := [], trip := false, tripHot := false } }))) ∧
     (s.dev.pwr.poreset = false → s.dev.powered = true →
       exec .poresetAssert s = .next (s.actWiped (fun d =>
         let e := d.holdReset 1; { e with pwr := { e.pwr with poreset := true } })) ∧
       exec (.railFault rail) s = .next (s.actWiped (fun d =>
         let e := (d.hardOpenAll.holdReset 2).loseWear
         { e with pwr := { e.pwr with railLog := some ⟨rail, d.now⟩, railHeld := true } })) ∧
       exec (.clockFault cause) s = .next (s.actWiped (fun d =>
         let e := (d.hardOpenAll.holdReset 3).downCore
         { e with pwr := { e.pwr with clockHeld := true, refclk := cause != .refclk,
                                      pllLoss := e.pwr.pllLoss || (d.pwr.ckSys && cause != .refclk) } }))) ∧
     (s.dev.powered = true → exec .powerDown s = .next (s.actWiped (fun d =>
       let w := if d.pwr.st == .safeOff then d else d.loseWear
       let e := w.latchPair.wipe false
       { e with pwr := { e.pwr with st := .campwatch, poreset := true, railHeld := false, clockHeld := false,
                                    causes := mergeCauses (if w.inReset then w.pwr.causes else 0) 2,
                                    trip := false, tripHot := false }
                cw := { e.cw with enter := some e.pwr.aonCnt } })))) ∧
  (∀ s : State,
     (s.dev.pwr.st ≠ .off →
       exec .aonFail s = .next (s.act (fun d =>
         let e : Dev := { d with pwr := { d.pwr with aonRc := true,
                                                     warmRec := d.pwr.warmRec.map (fun r => { r with rcClear := false }) } }
         (if e.alive then (e.wb 0x2048 27 true).msg 16 else e).cwInput 15 6 0xFFF)) ∧
       exec .aonCrystalReturn s = .next (s.act (fun d => { d with pwr := { d.pwr with aonRc := false } }))) ∧
     (s.dev.pwr.ckSys = true → exec .ltimePairLatch s = .next (s.act (fun d =>
       { d with pwr := { d.pwr with pair := some (d.pwr.ltime, d.pwr.aonCnt), pairColds := d.pwr.colds
                                    pairOld := (match d.pwr.pair with
                                      | some (l, a) => (l, a, d.pwr.pairColds) :: d.pwr.pairOld
                                      | none => d.pwr.pairOld).take 8 } }))) ∧
     (let works := s.dev.alive = true ∧ s.dev.pwr.devOff = false
      (works → exec .ilkHigh s = .next (s.act (fun d => { d with pwr := { d.pwr with ilkBall := true, ilk := true } })) ∧
        exec .ilkLow s = .next (s.act (fun d =>
         let e := ({ d with pwr := { d.pwr with ilkBall := false, ilk := false } } : Dev).ballFall
         ((e.holdUnits e.runChans).hardOpenAll).fault 0 4))) ∧
      (¬works → exec .ilkHigh s = .next (s.act (fun d => { d with pwr := { d.pwr with ilkBall := true } })) ∧
        exec .ilkLow s = .next (s.act (fun d => { d with pwr := { d.pwr with ilkBall := false } })))) ∧
     (s.dev.powered = true →
       (s.dev.alive = true → s.dev.pwr.devOff = false → exec .thermalTrip s = .next (s.act (fun d =>
         let e := (({ d with pwr := { d.pwr with trip := true, tripHot := true } } : Dev).ballFall.hardOpenAll).fault 0 3
         e.changeH ((List.range 16).flatMap Un.ofCamp) (fun d => forRange 16 (fun c d => d.fault (Un.camp c).addr 28) d)))) ∧
       (s.dev.alive = false ∨ s.dev.pwr.devOff = true → exec .thermalTrip s = .next (s.act (fun d =>
         { d with pwr := { d.pwr with trip := true, tripHot := true } }))) ∧
       (s.dev.tripCool = true →
         exec .thermalTripClear s = .next (s.act (fun d => { d with pwr := { d.pwr with tripHot := false } })))) ∧
     (s.Alive → s.dev.readyOk = true → s.dev.pwr.ball = false → exec .readyRise s = .next (s.act Dev.ballRise) ∧
       s.dev.ballRise.pwr.ball = true))

/-- The release of PORESET# starts the module, warm where the record of R58 holds and neither PORESET# nor the island's own start
forbids it; restored clocks start it cold. A start-up ends its firmware steps with an image in STANDBY, its channels biasing,
or without one in START_FAILED; it is complete, and the device READY, where no channel calibrates any more (R57, R60). -/
def Obligations.StartUp : Prop :=
  (∀ (s : State) (mga : Fin 8) (test : Bool) (temps : List (BitVec 16)),
     (s.dev.pwr.poreset = true → s.dev.pwr.st ≠ .off → s.dev.pwr.clockHeld = false →
       exec (.poresetRelease mga test temps) s = .next (s.act (fun d =>
         let e : Dev := { d with
           pwr := { d.pwr with poreset := false, railHeld := false, factory := test, mga := mga.val, st := .reset }
           stove := { d.stove with temps := temps } }
         e.beginStart (!(e.pwr.causes % 2 == 1 || e.pwr.causes / 8 % 2 == 1) && e.warmOk temps)))) ∧
     (s.dev.pwr.clockHeld = true → s.dev.pwr.poreset = false → s.dev.pwr.railHeld = false →
       exec .clockFaultRestart s = .next (s.act (fun d =>
         ({ d with pwr := { d.pwr with clockHeld := false, refclk := true } } : Dev).beginStart false))) ∧
     (∀ (d : Dev) (warm : Bool), let e := d.beginStart warm
       e.pwr.st = .starting ∧ e.pwr.ckSys = true ∧ e.pwr.warm = warm ∧
       (d.pwr.pair = none ∨ d.pwr.aonRc = true → e.pwr.ltime = 0 ∧ e.pwr.colds = d.pwr.colds + 1) ∧
       (∀ l a, d.pwr.pair = some (l, a) → d.pwr.aonRc = false →
         e.pwr.ltime = l + BitVec.ofNat 64 ((d.pwr.aonCnt - a).toNat * 1000000000 / 32768) ∧ e.pwr.colds = d.pwr.colds))) ∧
  (∀ (s : State) (ms : Nat) (cals : List (Chan × CalOutcome)), s.Alive →
     (s.dev.pwr.st = .starting → exec (.startUpComplete ms cals) s = .next (s.act (fun d => d.startFirmware ms))) ∧
     (s.dev.pwr.st ≠ .starting → s.dev.pwr.biasing = true → (∀ n < 512, (s.dev.calsEnd cals).calibrating n = false) →
       exec (.startUpComplete ms cals) s = .next (s.act (fun d => ((d.calsEnd cals).startDone ms .ready).atn 3)) ∧
       (s.dev.startDone ms .ready).pwr.st = .ready ∧ (s.dev.startDone ms .ready).pwr.startMs = ms ∧
       (s.dev.startDone ms .ready).pwr.unitsOff = false))

/-- PWR_REQ by a path: a request acts at once, is kept while a transition is in progress, asserts WAKE# and begins the return in
SAFE_OFF unless it names CAMPWATCH (the model's choice, notes/assumptions/84), and 0 withdraws a kept one; every write clears
REFUSED and DRAIN_TIMEOUT (R62, R64, R66). The ends of the power transitions. -/
def Obligations.PowerSteps : Prop :=
  (∀ (s : State) (p : Path), s.Via p →
     let clr := fun (d : Dev) => ({ d with pwr := { d.pwr with refused := false, drainTimeout := false } } : Dev)
     let asks := fun (t : Nat) => (Host.Outcome.next (s.act (fun d =>
       if d.pwr.st == .safeOff && !d.inTransition then
         (if t = 5 then clr d else { clr d with pwr := { (clr d).pwr with leaving := t }, cw := { d.cw with wakeDrv := true } })
       else if d.inTransition then { clr d with pwr := { (clr d).pwr with kept := t } } else (clr d).pwrDo t)) :
       Host.Outcome State Fault Refusal)
     exec (.pwrReqStandby p) s = asks 2 ∧ exec (.pwrReqReady p) s = asks 3 ∧ exec (.pwrReqCampwatch p) s = asks 5 ∧
     exec (.pwrReqWithdraw p) s = .next (s.act (fun d => { clr d with pwr := { (clr d).pwr with kept := 0 } })) ∧
     (∀ d : Dev, d.pwr.st = .ready → d.anyActive true = true →
       d.pwrDo 2 = { d with pwr := { d.pwr with refused := true } } ∧ d.pwrDo 5 = { d with pwr := { d.pwr with refused := true } }) ∧
     (∀ d : Dev, d.pwr.st = .ready → d.anyActive true = false →
       d.pwrDo 2 = { d.parkAll with pwr := { d.parkAll.pwr with stopping := true } } ∧
       d.pwrDo 5 = { d.parkAll with pwr := { d.parkAll.pwr with st := .entering } }) ∧
     (∀ d : Dev, d.pwr.st = .standby → d.pwrDo 3 = { d with pwr := { d.pwr with st := .ready } })) ∧
  (∀ (s : State), s.Alive →
     (s.dev.pwr.kept ≠ 0 → s.dev.inTransition = false → s.dev.pwr.st ≠ .safeOff →
       exec .keptRequestExecute s = .next (s.act (fun d => ({ d with pwr := { d.pwr with kept := 0 } } : Dev).pwrDo d.pwr.kept))) ∧
     (s.dev.pwr.stopping = true → s.dev.pwr.st = .ready →
       exec .standbyClocksStopped s = .next (s.act (fun d => { d with pwr := { d.pwr with stopping := false, st := .standby } }))) ∧
     (s.dev.pwr.st = .entering → s.dev.drained = true → exec .campwatchDrainDone s = .next (s.act Dev.enterSafeOff)) ∧
     (s.dev.pwr.st = .entering → s.dev.drained = false → exec .drainTimeout s = .next (s.act (fun d =>
       { d with pwr := { d.pwr with st := .standby, drainTimeout := true } }))) ∧
     (∀ event : Bool, s.dev.pwr.st = .safeOff →
         (if event = true then s.dev.pwr.wakeReq = true ∧ s.dev.pwr.leaving = 0 else s.dev.pwr.leaving ≠ 0) →
       exec (.safeOffWake event) s = .next (s.act (fun d =>
         let t := if event = true then d.rf 0x19044 17 16 else d.pwr.leaving
         { d with pwr := { d.pwr with st := if t = 3 then .ready else .standby, leaving := 0, wakeReq := false } }))))

/-- Resets by CLK.RESET with its key, the steps of a camp reset, and Efyon-S's watchdog. -/
def Obligations.ResetCommands : Prop :=
  ∀ (s : State) (p : Path) (c : Camp) (v : Word),
    (s.Via p →
      exec (.resetDevice p) s = .next (s.act Dev.deviceReset) ∧
      exec (.resetCore p) s = .next (s.act Dev.coreReset) ∧
      exec (.resetCamp p c) s = .next (s.act (fun d => d.campReset c.val)) ∧
      (s.dev.inReset = false → s.dev.pwr.campOff.contains c.val = false → s.dev.pwr.campWait.contains c.val = false →
        s.dev.campReset c.val = forRange 32 (fun j d => d.softOpen (32 * c.val + j) true true)
          { s.dev with pwr := { s.dev.pwr with campWait := s.dev.pwr.campWait ++ [c.val] } })) ∧
    (s.Alive →
      (s.dev.campReady c.val = true → exec (.campResetAct c) s = .next (s.act (fun d => d.campAct c.val))) ∧
      (∀ cals : List (Chan × CalOutcome), let e := s.dev.calsEnd cals
        e.pwr.campOff.contains c.val = true → (∀ j < 32, e.calibrating (32 * c.val + j) = false) →
        exec (.campResetDone c cals) s = .next (s.act (fun d => (d.calsEnd cals).campDone c.val)) ∧
        (e.campDone c.val).pwr.campOff = e.pwr.campOff.erase c.val) ∧
      (s.dev.esc.running = true → s.dev.esc.monHalt = false → exec .watchdogExpiry s = .next (s.act Dev.wdogExpire)) ∧
      (s.dev.inReset = false →
        exec .tapReset s = .next (s.act (fun d => (d.updMon (fun m => { m with ir := .idcode })).wb 0x204C 9 true))) ∧
      (s.dev.inReset = true → exec .tapReset s = .next (s.act (fun d =>
        let e := d.updMon (fun m => { m with ir := .idcode })
        if e.pwr.causes % 16 ≠ 0 then e.startAgain
        else ({ e with pwr := { e.pwr with causes := e.pwr.causes ||| 512 } } : Dev).startAgain)))) ∧
    (s.Via .efyonS →
      (fld v 15 0 = 0x5744 → exec (.wdogKick .efyonS v) s = .next (s.act (fun d => (d.wdogStart (d.rf 0x1D044 15 0)).fwConfirm))) ∧
      (fld v 15 0 ≠ 0x5744 → exec (.wdogKick .efyonS v) s = .next (s.act (fun d => d.fault 0x1D000 31)))) ∧
    (s.Via p → p ≠ .efyonS → exec (.wdogKick p v) s = .next (s.act (fun d => d.fault 0x1D000 29)))

/-! ### Pages and pitches -/

/-- Header commands of a page by a path: revert, acknowledge, and QUAR by the management path alone (R79, R91, R109). An
acknowledged FAULT bit clears, unless its cause persists; no other bit changes (R91). -/
def Obligations.HeaderCommands : Prop :=
  (∀ (s : State) (p : Path) (page : Nat) (v : Word), s.Via p → isPage page = true → page ≠ 0x16000 →
     (hasSt page = true → s.dev.stageLocked page = false →
       exec (.stageRevert p page) s = .next (s.act (fun d => d.revertPage page))) ∧
     exec (.faultAck p page v) s = .next (s.act (fun d => if page = 0x19000 then d.cwPost 0xC v else d.faultAck page v)) ∧
     (∀ u, pageUnit page = some u → isMain page = true →
       (p = .mgmt → exec (.quarWrite p page v) s = .next (s.act (fun d => d.quarPage u v))) ∧
       (p ≠ .mgmt → exec (.quarWrite p page v) s = .next (s.act id)))) ∧
  (∀ (d : Dev) (page : Nat) (v : Word), isMain page = false →
     ∀ b < 32, ((d.faultAck page v).rd (page + 0xC)).getLsbD b =
       ((d.rd (page + 0xC)).getLsbD b && !(v.getLsbD b && !d.persists page b)))

/-- A word written, a register read, LTIME_LO, and a unit that settles (R4, R6, R72, R90). A word below the proxy window is
written to its register; through the window it acts at the own device where PROXY selects it, travels to another device, or
sets NO_DEVICE. In a register whose one field is RW, a valid value stands afterwards and nothing else of the registers has
changed; an invalid one changes nothing and sets INVALID. A request that is too long sets SPAN, and a poisoned write is
discarded and logged under AER. A read answers what the register shows, and an RC register is 0 afterwards; until firmware
starts the pages read their reset values (R409, R429). A read of LTIME_LO answers the low half of LTIME and latches the high
half for the path. SETTLING of a unit falls. A write that covers no whole register writes nothing; from the host it faults
(R410). -/
def Obligations.RegisterAccess : Prop :=
  (∀ (s : State) (p : Path) (off : Nat) (v : Word), s.Via p →
     let writes := fun (f : Dev → Dev) => (Host.Outcome.next (s.act f).runSteps : Host.Outcome State Fault Refusal)
     let answers := fun (f : Dev → Dev × Word) => (Host.Outcome.next (s.act (fun d =>
       let r := f d; r.1.setPath p { r.1.path p with ans := r.2 })) : Host.Outcome State Fault Refusal)
     (off % 4 = 0 →
       (off < 0x2000000 → exec (.registerWrite p off (.word v)) s = writes (fun d => d.regWrite p off v)) ∧
       (0x2000000 ≤ off → off < 0x4000000 → p ≠ .mgmt →
         (s.dev.vl.addr = some (s.dev.proxySel p) →
           exec (.registerWrite p off (.word v)) s = writes (fun d => d.regWrite p (off - 0x2000000) v)) ∧
         (s.dev.vl.addr ≠ some (s.dev.proxySel p) → s.dev.proxyAssigned (s.dev.proxySel p) = true →
           exec (.registerWrite p off (.word v)) s = writes id) ∧
         (s.dev.vl.addr ≠ some (s.dev.proxySel p) → s.dev.proxyAssigned (s.dev.proxySel p) = false →
           exec (.registerWrite p off (.word v)) s = writes (fun d => d.fault 0x1A000 4)))) ∧
     (off % 4 ≠ 0 → (off < 0x510000 ∨ 0x514000 ≤ off) →
       exec (.registerWrite p off (.word v)) s = writes (fun d => if p = .host then d.fault 0x15000 1 else d)) ∧
     exec (.registerWrite p off .over) s = writes (fun d => if p = .host then d.fault 0x15000 2 else d) ∧
     exec (.registerWrite p off .poisoned) s = writes (fun d =>
       if p = .host then (d.setHost { d.host with aer := d.host.aer ||| 0x1000 }).fault 0x15000 0 else d) ∧
     (∀ (d : Dev) (x : Field), off < 0x100000 → off / 0x1000 ≠ 0x16 → 0x40 ≤ off % 0x1000 → off % 0x1000 < 0x800 → slotOf off = none →
         isPage (off - off % 0x1000) = true → d.deviceCmd p off v = none → fieldsAt off = [x] → x.acc = .rw →
       (x.ok (fld v x.hi x.lo) = true →
         (d.regWrite p off v).rd off = setFld (d.rd off) x.hi x.lo (fld v x.hi x.lo) ∧
         ∀ a, a ≠ off → (d.regWrite p off v).rd a = d.rd a) ∧
       (x.ok (fld v x.hi x.lo) = false → d.regWrite p off v = d.fault (off - off % 0x1000) 31)) ∧
     (off < 0x2000000 → exec (.readClear p off) s = answers (fun d => d.regRead p (if off - off % 4 = 0x14040 then off else off - off % 4))) ∧
     (s.dev.pwr.st = .starting → off < 0x510000 → off ≠ 0x2060 → off ≠ 0x2064 → ¬(0x19000 ≤ off ∧ off < 0x1A000) → off % 4 = 0 →
       exec (.readClear p off) s = answers (fun d => (d, d.unstarted.view p off)) ∧ s.dev.unstarted.units = [] ∧
       (∀ a, 0x2058 < a → a < 0x19000 ∨ (0x1B000 ≤ a ∧ a < 0x800000) → s.dev.unstarted.rd a = ({} : Dev).rd a)) ∧
     (s.dev.pwr.st ≠ .starting → ∀ k < 5, exec (.readClear p (0x10080 + 4 * k)) s = answers (fun d => (d.wr (0x10080 + 4 * k) 0, d.rd (0x10080 + 4 * k)))) ∧
     exec (.ltimeLoRead p) s = .next (s.act (fun d =>
       d.setPath p { d.path p with ltHi := some (hi32 d.now), ans := lo32 d.now })) ∧
     (∀ (n : Nat) (u : Un), Un.ofId n = some u →
       let falls := fun (d : Dev) => ({ d with settling := SMap.put false d.settling u.addr false } : Dev)
       (SMap.get false s.dev.settling u.addr = false → exec (.settlingEnd n) s = .next (s.act id)) ∧
       (SMap.get false s.dev.settling u.addr = true → (∀ c, u ≠ .chan c) → exec (.settlingEnd n) s = .next (s.act falls)) ∧
       (∀ c, u = .chan c → SMap.get false s.dev.settling u.addr = true → s.dev.unsettled u = false →
         (s.dev.taskOf 1 c true = none → exec (.settlingEnd n) s = .next (s.act falls)) ∧
         (∀ y, s.dev.taskOf 1 c true = some y → s.dev.decl c = 0 → 0 < y.mw → s.dev.ust u = .run →
           exec (.settlingEnd n) s = .next (s.act (fun d => (falls d).releaseAdm 1 c))))) ∧
     (∀ (n a : Nat), Un.ofId n = none → stillKey n = some a → exec (.settlingEnd n) s = .next (s.act (fun d =>
       { d with settling := SMap.put false d.settling a false })))) ∧
  (∀ (d : Dev) (p : Path) (a : Nat) (v : Word), a % 4 ≠ 0 → (a < 0x510000 ∨ 0x514000 ≤ a) →
     d.storeAt p a (.word v) = if p = .host then d.fault 0x15000 1 else d)

/-- The commands of a pitch controller (R99, R111): what each does by the controller's state. The end of a check and a pitch's
instant. -/
def Obligations.Pitches : Prop :=
  (∀ (s : State) (p : Path) (k : Ctl), s.Via p →
     exec (.pitchCheck p k) s = .next (s.act (fun d => d.pitchStart k.val false)) ∧
     exec (.pitchArm p k) s = .next (s.act (fun d => d.pitchStart k.val true)) ∧
     exec (.pitchDisarm p k) s = .next (s.act (fun d => d.pitchDisarm k.val)) ∧
     exec (.pitchDiscard p k) s = .next (s.act (fun d => d.pitchDiscard k.val)) ∧
     (∀ (d : Dev), let c := d.ctl k.val
       (c.ps.locks = true → d.pitchStart k.val false = d ∧ d.pitchStart k.val true = d ∧ d.pitchDiscard k.val = d ∧
         (d.pitchDisarm k.val).pitch = (d.pitchCancel k.val 12 0).pitch) ∧
       (c.ps.locks = false → d.pitchDisarm k.val = d ∧
         (d.pitchBusy k.val = true →
           (d.pitchStart k.val false).ctl k.val = { c with ps := .failed, result := 9, offender := 0, arming := false }) ∧
         (d.pitchBusy k.val = false →
           (d.pitchStart k.val false).ctl k.val = { c with ps := .checking, arming := false } ∧
           (c.ps ≠ .passed → (d.pitchStart k.val true).ctl k.val = { c with ps := .checking, arming := true }) ∧
           (c.ps = .passed → d.noInstant k.val = false → (d.pitchStart k.val true).ctl k.val = { c with ps := .armed }) ∧
           (c.ps = .passed → d.noInstant k.val = true → (d.pitchStart k.val true).ctl k.val =
             { c with ps := .failed, result := 10, offender := 0, arming := false }))))) ∧
  (∀ (s : State) (k : Ctl), s.Alive →
     ((s.dev.ctl k.val).ps = .checking → exec (.checkComplete k) s = .next (s.act (fun d => d.checkEnd k.val))) ∧
     ((s.dev.ctl k.val).ps = .armed → s.dev.pitchDue k.val = true → exec (.pitchApply k) s = .next (s.act (fun d =>
       match firstFinding (d.checkUnits k.val) with
       | some f => d.pitchCancel k.val f.code f.off
       | none => d.pitchTake k.val))) ∧
     (∀ d : Dev, (d.ctl k.val).ps = .checking →
       (∀ f, (d.check k.val).1 = some f → (d.checkEnd k.val).ctl k.val =
         { d.ctl k.val with ps := .failed, result := f.code, offender := f.off, arming := false }) ∧
       ((d.check k.val).1 = none →
         ((d.checkEnd k.val).ctl k.val).ps = (if (d.ctl k.val).arming then .armed else .passed) ∧
         ((d.checkEnd k.val).ctl k.val).result = 0)))

/-! ### Channels -/

/-- Flap and ramp events of a channel: a closing flap that has settled is closed, and one that has opened is isolated, each as an
operation with its class and wear; a ramp that has ended acts (R128–R131). The class of a flap operation and its wear, by the
current and voltage that the channel's words show: cold up to 1 µA, hot up to 10 mA and 5 V, else beyond (R131). -/
def Obligations.FlapEvents : Prop :=
  (∀ (s : State) (n : Chan) (f : Flap) (iNa vUv : Nat), s.Alive →
     let x := s.dev.ch n.val
     ((x.flap f).ph = .closing → exec (.flapCloseSettled n f iNa vUv) s =
       .next (s.act (fun d => (d.flapOp n.val f 0 iNa vUv .closed).tryForce n.val))) ∧
     ((x.flap f).ph = .opening → exec (.flapIsolated n f iNa vUv) s =
       .next (s.act (fun d => (d.flapOp n.val f (if ((d.ch n.val).flap f).hard then 2 else 1) iNa vUv .opened).startClose n.val))) ∧
     (x.ramp ≠ .none → exec (.forceRampDone n) s = .next (s.act (fun d => d.rampDone n.val))) ∧
     (x.ramp = .toHeld → s.dev.rampDone n.val =
       (s.dev.setCh n.val { x with ampOn := false, ramp := .none, relDue := false }).release 1 n.val) ∧
     (∀ a b, x.ramp = .toOpen a b → s.dev.ust (.chan n.val) ≠ .run →
       s.dev.rampDone n.val = (s.dev.setCh n.val ({ x with ampOn := false, ramp := .none, relDue := false }.dropFlaps a b)).release 1 n.val)) ∧
  (∀ (d : Dev) (n : Nat) (f : Flap) (op iNa vUv : Nat) (ph : FlapPhase),
     let y := (d.ch n).flap f
     let i := min iNa (iFs (d.chIr n) * 1000)
     let v := min vUv (vFs (d.chVr n))
     let z := if i ≤ 1000 then 1 else if i ≤ 10000000 ∧ v ≤ 5000000 then 2 else 3
     ((d.flapOp n f op iNa vUv ph).ch n).flap f =
       { y with ph := ph, cls := z, wear := min (y.wear + (if z = 1 then 1 else if z = 2 then 10 else 1000)) (2 ^ 32 - 1) } ∧
     ∀ m, m ≠ n → (d.flapOp n f op iNa vUv ph).ch m = d.ch m)

/-- A hard open of a channel: at once no flap is closed or closing, the amplifier is off and no ramp goes on; a flap that was
closed or closing opens, but one that this very cycle began to close is open at once; wear and every other channel stay
(R130). -/
def Obligations.HardOpen : Prop :=
  ∀ (d : Dev) (n : Nat),
    let x := (d.hardOpen n).ch n
    x.fF.shut = false ∧ x.fS.shut = false ∧ x.ampOn = false ∧ x.ramp = .none ∧ x.hardAt = some d.now ∧
    (∀ f, ((d.ch n).flap f).ph = .closed → (x.flap f).ph = .opening ∧ (x.flap f).hard = true) ∧
    (∀ f, ((d.ch n).flap f).ph = .closing →
      (x.flap f).ph = (if (d.ch n).closeAt = some d.now then .opened else .opening) ∧ (x.flap f).hard = true) ∧
    x.fF.wear = (d.ch n).fF.wear ∧ x.fS.wear = (d.ch n).fS.wear ∧
    ∀ m, m ≠ n → (d.hardOpen n).ch m = d.ch m

/-- Protection, comparators, compliance, apertures and calibration of a channel: an overvoltage opens it hard with a
state-changing fault and a record; a lost sense contact changes to two-wire sensing; a limit shows in COMPLY and, held for
COMP.TIME, is recorded, and where COMP_STOP asks for it is a fault; an aperture of one half and no partner gives its means; a
calibration ends (R125, R133, R134, R135, R141, R143, R145). A window is entered by a word beyond its threshold, in RUN, whose
status was clear (R133). Its status sets with the word, and its action is nothing, a record, or a record and a state-changing
fault. -/
def Obligations.ChannelEvents : Prop :=
  (∀ (s : State) (n : Chan) (f : Flap) (v i : Word) (w : Fin 4) (t : Time) (l : List HalfSum) (ovl long : Bool) (o : CalOutcome),
     s.Alive →
     let x := s.dev.ch n.val
     let e := s.dev.words n.val v i t
     let rec41 := fun (d : Dev) (p5 : Nat) => d.chanRec n.val 0x41 (ovlFlag [satWord v, satWord i]) t (w32 p5) (satWord v) (satWord i)
     (x.fF.ph = .closed ∨ x.fS.ph = .closed → exec (.overvoltage n f v i t) s = .next (s.act (fun d =>
       (((d.words n.val v i t).hardOpen n.val).chanFault n.val 6).protectRec n.val (match f with | .force => 1 | .sense => 2) v i t))) ∧
     (e.ust (.chan n.val) = .run → e.chWire n.val = true → (e.ch n.val).fF.ph = .closed → (e.ch n.val).fS.ph = .closed →
         (e.ch n.val).ampOn = true → e.chMode n.val ≠ 0 → (e.ch n.val).localSense = false →
       exec (.senseLoss n v i t) s = .next (s.act (fun d =>
         (((d.words n.val v i t).updCh n.val (fun x => { x with localSense := true })).fault (chanPage n.val) 3).protectRec
           n.val 3 v i t))) ∧
     exec (.cmpEntry n w v t) s = .next (s.act (fun d => d.cmpWord n.val (decide (w.val < 2)) v t)) ∧
     (e.ust (.chan n.val) = .run →
       (long = false ∨ e.rf (chanPage n.val + 0x4C) 23 0 = 0 ∨ (e.ch n.val).complyRec = true →
         exec (.complyEntry n long (v, i) t) s = .next (s.act (fun d =>
           (d.words n.val v i t).updCh n.val (fun x => { x with comply := true })))) ∧
       (e.rf (chanPage n.val + 0x4C) 23 0 ≠ 0 → (e.ch n.val).complyRec = false →
         (e.rf (chanPage n.val + 0x4C) 25 24 ≠ 1 → exec (.complyEntry n true (v, i) t) s = .next (s.act (fun d =>
           rec41 ((d.words n.val v i t).updCh n.val (fun x => { x with comply := true, complyRec := true })) 0))) ∧
         (e.rf (chanPage n.val + 0x4C) 25 24 = 1 → exec (.complyEntry n true (v, i) t) s = .next (s.act (fun d =>
           (rec41 ((d.words n.val v i t).updCh n.val (fun x => { x with comply := true, complyRec := true })) 2).chanFault n.val 4))))) ∧
     (long = false ∨ (e.ch n.val).complyRec = false → exec (.complyExit n long (v, i) t) s = .next (s.act (fun d =>
       (d.words n.val v i t).updCh n.val (fun x => { x with comply := false })))) ∧
     ((e.ch n.val).complyRec = true → exec (.complyExit n true (v, i) t) s = .next (s.act (fun d =>
       rec41 ((d.words n.val v i t).updCh n.val (fun x => { x with comply := false, complyRec := false })) 1))) ∧
     (x.ap = true → x.apAt = none → s.dev.ust (.chan n.val) = .run →
       (∀ h : HalfSum, l.length + 1 = halvesOf (s.dev.rf (chanPage n.val + 0x68) 23 16) →
           (∀ x ∈ h :: l, x.n = s.dev.rf (chanPage n.val + 0x6C) 20 0) →
         exec (.apertureEnd n h l ovl t) s = .next (s.act (fun d => d.apEnd n.val (h :: l) ovl t))) ∧
       (∀ h : HalfSum, s.dev.rf (chanPage n.val + 0x68) 23 16 = 0 → h.n = s.dev.rf (chanPage n.val + 0x6C) 20 0 →
           bit (s.dev.rd (chanPage n.val + 0x74)) 15 = false →
         let vm := satRes (roundAway ((h.v : Rat) * 256 / (h.n : Nat)))
         let im := satRes (roundAway ((h.i : Rat) * 256 / (h.n : Nat)))
         exec (.apertureEnd n h [] ovl t) s = .next (s.act (fun d =>
           (d.setCh n.val { d.ch n.val with ap := false, apLost := false, vmean := wInt vm.1, imean := wInt im.1 }).chanRec n.val 0x45
             (ovl.toNat * 0x20) t
             (w32 ((vm.2 || im.2).toNat * 128 + ovl.toNat * 64 + h.comply.toNat * 32 + x.apLost.toNat * 16)) (wInt vm.1) (wInt im.1))))) ∧
     (x.cal ≠ 0 → s.dev.taskOf 3 n.val true ≠ none → exec (.calibrationComplete n o) s = .next (s.act (fun d =>
       d.changeH (Un.ofChan n.val) (fun d => d.calEnd n.val x.cal o))))) ∧
  (∀ (d : Dev) (n : Nat) (w : Fin 4) (v : Word) (t : Time),
     let isV := decide (w.val < 2)
     let u := satWord v
     (w.val ∈ d.cmpEnters n isV v ↔
       d.ust (.chan n) = .run ∧ (d.ch n).cmp.getLsbD w.val = false ∧ d.cmpBeyond n w.val u = true) ∧
     (d.cmpEnters n isV v = [w.val] →
       let e := (d.chanWord n isV v).updCh n (fun x => { x with cmp := bset x.cmp w.val true })
       (d.cmpAct n w.val = 0 → d.cmpEntry n w.val v t = e) ∧
       (d.cmpAct n w.val = 2 → d.cmpEntry n w.val v t =
         (e.chanRec n 0x40 (ovlFlag [u]) t (w32 (4 + w.val)) u (wInt (d.cmpThr n w.val))).chanFault n 5) ∧
       (d.cmpAct n w.val ≠ 0 → d.cmpAct n w.val ≠ 2 → d.cmpEntry n w.val v t =
         e.chanRec n 0x40 (ovlFlag [u]) t (w32 w.val) u (wInt (d.cmpThr n w.val)))) ∧
     (d.cmpEnters n isV v = [] → d.cmpEntry n w.val v t = d.chanWord n isV v))

/-- CAL_CMD by a path: a full, a quick calibration and the flap test ask Stove for 600 mW over their duration, or wait while
another channel of the camp uses its reference (R144, R145, R261); a channel that may not calibrate is refused with a record. -/
def Obligations.CalibrationCommands : Prop :=
  ∀ (s : State) (p : Path) (n : Chan), s.Via p → (s.dev.ch n.val).cal = 0 →
    let starts := fun (k : Nat) => (Host.Outcome.next (s.act (fun d =>
      let e := d.updCh n.val (fun x => { x with cal := k, calKind := k, calResult := 1 })
      if d.refBusy (n.val / 32) then e.setStove { e.stove with calQ := e.stove.calQ ++ [n.val] }
      else e.request 3 n.val 600 [(n.val / 32, 600000000)] (some (calDur k)))) : Host.Outcome State Fault Refusal)
    let refused := fun (k : Nat) => (Host.Outcome.next (s.act (fun d =>
      (d.updCh n.val (fun x => { x with calKind := k, calResult := 5 })).chanRec n.val 0x44 0 d.now (w32 (5 * 4 + k)) 0 0)) :
        Host.Outcome State Fault Refusal)
    (s.dev.calAllowed n.val = true →
      exec (.calFull p n) s = starts 1 ∧ exec (.calQuick p n) s = starts 2 ∧ exec (.calFlapTest p n) s = starts 3) ∧
    (s.dev.calAllowed n.val = false →
      exec (.calFull p n) s = refused 1 ∧ exec (.calQuick p n) s = refused 2 ∧ exec (.calFlapTest p n) s = refused 3) ∧
    calDur 1 = 8800000 ∧ calDur 2 = 700000 ∧ calDur 3 = 400000

/-! ### Compass, Weir, Reedbed, Floats, Stove -/

/-- Edges and faults of the inputs, each enabled by its control register. The phase: a stall STALL_T after the last edge, the end
of an extrapolation, a mark whose position this cycle crosses, and the commands of the COMPASS page (R167, R169, R170, R180).
A mark's fire cycle moves the gates first, then takes the pitches that wait for it, starts apertures and a Weir run, reaches
the timers, the waits and the field, and last counts the mark. -/
def Obligations.PhaseCommands : Prop :=
  (∀ (s : State) (x : Fin 2) (a b z : Bool) (l : EncLine) (t : Time), s.Alive →
     (s.dev.encEn x.val = true →
       exec (.encoderEdge x a b z t) s = .next (s.act (fun d => d.encEdge x.val a b z t)) ∧
       (s.dev.encZmode x.val ≠ 0 → (s.dev.enc x.val).zStuck = false → (s.dev.enc x.val).lineZ = false →
         exec (.encIndex x t) s = .next (s.act (fun d => d.encIndex x.val t))) ∧
       ((s.dev.enc x.val).zStuck = false →
         ((s.dev.enc x.val).z = true → 4 < (s.dev.enc x.val).zRun → exec (.zStuck x) s = .next (s.act (fun d =>
           (d.setEnc x.val { d.enc x.val with zStuck := true, zRun := 0 }).inputFault x.val 4 5 d.now))) ∧
         ((s.dev.enc x.val).z = false ∨ (s.dev.enc x.val).zRun ≤ 4 → exec (.zStuck x) s = .next (s.act id)))) ∧
     exec (.encLineFault x l) s = .next (s.act (fun d => d.encLine x.val l true)) ∧
     exec (.encLineRecover x l) s = .next (s.act (fun d => d.encLine x.val l false)) ∧
     (s.dev.rb 0x4080 0 = true → exec (.zcEdge t) s = .next (s.act (fun d => d.zcEdge t))) ∧
     (s.dev.rb 0x40A0 0 = true →
       exec (.plsPulse t) s = .next (s.act (fun d => d.plsPulse t)) ∧
       (s.dev.cps.pulse.stuck = false → exec .plsStuck s = .next (s.act (fun d =>
         (d.setCps { d.cps with pulse := { d.cps.pulse with stuck := true } }).inputFault 3 5 6 d.now))))) ∧
  (∀ (s : State) (p : Path) (m : Mark),
     (s.Alive →
       (s.dev.cps.stalled = false → s.dev.phSrc ≠ 0 → s.dev.phSrc ≠ 6 →
         (s.dev.stallDue = true → exec .stallEntry s = .next (s.act Dev.stallEntry) ∧ s.dev.stallEntry.cps.stalled = true ∧
           s.dev.stallEntry.cps.stallT0 = s.dev.now) ∧
         (s.dev.stallDue = false → exec .stallEntry s = .next (s.act id))) ∧
       (∀ h rest num den ns, s.dev.cps.hist = h :: rest → h.mv = .extrap num den ns →
         (ns ≤ (s.dev.now - h.t).toNat + h.since → exec .extrapEnd s = .next (s.act (fun d =>
           d.knot { h with t := d.now, pos := phMove h.pos (Int.tdiv (num * ns) den), cont := true, mv := .hold, since := 0 }))) ∧
         ((s.dev.now - h.t).toNat + h.since < ns → exec .extrapEnd s = .next (s.act id))) ∧
       (∀ pos k rev, s.dev.markHit m.val = some (pos, k, rev) →
         exec (.markFire m pos k rev) s = .next (s.act (fun d =>
           let e := d.flMarkAll m.val d.now
           let e := (e.setCps { e.cps with fired := m.val :: e.cps.fired }).pitchesOnMark m.val
           let e := (e.apOn 2 m.val).weirOn 1 m.val (e.rf 0x1A04C 2 0)
           let e := (e.tmEventAll 1 m.val e.now).markWaits m.val
           (e.fieldOnMark m.val).markFired m.val pos k rev))) ∧
       (∀ pos k rev, s.dev.markHit m.val ≠ some (pos, k, rev) → exec (.markFire m pos k rev) s = .next (s.act id))) ∧
     (s.Via p →
       exec (.clearErrors p) s = .next (s.act Dev.clearErrors) ∧
       (∀ a ∈ [0x404C, 0x406C, 0x4088, 0x40A4, 0x3078, 0x307C], s.dev.clearErrors.rd a = 0) ∧
       (s.dev.phSrc ≠ 0 → exec (.turnsZero p) s = .next (s.act Dev.turnsZero)) ∧
       (s.dev.pwr.st ≠ .starting → exec (.phFracRead p) s = .next (s.act (fun d =>
         d.setPath p { d.path p with phTurn := some d.phNow.2, phLt := d.now, ans := d.phNow.1 })))))

/-- One step of a quadrature pair: forward, the count rises by 1 and wraps to 0 with one turn more; in reverse it falls by 1 and
wraps with one turn less; a change of both lines is an error that moves nothing, and an encoder with a bad line counts nothing
(R157, R158). -/
def Obligations.QuadratureSteps : Prop :=
  ∀ (d : Dev) (x : Fin 2) (a b z : Bool) (t : Time), d.encEn x.val = true →
    let e := d.enc x.val
    let cpt := d.encCpt x.val
    let after := (d.encEdge x.val a b z t).enc x.val
    let fwd := (if a = e.a then a == b else a != b) != d.rb (encAt x.val) 8
    (e.lineA = true ∨ e.lineB = true ∨ e.lineZ = true → after.count = e.count ∧ after.turns = e.turns) ∧
    (e.lineA = false → e.lineB = false → e.lineZ = false →
      (a ≠ e.a → b ≠ e.b → after.count = e.count ∧ after.turns = e.turns ∧ after.idx = false) ∧
      (a = e.a → b = e.b → after.count = e.count ∧ after.turns = e.turns) ∧
      (((a ≠ e.a ∧ b = e.b) ∨ (a = e.a ∧ b ≠ e.b)) →
        (fwd = true → e.count + 1 < cpt → after.count = e.count + 1 ∧ after.turns = e.turns) ∧
        (fwd = true → cpt ≤ e.count + 1 → after.count = 0 ∧ after.turns = e.turns + 1) ∧
        (fwd = false → 0 < e.count → after.count = e.count - 1 ∧ after.turns = e.turns) ∧
        (fwd = false → e.count = 0 → after.count = cpt - 1 ∧ after.turns = e.turns - 1) ∧ after.rev = !fwd))

/-- A mark's positions under each MODE are the numbers that equal one value modulo another, and its direction is DIR's; a cycle's
travel crosses the positions from beyond its start up to its end. How many positions of a mark an interval holds, and which
comes first in the direction of travel (R169). A mark that fires counts (R182). -/
def Obligations.MarkTest : Prop :=
  (∀ (d : Dev) (m : Nat), d.cps.markWas = [] →
    let a := 0x5000 + m / 96 * 0x1000 + 0x40 + m % 96 * 0x10
    let p := (d.rd a).toNat
    let st := (d.rd (a + 4)).toNat
    (d.rf (a + 8) 2 0 = 1 → d.markGrid m = some (p, 2 ^ 32)) ∧
    (d.rf (a + 8) 2 0 = 2 → d.markGrid m =
      if d.rb (a + 0xC) 0 then none else some (d.rf (a + 8) 31 16 * 2 ^ 32 + p, 2 ^ 48)) ∧
    (d.rf (a + 8) 2 0 = 3 → d.markGrid m = if st = 0 then none else some (p % st, st)) ∧
    (d.rf (a + 8) 2 0 = 0 → d.markGrid m = none ∧ d.markOn m = false ∧ d.markHit m = none) ∧
    (d.rf (a + 8) 5 4 = 0 → d.markDir m false = true ∧ d.markDir m true = false) ∧
    (d.rf (a + 8) 5 4 = 1 → d.markDir m false = false ∧ d.markDir m true = true) ∧
    (d.rf (a + 8) 5 4 = 2 → d.markDir m false = true ∧ d.markDir m true = true) ∧
    (d.rb (a + 8) 8 = false → ∀ pos k rev,
      (d.markFired m pos k rev).rf (a + 0xC) 31 8 = (d.rf (a + 0xC) 31 8 + 1) % 2 ^ 24)) ∧
  (∀ r st lo hi : Nat, 0 < st → lo ≤ hi →
    gridCount r st (lo, hi) = ((List.range (hi + 1)).filter (fun q => decide (lo ≤ q) && q % st == r % st)).length ∧
    (gridCount r st (lo, hi) ≠ 0 → ∀ rev,
      let q := gridFirst r st rev (lo, hi)
      lo ≤ q ∧ q ≤ hi ∧ q % st = r % st ∧
      ∀ z, lo ≤ z → z ≤ hi → z % st = r % st → if rev then z ≤ q else q ≤ z)) ∧
  (∀ (a k q : Nat), a < 2 ^ 48 → 0 < k → k < 2 ^ 47 → q < 2 ^ 48 →
    ((∃ x ∈ crossed a k, x.1 ≤ q ∧ q ≤ x.2) ↔ ∃ i, 0 < i ∧ i ≤ k ∧ q = (a + i) % 2 ^ 48) ∧
    ((∃ x ∈ crossed a (-k), x.1 ≤ q ∧ q ≤ x.2) ↔ ∃ i, 0 < i ∧ i ≤ k ∧ q = (a + 2 ^ 48 - i) % 2 ^ 48))

/-- The steps of a Weir run (R188), its end by a command (R191) and its records (R205). A start captures the configuration and the
channels that are in RUN in WEIR mode with a source resistance, and asks Stove for their power over the drive time; a busy
engine counts it. An abort ends the run with a record: while drives act at the next chip boundary, else at once. Chip 0 starts
on the grid of 125 ns, or where FSTART says; frames accumulate; the drive's end releases the task; the commit writes the
records and, with the last of them, the run is done. -/
def Obligations.WeirRun : Prop :=
  ∀ (s : State) (p : Path) (words : List ChipWords) (synced : Bool),
    let does := fun (f : Dev → Dev) => (Host.Outcome.next (s.act f) : Host.Outcome State Fault Refusal)
    (s.Via p →
      (s.dev.weirBusy = false →
        let pos := s.dev.rf 0x1A04C 2 0
        let cfg := s.dev.weirCfg pos
        let ready := (List.range 512).filter (fun n => s.dev.ust (.chan n) == .run && s.dev.chMode n == 3)
        let e := s.dev.weirTrigger pos
        exec (.weirStart p) s = does (fun d => d.weirTrigger pos) ∧
        (s.dev.bankOk cfg = true → ready ≠ [] → (∀ n ∈ ready, s.dev.ratio cfg.drive n ≠ 0) →
          e.weir.rstate = 1 ∧ e.weir.run = some { cfg := cfg, parts := ready.map (fun n => (n, s.dev.ratio cfg.drive n)) } ∧
          e.weir.frames = 0 ∧ e.weir.admitted = false ∧ e.stove.walkDue = true ∧
          ∃ y ∈ e.stove.tasks, y.kind = 2 ∧ y.unit = 0xAFFF ∧ y.adm = none ∧ y.req = s.dev.now ∧
            y.mw = cdiv (cfg.nwEach * ready.length) 1000000 ∧ y.dur = some ((cfg.lead + cfg.frames) * cfg.n * cfg.chip * 1000))) ∧
      (s.dev.weirBusy = true → exec (.weirStart p) s = does (fun d => d.count 0xA08C 15 0)) ∧
      (s.dev.weir.run = none → exec (.weirAbort p) s = does id) ∧
      (∀ w, s.dev.weir.run = some w →
        (w.sent = true ∨ w.stop ≠ none → exec (.weirAbort p) s = does id) ∧
        (w.sent = false → w.stop = none → s.dev.weirDriving = true → s.dev.chipBound w ≠ s.dev.now →
          exec (.weirAbort p) s = does (fun d =>
            d.setWeir { d.weir with run := some { w with stop := some (1, d.chipBound w) } })) ∧
        (w.sent = false → w.stop = none → s.dev.weirDriving = false ∨ s.dev.chipBound w = s.dev.now →
          exec (.weirAbort p) s = does (fun d =>
            (((d.setWeir { d.weir with rstate := 6, run := none, admitted := false }).release 2 0xAFFF).record (fld w.cfg.recq 9 0)
              none 0x29 0 0xAFFF d.now 1 (w32 d.weir.frames) 0).fault 0xA000 0)))) ∧
    (s.Alive → ∀ w, s.dev.weir.run = some w →
      (s.dev.weirReady = true → exec .weirDriveStart s = does (fun d =>
        let t := if w.cfg.field then (d.vl.fstart.getD 0).toNat else cdiv (d.now.toNat + 16) 125 * 125
        let ready := w.parts.filter (fun p => d.ust (.chan p.1) == .run && d.chMode p.1 == 3)
        d.setWeir { d.weir with
          rstate := if w.cfg.lead = 0 then 3 else 2
          run := some { w with
            parts := ready
            start := BitVec.ofNat 64 t, stamp := BitVec.ofNat 64 (t + w.cfg.lead * w.cfg.n * w.cfg.chip * 1000) } })) ∧
      (s.dev.weirReady = false → exec .weirDriveStart s = does id) ∧
      (s.dev.weir.rstate = 2 ∨ s.dev.weir.rstate = 3 →
        (w.cfg.field = true → synced = false →
          exec (.weirFrameEnd words synced) s = does (fun d => (d.fault 0xA000 4).weirAbort 4)) ∧
        (w.cfg.field = false ∨ synced = true →
          let e := s.dev.weirFrame words synced
          let out := Memory.putWords (s.dev.fstoreFrame words synced) s.mem
          exec (.weirFrameEnd words synced) s = .next (({ s with mem := out } : State).act (fun d => d.weirFrame words synced)) ∧
          (w.cfg.field = false ∨ s.dev.weir.rstate = 2 → s.dev.fstoreFrame words synced = []) ∧
          e.weir.frames = s.dev.weir.frames + 1 ∧ e.weir.rstate = (if w.cfg.lead ≤ s.dev.weir.frames + 1 then 3 else 2) ∧
          (s.dev.weir.rstate = 2 → e.weir.run = some w) ∧
          (∀ x, s.dev.weir.rstate = 3 → words = [x] → w.notMeas x.ch.val = false → ∃ w', e.weir.run = some w' ∧
            (∀ i < w.cfg.n, (SMap.get [] w'.acc x.ch.val).getD i 0 = (SMap.get [] w.acc x.ch.val).getD i 0 + x.words.getD i 0) ∧
            ∀ j, j ≠ x.ch.val → SMap.get [] w'.acc j = SMap.get [] w.acc j))) ∧
      (s.dev.weir.rstate = 3 → s.dev.weir.frames = w.cfg.lead + w.cfg.frames → w.stop = none →
        (w.cfg.field = false → exec .weirDriveEnd s = does (fun d => (d.setWeir { d.weir with rstate := 4 }).release 2 0xAFFF)) ∧
        (w.cfg.field = true → exec .weirDriveEnd s = does (fun d =>
          let e := (d.setWeir { d.weir with rstate := 4 }).release 2 0xAFFF
          { e with vl := { e.vl with wout := e.vl.wout ++ [.values w.cfg.pos w.column] } }))) ∧
      (s.dev.weir.rstate = 4 → w.sent = false →
        let commits := fun (f : Dev → Dev) =>
          (Host.Outcome.next (({ s with mem := Memory.putWords s.dev.fstoreOut s.mem } : State).act f) : Host.Outcome State Fault Refusal)
        exec .weirCommit s = commits Dev.weirCommit ∧
        (w.cfg.field = false → s.dev.fstoreOut = []) ∧
        (w.cfg.refEn = false → w.drops = [] → exec .weirCommit s = commits (fun d =>
          let e := d.record (fld w.cfg.recq 9 0) none 0x20 0 0xAFFF w.stamp (w32 (w.cfg.field.toNat * 2))
            (w32 ((512 - w.parts.length) * 2 ^ 16 + w.parts.length)) (w32 ((d.weir.runs + 1) % 4096))
          (e.setWeir { e.weir with run := some { w with sent := true }, excs := 0 }).weirFinish)))) ∧
    (∀ (d : Dev) (w : WeirData), d.weir.run = some w → w.sent = true →
      (d.weirWaits w = true → d.weirFinish = d) ∧
      (d.weirWaits w = false →
        d.weirFinish = d.setWeir { d.weir with rstate := 5, run := none, last := some w, runs := (d.weir.runs + 1) % 4096 }))

/-- Words of a stream, held grid outputs, the coefficient copy, and the coefficient window (R218, R220, R229, R230, R232, R240).
Words of a channel that is not biased do nothing; without an engine a word is stored and compared only. A waiting output
leaves once the phase has reached its point and PH_LAG. The copy's end starts the engine. -/
def Obligations.ReedbedCommands : Prop :=
  ∀ (s : State) (p : Path) (c : Camp) (k : Stream) (t : Time) (words : List Word),
    let does := fun (f : Dev → Dev) => (Host.Outcome.next (s.act f) : Host.Outcome State Fault Refusal)
    let n := streamChan c.val k.val
    (s.Alive →
      exec (.streamOutput c k t words) s = does (Dev.wordsIn c.val k.val t words) ∧
      (∀ (d : Dev) (w : Word) (ws : List Word),
        Dev.wordsIn c.val k.val t (w :: ws) d = Dev.wordsIn c.val k.val (t + 1000) ws (d.wordIn c.val k.val t w) ∧
        ((d.ust (.chan n)).biased = false → d.wordIn c.val k.val t w = d) ∧
        ((d.ust (.chan n)).biased = true → (d.cmpWord n (k.val % 2 == 0) w (t + BitVec.ofNat 64 (125 * k.val / 8))).rbOn c.val = false →
          d.wordIn c.val k.val t w = d.cmpWord n (k.val % 2 == 0) w (t + BitVec.ofNat 64 (125 * k.val / 8)))) ∧
      (∀ o rest, (s.dev.strm c.val k.val).waits = o :: rest →
        (0 ≤ phDiff (o.p + BitVec.ofNat 48 (s.dev.phLag c.val k.val)) s.dev.tracked.pos →
          exec (.phaseGridRelease c k) s = does (fun d =>
            let e := (d.updStrm c.val k.val (fun x => { x with waits := rest })).emit c.val k.val o.t { d.phaseAt o.t with pos := o.p }
              o.y.toInt o.ovl
            if o.cut then e.closeBlock c.val k.val else e)) ∧
        (phDiff (o.p + BitVec.ofNat 48 (s.dev.phLag c.val k.val)) s.dev.tracked.pos < 0 →
          exec (.phaseGridRelease c k) s = does id)) ∧
      ((s.dev.reed c.val).loading = true →
        let e := s.dev.setReed c.val { s.dev.reed c.val with loading := false }
        (e.rbOn c.val = true → exec (.coefCopyDone c) s = does (fun d =>
          forRange 64 (fun k (d : Dev) => d.restart c.val k) (d.setReed c.val { d.reed c.val with loading := false }))) ∧
        (e.rbOn c.val = false → exec (.coefCopyDone c) s = does (fun d =>
          d.setReed c.val { d.reed c.val with loading := false }))) ∧
      ((s.dev.reed c.val).loading = false → exec (.coefCopyDone c) s = does id)) ∧
    (s.Via p →
      (∀ v, exec (.cwDataAccess p c true (some v)) s = does (fun d => d.coefWrite c.val v)) ∧
      (∀ staged, exec (.cwDataAccess p c staged none) s = does (fun d =>
        let r := d.regRead p (0x102000 + c.val * 0x10000 + (if staged then 0x844 else 0x44))
        r.1.setPath p { r.1.path p with ans := r.2 })))

/-- A gate of a fixed duration ends; FL_CMD starts a Float afresh or clears its count (R243, R248, R260). -/
def Obligations.FloatCommands : Prop :=
  ∀ (s : State) (p : Path) (i : FloatIx),
    (s.Alive → ∀ t, (s.dev.fl i.val).openEdge = some t → s.dev.flGmode i.val = 2 →
      exec (.gateDurationEnd i) s = .next (s.act (fun d =>
        (d.updFl i.val (fun x => { x with openEdge := none })).flAddEdge i.val
          (t + BitVec.ofNat 64 (d.rf (flAt i.val + 0x10) 23 0 * 1000)) false))) ∧
    (s.Alive → (s.dev.fl i.val).openEdge = none → exec (.gateDurationEnd i) s = .next (s.act id)) ∧
    (s.Via p →
      exec (.rearm p i) s = .next (s.act (fun d => d.flFresh i.val)) ∧
      exec (.clearFlCount p i) s = .next (s.act (fun d => d.updFl i.val (fun x => { x with count := 0, cntOvl := false })))) ∧
    ∀ d : Dev,
      let x := (d.flFresh i.val).fl i.val
      x.fresh = true ∧ x.c = false ∧ x.latched = false ∧ x.hist = [] ∧ x.base = none ∧ x.pat = none

/-- Samples and measurements, leases, deferrals and the cooldown (R263–R274). -/
def Obligations.StoveEvents : Prop :=
  ∀ (s : State) (temps : List (BitVec 16)) (r f : Nat) (n : Chan), s.Alive →
    exec (.sensorSample temps) s = .next (s.act (fun d => d.sensorSample temps)) ∧
    exec (.stovePowerMeasure r f) s = .next (s.act (fun d =>
      if d.stove.accN + 1 < 10000 then
        d.setStove { d.stove with accN := d.stove.accN + 1, accSum := d.stove.accSum + (r - f) }
      else
        let e := d.setStove { d.stove with accN := 0, accSum := 0,
                                           measBase := (d.stove.accSum + (r - f)) / (d.stove.accN + 1) }
        if e.baseDecl < e.stove.measBase then e.fault stovePage 4 else e)) ∧
    (∀ t, s.dev.taskOf 1 n.val true = some t → t.dur ≠ none → s.dev.ust (.chan n.val) = .run →
      exec (.leaseExpiry n) s = .next (s.act (fun d =>
        let e := ((d.stoveHold [n.val]).missed t 3).fault stovePage 0
        e.setStove { e.stove with walkDue := true }))) ∧
    (∀ t, s.dev.taskOf 1 n.val false = some t → s.dev.rd 0x805C ≠ 0 →
      exec (.deferExpiry n) s = .next (s.act (fun d =>
        (((d.withdraw 1 n.val).stoveHold [n.val]).missed t 1).fault stovePage 1))) ∧
    exec .cooldownEnd s = .next (s.act (fun d => d.setStove { d.stove with burstEnd := none, walkDue := true }))

/-! ### Queues, timers, interrupts -/

/-- Port accesses and commands of a queue by a path, and what the engines do for it. -/
def Obligations.QueueCommands : Prop :=
  ∀ (s : State) (p : Path) (q : Queue) (v : Word) (l : Fin 4) (n : Nat),
    (s.Via p →
      exec (.push p q v) s = .next (s.act (fun d => d.pushItem p q.val v false)) ∧
      exec (.pushEop p q v) s = .next (s.act (fun d => d.pushItem p q.val v true)) ∧
      exec (.pcmdAbort p q) s = .next (s.act (fun d => d.pcmdAbort p q.val)) ∧
      ((s.dev.path p).pkt = none → exec (.pcmdSetLastb p q l) s = .next (s.act (fun d => d.setPath p { d.path p with
        lastb := (q.val, l.val + 1) :: (d.path p).lastb.filter (fun x => x.1 != q.val) }))) ∧
      (∀ o, (s.dev.path p).pkt = some o → o.q = q.val → exec (.pcmdSetLastb p q l) s = .next (s.act (fun d => d.setPath p { d.path p with
        pkt := some { o with lastb := some (l.val + 1) } }))) ∧
      (∀ o, (s.dev.path p).pkt = some o → o.q ≠ q.val → exec (.pcmdSetLastb p q l) s = .next (s.act (fun d => d.setPath p { d.path p with
        lastb := (q.val, l.val + 1) :: (d.path p).lastb.filter (fun x => x.1 != q.val) }))) ∧
      exec (.consumerRead p q) s = .next (s.act (fun d =>
        let r := d.portRead p q.val; r.1.setPath p { r.1.path p with ans := r.2 })) ∧
      ((s.dev.queue q.val).rd ≠ 0 → exec (.drop p q) s = .next (s.act (fun d =>
        d.setQueue q.val { d.queue q.val with pkts := headIn (d.queue q.val).pkts.tail, rd := 0 }))) ∧
      (s.dev.qState q.val ≠ .run → exec (.flush p q) s = .next (s.act (fun d =>
        (d.setQueue q.val { d.queue q.val with pkts := [], rd := 0 }).removed q.val 10 (d.queue q.val).pkts))) ∧
      exec (.clearQueueCounters p q) s = .next (s.act (fun d =>
        ((d.wr (Dev.qAddr q.val + 0x18) 0).wr (Dev.qAddr q.val + 0x1C) 0).wf (Dev.qAddr q.val + 0x10) 19 16 0)) ∧
      exec (.tailWrite p v) s = .next (s.act (fun d =>
        let y : BitVec 16 := v.truncate 16
        if d.ocEn then d.ocPut (if y = 0x8000 then 0x8001 else y) else d)) ∧
      exec (.headRead p) s = .next (s.act (fun d =>
        let r := d.regRead p 0x14040; r.1.setPath p { r.1.path p with ans := r.2 }))) ∧
    (s.Alive →
      (∀ x, (s.dev.fab.pend.filter (fun y => y.q == q.val)).head? = some x → s.dev.qState q.val = .run →
        cellsOf x.items.length ≤ s.dev.credit q.val →
        exec (.pendingPacketRetry q) s = .next (s.act (fun d =>
          ({ d with fab := { d.fab with pend := d.fab.pend.erase x } } : Dev).commit q.val x.items x.lastb (some x.src)))) ∧
      (s.dev.spillDue q.val = true → spillPick (s.dev.queue q.val).pkts ≠ none →
        exec (.spillMove q) s = .next (s.act (fun d => d.spillMove q.val))) ∧
      (∀ x, (s.dev.queue q.val).pkts.find? (·.spilled) = some x →
        s.dev.ownCells q.val + x.cells ≤ s.dev.rf (Dev.qAddr q.val + 8) 16 0 →
        exec (.spillRefill q) s = .next (s.act (fun d => d.putQueue q.val { d.queue q.val with
          pkts := (d.queue q.val).pkts.map (fun y => if y.order = x.order then { y with spilled := false } else y) }))) ∧
      exec (.linkSweepDone q n) s = .next (s.act (fun d => d.linkBreak q.val n)) ∧
      exec .lossRecordEmit s = .next (s.act Dev.lossTick))

/-- A step of a timer's COUNT: up by 1 below TOP, else to 0 (R316). Events, inputs, commands and reads of the timers. -/
def Obligations.TimerCommands : Prop :=
  (∀ (d : Dev) (t : Nat),
     let x := d.tm t
     (x.count.toNat < (d.tmTop t).toNat → x.count + 1 ≠ d.tmMatch t →
       d.tmStep t = d.setTm t { x with count := x.count + 1 }) ∧
     (x.count.toNat < (d.tmTop t).toNat → x.count + 1 = d.tmMatch t →
       d.tmStep t = (d.setTm t { x with count := x.count + 1 }).tmMatched t) ∧
     ((d.tmTop t).toNat ≤ x.count.toNat → d.tmMatch t ≠ 0 →
       d.tmStep t = (d.setTm t { x with count := 0 }).tmOverflowed t) ∧
     ((d.tmTop t).toNat ≤ x.count.toNat → d.tmMatch t = 0 →
       d.tmStep t = ((d.setTm t { x with count := 0 }).tmMatched t).tmOverflowed t)) ∧
  (∀ (s : State) (p : Path) (t : TimerIx) (n : Fin 4) (level : Bool) (lt : Time),
     (s.Alive →
       (s.dev.ust (.timer t.val) = .run → (s.dev.tm t.val).running = true → s.dev.tmPre t.val ≠ 0 →
         ((s.dev.tmMatch t.val).toNat ≤ (s.dev.tmTop t.val).toNat → exec (.timerMatch t) s =
           .next (s.act (fun d => d.tmRunTo t.val (d.tmMatch t.val).toNat))) ∧
         exec (.timerOverflow t) s = .next (s.act (fun d => d.tmRunTo t.val 0))) ∧
       ((s.dev.tm t.val).outM = true ∨ (s.dev.tm t.val).outO = true →
         exec (.timerOutputAct t) s = .next (s.act (fun d => d.tmOutputs t.val))) ∧
       ((s.dev.tin n.val).level ≠ level → exec (.tinEdge n level lt) s = .next (s.act (fun d => d.tinEdge n.val level lt))) ∧
       (s.dev.tinEn n.val = true → s.dev.rf (0xE040 + 4 * n.val) 23 8 ≠ 0 → (s.dev.tin n.val).stuck = false → s.dev.tinQuiet n.val = true →
         exec (.tinStuck n) s = .next (s.act (fun d =>
           ((d.setTin n.val { d.tin n.val with stuck := true }).fault 0xE000 n.val).tinRec n.val 2 d.now)))) ∧
     (s.Via p → s.dev.ust (.timer t.val) = .off → ∀ i ∈ [Instr.tmStart p t, .tmStop p t, .tmLoad p t, .tmCapture p t, .tmRelease p t],
       exec i s = .next (s.act id)) ∧
     (s.Via p → s.dev.ust (.timer t.val) ≠ .off →
       (s.dev.ust (.timer t.val) = .run → exec (.tmStart p t) s = .next (s.act (fun d =>
         d.updTm t.val (fun x => { x with running := !x.stopped, started := true })))) ∧
       exec (.tmStop p t) s = .next (s.act (fun d => d.updTm t.val (fun x => { x with running := false, stopped := true }))) ∧
       exec (.tmLoad p t) s = .next (s.act (fun d => d.updTm t.val (fun x =>
         { x with count := d.tm64 t.val 0x20, a := 0, loaded := some (x.loaded.getD (x.count, x.a)) }))) ∧
       exec (.tmCapture p t) s = .next (s.act (fun d => d.updTm t.val (fun x => { x with cap := some (x.cap.getD (d.now, 0, 0)) }))) ∧
       exec (.tmRelease p t) s = .next (s.act (fun d => d.updTm t.val (fun x => { x with front := x.back, back := none })))) ∧
     (s.Via p → s.dev.pwr.st ≠ .starting →
       exec (.countLoRead p t) s = .next (s.act (fun d =>
         d.setPath p { d.path p with countHi := SMap.put none (d.path p).countHi t.val (some (hi32 (d.tmShown t.val).count)),
                                     ans := d.view p (tmAt t.val + 0x40) })) ∧
       exec (.capLtHiRead p t) s = .next (s.act (fun d =>
         let e := d.tmRelease t.val; e.setPath p { e.path p with ans := d.view p (tmAt t.val + 0x54) }))))

/-- Doorbell, single-source commands, claims, completions, bitmaps and the two intervals (R391–R404). -/
def Obligations.InterruptCommands : Prop :=
  ∀ (s : State) (p : Path) (i : Source) (v : Word) (b : IcBitmap) (w : Fin 32),
    (s.Via p →
      (v.toNat < 1024 → exec (.doorbell p v) s = .next (s.act (fun d => d.msg v.toNat))) ∧
      (1024 ≤ v.toNat → exec (.doorbell p v) s = .next (s.act (fun d => d.fault 0xC000 31))) ∧
      exec (.clrPend p i) s = .next (s.act (fun d => d.icUpd (fun c => { c with pend := bset c.pend i.val false }))) ∧
      exec (.setEnS p i) s = .next (s.act (fun d => d.icUpd (fun c => { c with enS := bset c.enS i.val true }))) ∧
      exec (.clrEnS p i) s = .next (s.act (fun d => d.icUpd (fun c => { c with enS := bset c.enS i.val false }))) ∧
      exec (.setEnH p i) s = .next (s.act (fun d => d.icUpd (fun c => { c with enH := bset c.enH i.val true }))) ∧
      exec (.clrEnH p i) s = .next (s.act (fun d => d.icUpd (fun c => { c with enH := bset c.enH i.val false }))) ∧
      exec (.clrStormed p i) s = .next (s.act (fun d => d.unstorm i.val)) ∧
      exec (.icBitmapWrite p b w v) s = .next (s.act (fun d => d.bitmapWrite b w.val v))) ∧
    (s.Via .efyonS → s.dev.pwr.st ≠ .starting → ∀ j, s.dev.ic.claimable .efyonS = some j →
      exec (.claimS .efyonS) s = .next (s.act (fun d =>
        let e := d.icUpd (fun c => { c with pend := bset c.pend j false, active := bset c.active j true,
                                            actH := bset c.actH j false })
        e.setPath .efyonS { e.path .efyonS with ans := d.view .efyonS 0xC048 }))) ∧
    (s.Via .host → s.dev.pwr.st ≠ .starting → ∀ j, s.dev.ic.claimable .host = some j →
      exec (.claimH .host) s = .next (s.act (fun d =>
        let e := d.icUpd (fun c => { c with pend := bset c.pend j false, active := bset c.active j true,
                                            actH := bset c.actH j true })
        e.setPath .host { e.path .host with ans := d.view .host 0xC050 }))) ∧
    (s.Via .efyonS → exec (.completeS .efyonS v) s = .next (s.act (fun d => d.complete .efyonS false v))) ∧
    (s.Via .host → exec (.completeH .host v) s = .next (s.act (fun d => d.complete .host true v))) ∧
    (s.Via p → p ≠ .efyonS → exec (.completeS p v) s = .next (s.act (fun d => d.fault 0xC000 29))) ∧
    (s.Alive →
      exec .stormWindowEnd s = .next (s.act (fun d => { d with ic := { d.ic with counts := [] } })) ∧
      exec .moderationEnd s = .next (s.act Dev.modEnd))

/-- The source a claim takes is the lowest pending one that is enabled for the claimant and not active, for Efyon-S among the
normal ones; afterwards it is active and no longer pending (R392, R394). -/
def Obligations.ClaimTakesLowest : Prop :=
  ∀ (c : IntCtl) (j : Nat),
    (c.claimable .host = some j ↔ (j < 1024 ∧ c.pend.getLsbD j ∧ c.enH.getLsbD j ∧ !c.active.getLsbD j ∧
      ∀ k < j, ¬(c.pend.getLsbD k ∧ c.enH.getLsbD k ∧ !c.active.getLsbD k))) ∧
    (c.claimable .efyonS = some j ↔ (16 ≤ j ∧ j < 1024 ∧ c.pend.getLsbD j ∧ c.enS.getLsbD j ∧ !c.active.getLsbD j ∧
      ∀ k < j, 16 ≤ k → ¬(c.pend.getLsbD k ∧ c.enS.getLsbD k ∧ !c.active.getLsbD k))) ∧
    (∀ b i, j < 1024 → (bset c.pend j b).getLsbD i = if i = j then b else c.pend.getLsbD i)

/-! ### Host port, management bus, Campwatch -/

/-- The link and the resets of the host port: PERST#, training, L1, D3hot and D0, the function-level, hot and link resets, and
configuration writes (R409–R416, R424). -/
def Obligations.HostLinkEvents : Prop :=
  ∀ (s : State) (speed : Fin 4) (lanes : Fin 3) (x : ConfigWrite),
    let does := fun (f : Dev → Dev) => (Host.Outcome.next (s.act f) : Host.Outcome State Fault Refusal)
    let low := fun (d : Dev) => d.setHost { d.host with
      perst := true, linkUp := false, speed := 0, lanes := 0, l1 := false, l1Exit := false }
    (s.dev.host.perst = false →
      (s.dev.alive = true → s.dev.inReset = true → s.dev.pwr.causes % 16 ≠ 0 →
        exec .perstAssert s = does (fun d => (low d.portReset).startAgain)) ∧
      (s.dev.alive = true → s.dev.inReset = true → s.dev.pwr.causes % 16 = 0 → exec .perstAssert s = does (fun d =>
        let d := low d.portReset
        ({ d with pwr := { d.pwr with causes := d.pwr.causes ||| 256 } } : Dev).startAgain)) ∧
      (s.dev.alive = true → s.dev.inReset = false → exec .perstAssert s = does (fun d => (low d.portReset).wb 0x204C 8 true)) ∧
      (s.dev.alive = false → exec .perstAssert s = does low)) ∧
    (s.dev.host.perst = true → exec .perstAssert s = does id) ∧
    exec .perstRelease s = does (fun d =>
      (d.change ((List.range 16).map Un.outlet) (fun d => d.setHost { d.host with perst := false })).1) ∧
    (s.Alive →
      (s.dev.host.perst = false → s.dev.pwr.refclk = true → s.dev.pwr.factory = false →
        exec (.linkUp speed lanes) s = does (fun d =>
          (d.setHost { d.host with linkUp := true, speed := speed.val + 1, lanes := 2 ^ lanes.val }).inD0)) ∧
      (s.dev.host.perst = true ∨ s.dev.pwr.refclk = false ∨ s.dev.pwr.factory = true → exec (.linkUp speed lanes) s = does id) ∧
      (s.dev.host.linkUp = true →
        (s.dev.host.cfg.aspmL1 = true → s.dev.outbound = false → exec .l1Entry s = does (fun d => d.setHost { d.host with l1 := true })) ∧
        (s.dev.host.cfg.aspmL1 = false ∨ s.dev.outbound = true → exec .l1Entry s = does id) ∧
        exec .l1Exit s = does (fun d => (d.setHost { d.host with l1 := false, l1Exit := false }).hostResume) ∧
        exec .d3hotEntry s = does (fun d => d.setHost { d.host with d3 := true }) ∧
        exec .d0Entry s = does (fun d => (d.setHost { d.host with d3 := false }).inD0) ∧
        exec .flr s = does (fun d => d.portReset.hostResume) ∧
        exec .linkDown s = does (fun d => (d.setHost { d.host with
          linkUp := false, speed := 0, lanes := 0, l1 := false, l1Exit := false, lost := true }).fault 0x15000 4) ∧
        exec (.configurationRequest x) s = does (fun d => (d.setHost (match x with
          | .busMaster on => { d.host with busMaster := on }
          | .msixEnable on => { d.host with msixEn := on }
          | .msixFunctionMask on => { d.host with msixMask := on }
          | .msiEnable on => { d.host with msiEn := on }
          | .msiMask on => { d.host with msiMask := on }
          | .pmeEnable on => { d.host with pmeEn := on }
          | .pmeStatusClear => { d.host with pmeStatus := false }
          | .aerStatusClear w => { d.host with aer := d.host.aer &&& ~~~w }
          | .maxPayload n => { d.host with cfg := { d.host.cfg with maxPayload := n.val } }
          | .maxReadRequest n => { d.host with cfg := { d.host.cfg with maxReadRequest := n.val } }
          | .ecrc g c => { d.host with cfg := { d.host.cfg with ecrcGen := g, ecrcCheck := c } }
          | .aspmL1 on => { d.host with cfg := { d.host.cfg with aspmL1 := on } }
          | .completionTimeout n => { d.host with cfg := { d.host.cfg with cplTimeout := n.val } }
          | .read i => { d.host with cfgAns := d.host.item i })).hostResume)) ∧
      (∀ h : HostPort, h.item .vendorId = 0x1F4B ∧ h.item .deviceId = 0x0512 ∧ h.item .revisionId = 1 ∧ h.item .classCode = 0x118000 ∧
        h.item .subsystemVendorId = 0x1F4B ∧ h.item .subsystemId = 0x0512 ∧ h.item .interruptPin = 0) ∧
      (s.dev.host.perst = false → exec .hotReset s = does (fun d => d.portReset.linkDrop)))

/-- A request of BAR2: a write to Lakebed outside the firmware, pool and Ocpen regions changes its bytes and, unless the end of
the command loads an image or starts the device up, no other; one that touches such a region changes nothing and faults; a
read answers the bytes (R281, R306, R411, R484). -/
def Obligations.Bar2Requests : Prop :=
  ∀ (s : State) (a : Nat) (bs : List Byte) (n k : Nat), s.dev.pathOk .host = true →
    (a + bs.length ≤ 0x100000000 → (∀ i < bs.length, s.dev.bar2Locked (a + i) = false) →
      let f := fun (d : Dev) =>
        ({ d with lbUe := d.lbUe.filter (fun k => !decide (a < k * 8 + 8 ∧ k * 8 < a + bs.length)) } : Dev)
      let t := State.act { s with mem := Memory.puts bs a s.mem } f
      exec (.bar2Request a (some bs) k) s = .next t ∧
      ((f s.dev).close.health.load = none → (f s.dev).close.pwr.fill = false → ∀ j, Memory.byte t.mem j =
        if a ≤ j ∧ j < a + bs.length then bs.getD (j - a) 0 else Memory.byte s.mem j)) ∧
    (a + bs.length ≤ 0x100000000 → (∃ i < bs.length, s.dev.bar2Locked (a + i) = true) →
      exec (.bar2Request a (some bs) k) s = .next (s.act (fun d => d.fault 0x15000 3))) ∧
    (a + n ≤ 0x100000000 → s.dev.ueIn a n = [] → exec (.bar2Request a none n) s = .next (s.act (fun d => d.setHost { d.host with
      bar2 := s.bar2Bytes a n, poisoned := false }))) ∧
    (∀ i < n, s.dev.inPoolRegion (a + i) = false → s.dev.inOcpen (a + i) = false →
      (s.bar2Bytes a n).getD i 0 = Memory.byte s.mem (a + i)) ∧
    (∀ j < 0x10000000, s.dev.bar2Locked j = true)

/-- What an outlet's commands and events do (R417–R422). A write to TAIL makes descriptors available or meets NO_DESC; a fetch
brings descriptors; CLOSE and FLUSH_T close the open buffer, whose status words, HEAD and write-back follow R417 and R419; a
packet that the link acknowledges moves from its queue into the buffer. -/
def Obligations.OutletCommands : Prop :=
  ∀ (s : State) (p : Path) (o : OutletIx) (v : Word) (l : List (Nat × Nat)) (b : OutBuf),
    let does := fun (f : Dev → Dev) => (Host.Outcome.next (s.act f) : Host.Outcome State Fault Refusal)
    let d := s.dev
    let x := d.ol o.val
    let slot := olAt o.val
    let ring := 2 ^ d.rf (slot + 8) 20 16
    let desc := (join64 (d.rd (slot + 0x14)) (d.rd (slot + 0x10))).toNat + x.head.toNat % ring * 32
    let wb := (join64 (d.rd (slot + 0x1C)) (d.rd (slot + 0x18))).toNat
    let byteOf := fun (w : Nat) (j : Nat) => BitVec.ofNat 8 (w / 256 ^ j)
    let closed := fun (e : Dev) =>
      (e.ol o.val).head = x.head + 1 ∧ (e.ol o.val).tail = x.tail ∧ (e.ol o.val).buf = none ∧ (e.ol o.val).bufs = x.bufs + 1 ∧
      (d.rb (slot + 8) 0 = false ∨ wb + 4 ≤ desc + 16 ∨ desc + 32 ≤ wb → ∀ j < 4,
        e.hostByte (desc + 16 + j) = byteOf (2 ^ 31 + b.ue.toNat * 2 ^ 30 + b.loss.toNat * 2 ^ 29 + 2 ^ 28 + b.bytes) j ∧
        e.hostByte (desc + 20 + j) = byteOf b.pkts j ∧ e.hostByte (desc + 24 + j) = byteOf b.ueOfs j ∧
        e.hostByte (desc + 28 + j) = byteOf (b.seqLast.toNat * 2 ^ 16 + b.seqFirst.toNat) j) ∧
      (d.rb (slot + 8) 0 = true → ∀ j < 4, e.hostByte (wb + j) = byteOf (x.head + 1).toNat j) ∧
      (∀ a, a < desc + 16 ∨ desc + 32 ≤ a → d.rb (slot + 8) 0 = false ∨ a < wb ∨ wb + 4 ≤ a → e.hostByte a = d.hostByte a)
    (s.Via p →
      (let i : BitVec 16 := v.truncate 16
       (i ≠ x.head → (i - x.head).toNat ≤ ring → exec (.outletTailWrite p o v) s = does (fun d =>
         d.setOl o.val { d.ol o.val with tail := i, noDesc := false })) ∧
       (ring < (i - x.head).toNat → exec (.outletTailWrite p o v) s = does (fun d =>
         (d.setOl o.val { d.ol o.val with tail := i, noDesc := false }).olFault o.val 18)) ∧
       (i = x.head → d.ust (.outlet o.val) = .run → x.buf = none → x.noDesc = false → exec (.outletTailWrite p o v) s = does (fun d =>
         (d.setOl o.val { d.ol o.val with tail := i, noDesc := true, since := 0 }).msg (64 + o.val))) ∧
       (i = x.head → d.ust (.outlet o.val) ≠ .run ∨ x.buf ≠ none ∨ x.noDesc = true → exec (.outletTailWrite p o v) s = does (fun d =>
         d.setOl o.val { d.ol o.val with tail := i }))) ∧
      (d.ust (.outlet o.val) = .run → x.buf = some b → d.canMaster = true →
        exec (.close p o) s = does (fun d => d.olClose o.val true) ∧ closed (d.olClose o.val true)) ∧
      (d.ust (.outlet o.val) = .run → x.buf = some b → d.canMaster = false → exec (.close p o) s = does (fun d =>
        (d.setOl o.val { d.ol o.val with closeDue := true }).leaveL1)) ∧
      (d.ust (.outlet o.val) ≠ .run ∨ x.buf = none → exec (.close p o) s = does id)) ∧
    (s.Alive →
      (d.ust (.outlet o.val) = .run →
        let new := l.take (min 8 ((x.tail - x.head).toNat - (x.descs.length + x.buf.isSome.toNat)))
        ((∀ y ∈ new, y.1 % 64 = 0 ∧ y.2 % 64 = 0 ∧ 16384 ≤ y.2 ∧ y.2 ≤ 4194304) →
          exec (.descFetchDone o (.bufs l)) s = does (fun d => d.setOl o.val { d.ol o.val with descs := x.descs ++ new })) ∧
        ((∃ y ∈ new, ¬(y.1 % 64 = 0 ∧ y.2 % 64 = 0 ∧ 16384 ≤ y.2 ∧ y.2 ≤ 4194304)) →
          exec (.descFetchDone o (.bufs l)) s = does (fun d =>
            (d.setOl o.val { d.ol o.val with descs := x.descs ++ new.takeWhile descOk }).olFault o.val 18)) ∧
        exec (.descFetchDone o .error) s = does (fun d => d.olFault o.val 19)) ∧
      (d.ust (.outlet o.val) = .run → x.buf = some b → d.rf (slot + 0xC) 23 0 ≠ 0 → d.canMaster = true →
        d.rf (slot + 0xC) 23 0 * 1000 ≤ (d.now - b.openAt).toNat →
        exec (.outletFlushTimeout o) s = does (fun d => d.olClose o.val true) ∧ closed (d.olClose o.val true)) ∧
      (∀ (q : Nat) (k : Packet) (rest : List Packet), d.ust (.outlet o.val) = .run → x.buf = some b → d.canMaster = true →
        d.olQueues o.val = [q] → (d.queue q).pkts = k :: rest → b.bytes + 4 * k.items.length ≤ b.len → k.ue = [] →
        (d.queue q).lossTag = false → x.kick ≠ 1 →
        let e := d.olDeliver o.val
        exec (.packetAcked o) s = does (fun d => d.olDeliver o.val) ∧
        (e.ol o.val).buf = some { b with bytes := b.bytes + 4 * k.items.length, pkts := b.pkts + 1, seqLast := k.seq
                                         seqFirst := if b.pkts = 0 then k.seq else b.seqFirst } ∧
        (e.ol o.val).head = x.head ∧ (e.queue q).pkts = headIn rest ∧
        e.host.dmaBytes = d.host.dmaBytes + w32 (4 * k.items.length) ∧
        (∀ j < 4 * k.items.length, e.hostByte (b.addr + b.bytes + j) = byteOf (k.item (j / 4)).toNat (j % 4)) ∧
        (∀ a, a < b.addr + b.bytes ∨ b.addr + b.bytes + 4 * k.items.length ≤ a → e.hostByte a = d.hostByte a)) ∧
      (d.ust (.outlet o.val) ≠ .run → exec (.packetAcked o) s = does id))

/-- The CRC-8 of R435, and the wrap of a pointer within its 32-byte block (R433). What the management bus and its attention
requests do (R431–R439). -/
def Obligations.MgmtCommands : Prop :=
  ((∀ b : Byte, pec [b] = (List.range 8).foldl (fun (c : Byte) _ => if c.getLsbD 7 then (c <<< 1) ^^^ 0x07 else c <<< 1) b) ∧
   (∀ (l : List Byte) (b : Byte), pec (l ++ [b]) = pec [pec l ^^^ b]) ∧
   (∀ l : List Byte, pec (l ++ [pec l]) = 0) ∧
   (∀ p n : Nat, wrapPtr p n / 32 = p / 32 ∧ wrapPtr p n % 32 = (p + n) % 32)) ∧
  (∀ (s : State) (p : Path) (x : MgmtXfer) (extra : Bool),
     let does := fun (f : Dev → Dev) => (Host.Outcome.next (s.act f) : Host.Outcome State Fault Refusal)
     (s.Via .mgmt → exec (.mgmtTransaction x) s = does (fun d =>
       let d := if d.mgmt.atnActive then d.atnLost else d
       let withPec := d.rb 0x18040 0
       let d := { d with mgmt := { d.mgmt with
         xfers := d.mgmt.xfers + 1, last := d.mgmt.ptr, stuck := false, sent := [], fetched := none, busy := true,
         acks := d.mgmtAcks x.bytes withPec } }
       let head := if x.bytes = [] then [] else d.addrByte false :: x.bytes
       let d := if x.err = none ∨ x.readN ≠ 0 then
           if withPec then d.mgmtPec x.bytes (x.readN != 0) else d.mgmtPlain x.bytes true
         else if withPec then d.pecCut x.bytes else d.mgmtPlain x.bytes false
       if d.mgmt.busy = false then d
       else
         let d := d.mgmtRead (if withPec && Dev.mgmtDeaf x.bytes then 0 else x.readN) withPec head
         (match x.err with | some e => d.busError (errBit e) | none => d).mgmtFree)) ∧
     (s.Via p → p = .host ∨ p = .efyonS → exec (.atnRaise p) s = does (fun d => d.atn 5)) ∧
     (s.Via p → p ≠ .host → p ≠ .efyonS → exec (.atnRaise p) s = does (fun d => d.fault 0x18000 29)) ∧
     (s.Alive →
       (∀ f, s.dev.mgmt.fetched = some f → exec .stretchTimeout s = does (fun d =>
         ({ d with mgmt := { d.mgmt with sent := lateSent f d.mgmt.sent, fetched := none } } : Dev).fault 0x18000 8)) ∧
       exec .busStuckTimeout s = does (fun d =>
         (({ d with mgmt := { d.mgmt with stuck := true, atnActive := false } } : Dev).count 0x18050 7 0).fault 0x18000 6) ∧
       (∀ t ns, s.dev.mgmt.backoff = some (t, ns) →
         exec .backoffEnd s = does (fun d =>
           if ns ≤ (d.now - t).toNat then { d with mgmt := { d.mgmt with backoff := none } } else d)) ∧
       (s.dev.mgmt.atnActive = true ∨
           s.dev.mgmt.backoff = none ∧ s.dev.mgmt.atnPend &&& (s.dev.rd 0x18048).truncate 6 ≠ 0 →
         let cause := s.dev.mgmt.atnPend &&& (s.dev.rd 0x18048).truncate 6
         let k := s.dev.mgmt.inRow + 1
         let after := fun (d : Dev) => ({ d with mgmt := { d.mgmt with
           stuck := false, inRow := k, atnActive := false, backoff := some (d.now, s.dev.rf 0x18048 31 24 * 2 ^ min (k - 1) 6 * 1000000) } } : Dev)
         exec (.attentionRequest .started) s = does (fun d =>
           { d with mgmt := { d.mgmt with stuck := false, atnActive := true } }) ∧
         exec (.attentionRequest (.served extra)) s = does (fun d =>
           let d : Dev := { d with mgmt := { d.mgmt with
             stuck := false, atnPend := d.mgmt.atnPend &&& ~~~cause, inRow := 0, atnActive := false, fetched := none,
             sent := BitVec.ofNat 8 cause.toNat :: (if extra then [0xFF] else []) } }
           if extra then d.fault 0x18000 0 else d) ∧
         exec (.attentionRequest .lost) s = does (fun d => ((after d).count 0x18050 31 16).fault 0x18000 1) ∧
         exec .atnAbandon s = does (fun d => (after d).count 0x18050 15 8))))

/-- What Campwatch's commands and events do: up to four writes leave the crossing at an edge, senses and polls, the drain, and the
release of WAKE# (R444–R463). A post to the island while it has 16 waiting writes is dropped and faults; RELEASE and EMPTY as
the island carries them out; a batch entry joins behind the others, and a full ring keeps its 2816 (R446, R455). -/
def Obligations.CampwatchCommands : Prop :=
  (∀ (s : State) (p : Path) (n : Fin 8) (level : Bool) (a : BitVec 48) (e : Fin 256) (bytes : List Byte) (v : Word),
     let does := fun (f : Dev → Dev) => (Host.Outcome.next (s.act f) : Host.Outcome State Fault Refusal)
     (s.dev.pwr.st ≠ .off →
       exec .cwWriteApply s = does (fun d => let d := d.cwEdge
         (d.cw.writes.take 4).foldl (fun (d : Dev) w => d.cwWrite w.1 w.2) (d.setCw { d.cw with writes := d.cw.writes.drop 4 })) ∧
       (bit (s.dev.rd (0x19080 + 4 * n.val)) 7 = true → (s.dev.sns n.val).level ≠ (level != bit (s.dev.rd (0x19080 + 4 * n.val)) 6) →
           fld (s.dev.rd (0x19080 + 4 * n.val)) 31 24 ≤ (s.dev.pwr.aonCnt - a).toNat + 1 → (s.dev.pwr.aonCnt - a).toNat < 2 ^ 47 →
         exec (.senseChange n level a) s = does (fun d => d.senseChange n.val level a)) ∧
       (bit (s.dev.rd (0x19080 + 4 * n.val)) 7 = true → fld (s.dev.rd (0x19080 + 4 * n.val)) 15 8 ≠ 0 →
           (s.dev.sns n.val).level = true → (s.dev.sns n.val).stuck = false →
         exec (.senseStuck n) s = does (fun d =>
           ((d.setSns n.val { d.sns n.val with stuck := true, stuckAt := some (d.pwr.aonCnt, !d.rb 0x1900C 1) }).cwFault 1).cwInput n.val 2 (0x100 + n.val))) ∧
       (e.val ∈ s.dev.cw.first → exec (.pollDue e) s = does Dev.cwEdge) ∧
       (e.val ∉ s.dev.cw.first → bit (s.dev.pollWord (8 * e.val)) 31 = true → s.dev.rb (0x190C0 + 4 * (e.val / 64)) 31 = true →
         (e.val ∈ s.dev.cw.due → exec (.pollDue e) s = does (fun d =>
           ((d.count (0x190D0 + 4 * (e.val / 64)) 31 16).cwFault 2).cwInput (8 + e.val / 64) 4 0xFFF)) ∧
         (e.val ∉ s.dev.cw.due → exec (.pollDue e) s = does (fun d =>
           (d.setCw { d.cw with due := (e.val :: d.cw.due).insertionSort (· ≤ ·) }).pollNext))) ∧
       (∀ i ws t cfg, s.dev.cw.cur = some ⟨i, ws, t, cfg⟩ → (fld (ws.getD 0 0) 24 22 = bytes.length) →
         let r := bytes.foldl (fun acc b => acc * 256 + b.toNat) 0
         exec (.pollTransferDone bytes) s = does (fun d =>
           let d := d.setCw { d.cw with cur := none }
           (if bit (ws.getD 0 0) 30 && r == 0 then
             ((d.count (0x190D0 + 4 * (i / 64)) 15 0).cwFault 3).cwInput (8 + i / 64) 3 0xFFF t
           else d.pollValueIn i ws t r).pollNext)) ∧
       (s.dev.cw.wakeDrv = true → s.dev.rf 0x1904C 15 0 ≠ 0 →
         exec .wakeHoldExpiry s = does (fun d => d.setCw { d.cw with wakeDrv := false, wakeCause := 0 }))) ∧
     (∀ b rest, s.Alive → s.dev.cw.batch = b :: rest → s.dev.pwr.ckSys = true → s.dev.rb 0x19040 31 = true →
         s.dev.qState (s.dev.rf 0x19040 9 0) = .run → 1 ≤ s.dev.credit (s.dev.rf 0x19040 9 0) →
       exec .drainRecord s = does (fun d =>
         let q := d.rf 0x19040 9 0
         let loss := SMap.get false d.cw.lossDue b.src || d.isLossDue (0xC000 + b.src) q
         let d := d.setCw { d.cw with batch := rest, lossDue := SMap.put false d.cw.lossDue b.src false }
         (d.setLossDue (0xC000 + b.src) q false).commit q (d.cwRecord b loss) 4 (some (0xC000 + b.src)))) ∧
     (s.Via p →
       exec (.releaseWake p) s = does (fun d => d.cwPost 0x48 1) ∧
       exec (.emptyBatch p) s = does (fun d => d.cwPost 0x48 2) ∧
       exec (.tblDataAccess p (some v)) s = does (fun d => d.cwPost 0x7C v) ∧
       exec (.tblDataAccess p none) s = does (fun d =>
         let r := d.regRead p 0x1907C
         r.1.setPath p { r.1.path p with ans := r.2 }) ∧
       exec (.aonLoRead p) s = does (fun d =>
         let r := d.regRead p 0x19050
         r.1.setPath p { r.1.path p with ans := r.2 }))) ∧
  (∀ (d : Dev) (o : Nat) (v : Word),
     (d.cw.writes.length < 16 → d.cwPost o v = d.setCw { d.cw with writes := d.cw.writes ++ [(o, v)] }) ∧
     (16 ≤ d.cw.writes.length → d.cwPost o v = d.cwFault 5 ∧ (d.cwPost o v).cw.writes = d.cw.writes) ∧
     (d.cwWrite 0x48 1).cw.wakeDrv = false ∧
     (d.cwWrite 0x48 2).cw.batch = [] ∧
     (∀ a ty src p5 p6 p7, d.cw.batch.length < 2816 → (d.cwJoin a ty src p5 p6 p7).cw.batch =
       d.cw.batch ++ [⟨a, ty, src, p5, p6, p7, (d.pairAt a).1, (d.pairAt a).2⟩]) ∧
     (∀ a ty src p5 p6 p7, d.cw.batch.length = 2816 →
       (d.cwJoin a ty src p5 p6 p7).cw.batch = if d.rb 0x19040 13
         then d.cw.batch.tail ++ [⟨a, ty, src, p5, p6, p7, (d.pairAt a).1, (d.pairAt a).2⟩] else d.cw.batch))

/-! ### Vierma, health, monitor -/

/-- What links, enumeration and member frames do (R464–R471, R474–R479). -/
def Obligations.ViermaCommands : Prop :=
  ∀ (s : State) (p : Fin 4) (crc rt : Nat) (f : EnumFrame) (ph : PhaseFrame) (t : Time) (lost : List (BitVec 18)) (m : RecordMsg)
    (x : FieldData) (a : BitVec 18) (cfg amp avg : Word) (wpos : Fin 8) (off : Nat) (v : Word) (pa : Path), s.Alive →
    let does := fun (f : Dev → Dev) => (Host.Outcome.next (s.act f) : Host.Outcome State Fault Refusal)
    (s.dev.portOn p.val = true →
      exec (.viermaLinkTrained p) s = does (fun d => d.setPort p.val { d.port p.val with link := 2 }) ∧
      exec (.lossOfSignal p true 0) s = does (fun d =>
        let d := d.count (0x1A088 + 0x10 * p.val) 15 0
        (d.setPort p.val { d.port p.val with link := 3 }).fault 0x1A000 1) ∧
      (crc ≠ 0 → crc ≤ 16 → exec (.lossOfSignal p false crc) s = does (fun d =>
        (d.count (0x1A088 + 0x10 * p.val) 31 16 crc).fault 0x1A000 0))) ∧
    exec (.enum f) s = does (fun d => d.enum f) ∧
    ((s.dev.port p.val).link = 2 → exec (.delay p rt) s = does (fun d => d.setPort p.val { d.port p.val with dly := rt / 2 })) ∧
    (s.dev.root = false → s.dev.inField = true → exec (.phase ph) s = does (fun d => d.phaseFrame ph)) ∧
    (s.dev.root = false → s.dev.vl.addr.isSome = true → s.dev.vl.up.isSome = true → s.dev.vl.joined = false →
      (s.dev.anyActive false = true → exec (.fieldJoin t) s = does (fun d => d.fault 0x1A000 7)) ∧
      (s.dev.anyActive false = false → exec (.fieldJoin t) s = does (fun d => d.join t) ∧ (s.dev.join t).pwr.origin = 2 ∧
        (s.dev.join t).now = t ∧ (s.dev.join t).vl.joined = true)) ∧
    (s.dev.root = true → a.toNat ≠ 1 →
      exec (.wready a cfg amp avg wpos) s = does (fun d => d.wreadyAt a.toNat cfg amp avg wpos.val)) ∧
    (s.dev.root = false ∨ a.toNat = 1 → exec (.wready a cfg amp avg wpos) s = does id) ∧
    (∀ w, s.dev.weir.run = some w → w.cfg.field = true →
      (s.dev.weir.rstate = 1 →
        exec (.fstart (some t)) s = does (fun d => d.updVl (fun v => { v with fstart := some t })) ∧
        exec (.fstart none) s = does (fun d => d.weirAbort 3)) ∧
      exec (.data x) s = does (fun d => d.fieldData x)) ∧
    (s.dev.vl.addr.isSome = true → off < 0x2000000 →
      exec (.page (.request off (some v))) s = does (fun d => d.busWrite .host off v) ∧
      exec (.page (.request off none)) s = does (fun d => (d.busRead .host off).1)) ∧
    (pa.num ∈ s.dev.vl.proxy →
      let answered := fun (v : Word) =>
        ({ s with dev := (s.dev.updVl (fun x => { x with proxy := x.proxy.erase pa.num })).setPath pa { s.dev.path pa with ans := v } } : State)
      exec (.page (.completion pa v)) s = .next ((answered v).loaded pa).finish ∧
      exec (.proxyTimeout pa) s = .next (State.finish (State.loaded { s with dev := (answered 0xFFFFFFFF).dev.fault 0x1A000 5 } pa))) ∧
    exec (.record m) s = does (fun d => d.forward m) ∧
    exec .uplinkLoss s = does Dev.uplinkLoss ∧
    ((s.dev.port p.val).role = 3 → exec (.downlinkLoss p lost) s = does (fun d => d.downlinkLoss p.val (lost.map BitVec.toNat)))

/-- A field event (R472, R473, R479): the command at the root, the votes, the decision, and the instant. The root collects votes
until it decides; it decides GO where every device voted for it, and else against, by the lowest address that did not. -/
def Obligations.FieldEvents : Prop :=
  ∀ (s : State) (p : Path) (n : Fin 256) (a : BitVec 18) (ok : Bool) (t : Time) (key : BitVec 16),
    let does := fun (f : Dev → Dev) => (Host.Outcome.next (s.act f) : Host.Outcome State Fault Refusal)
    (s.Via p →
      exec (.fire p n) s = does (fun d => d.fieldTrigger n.val) ∧
      (s.dev.root = true → exec (.fieldReset (.fire p 0x4B53)) s = does (fun d =>
        d.updVl (fun v => { v with resetAt := some (d.now + BitVec.ofNat 64 (d.minLead * 1000)) }))) ∧
      (key ≠ 0x4B53 → exec (.fieldReset (.fire p key)) s = does (fun d => d.invalid 0x1B000))) ∧
    (s.Alive →
      (s.dev.inField = true → (s.dev.root = true → ∃ u, s.dev.vl.resetAt = some u ∧ u ≤ s.dev.now) →
        exec (.fieldReset .instant) s = does (fun d => d.deviceReset)) ∧
      (s.dev.root = false → s.dev.inField = true →
        exec (.query n) s = does (fun d => d.updVl (fun x => { x with voted := SMap.put 0 x.voted n.val (d.voteOf n.val) })) ∧
        (t < s.dev.now → exec (.go n t) s = does (fun d => (d.fieldRefuse n.val).fault 0x1A000 6)) ∧
        (s.dev.now ≤ t → exec (.go n t) s = does (fun d => d.setEvent n.val (some { t := t, votes := [], go := true }))) ∧
        exec (.refuse n) s = does (fun d => d.fieldRefuse n.val)) ∧
      (∀ e, s.dev.event n.val = some e →
        (s.dev.root = true → e.go = false →
          exec (.vote n a ok) s = does (fun d => d.setEvent n.val (some { e with
            votes := e.votes.filter (fun x => x.1 != a.toNat) ++ [(a.toNat, ok)] })) ∧
          (e.t.toNat ≤ s.dev.now.toNat + s.dev.bcastLat + 1000 → (∀ b ∈ 1 :: s.dev.vl.members.map (·.addr), e.votes.find? (fun x => x.1 == b) = some (b, true)) →
            exec (.fieldEventDecide n) s = does (fun d => (d.setEvent n.val (some { e with go := true })).updVl (fun v =>
              { v with vote := w32 (n.val * 2 ^ 24 + 2 ^ 22) }))) ∧
          (s.dev.now.toNat + s.dev.bcastLat + 1000 < e.t.toNat → exec (.fieldEventDecide n) s = does id) ∧
          (∀ b front back, e.t.toNat ≤ s.dev.now.toNat + s.dev.bcastLat + 1000 → 1 :: s.dev.vl.members.map (·.addr) = front ++ b :: back →
            (∀ c ∈ front, e.votes.find? (fun x => x.1 == c) = some (c, true)) → e.votes.find? (fun x => x.1 == b) ≠ some (b, true) →
            exec (.fieldEventDecide n) s = does (fun d =>
              let r := if e.votes.any (fun x => x.1 == b) then 2 else 3
              (((d.setEvent n.val none).updVl (fun v => { v with vote := w32 (n.val * 2 ^ 24 + r * 2 ^ 22 + b) })).fault 0x1B000 0).fieldRefuse
                n.val))) ∧
        (e.go = true → e.t = s.dev.now → exec (.fieldEventInstant n) s = does (fun d =>
          let d := d.setEvent n.val none
          let d := forEach (d.armedFor (fun w => fld w 2 0 == 3 && fld w 23 16 == n.val)) (fun k (d : Dev) => d.pitchApply k) d
          d.weirOn 3 n.val (d.rf 0x1A04C 2 0)))))

/-- Scrubbing, wear, prediction, idle calibration, the reference check and firmware images (R484–R493). -/
def Obligations.HealthCommands : Prop :=
  ∀ (s : State) (p : Path) (m : ScrubMem) (a : Nat) (r : ScrubResult) (ppm : List Int) (hdr : Bool) (ns : Nat),
    let does := fun (f : Dev → Dev) => (Host.Outcome.next (s.act f) : Host.Outcome State Fault Refusal)
    let refused := fun (r : Nat) => does (fun d => (d.updHealth (fun h => { h with op := 0, result := r, pct := 0 })).fault 0x1C000 5)
    let slotBad := s.dev.imgSlot = 0 ∨ s.dev.imgSlot = 3 ∨ s.dev.imgSlot = s.dev.pwr.slot
    (m ≠ .lakebed → exec (.scrubAccess m a r) s = does (fun d => d.scrub m a r)) ∧
    (r ≠ .uncorrectable → exec (.scrubAccess m a r) s = does (fun d => d.scrub m a r)) ∧
    (s.Alive →
      exec (.wearSnapshot true) s = does Dev.saveWear ∧
      exec (.wearSnapshot false) s = does (fun d => d.fault 0x1C000 1) ∧
      (s.dev.esc.running = true →
        exec .eolPrediction s = does Dev.eolPredict ∧
        exec .idleSlotCalibration s = does Dev.idleCal ∧
        (s.dev.rb 0x1C070 1 = true → exec (.referenceCheck none) s = does (fun d => d.updHealth (fun h => { h with refRun := true })))) ∧
      (s.dev.health.refRun = true → exec (.referenceCheckDone ppm) s = does (fun d => d.refDone ppm)) ∧
      (s.dev.health.op = 1 →
        exec (.fwProgramDone false) s = refused 5 ∧
        exec (.fwProgramDone true) s = does (fun d =>
          (d.setSlot d.health.opImg { magic := true, seq := (d.slot (3 - d.health.opImg)).seq + 1, st := .new, crc := true,
                                      image := s.imageAt (d.health.opBase * 0x2000000) }).updHealth
            (fun h => { h with op := 0, result := 2, pct := 100 }))) ∧
      (s.dev.health.op = 2 →
        exec (.fwLoadDone false) s = refused 4 ∧
        exec (.fwLoadDone true) s = does (fun d => d.updHealth (fun h =>
          { h with op := 0, result := 2, pct := 100, loaded := some h.opImg, load := some (h.opImg, 1 - h.half) })))) ∧
    (s.Via p →
      exec (.referenceCheck (some p)) s = does (fun d => d.updHealth (fun h => { h with refRun := true })) ∧
      (s.dev.health.op = 0 →
        (slotBad ∨ hdr = false ∨ s.dev.rf 0x1C08C 6 0 < 8 → exec (.program p hdr) s = refused 3) ∧
        (¬slotBad → hdr = true → 8 ≤ s.dev.rf 0x1C08C 6 0 →
            (∀ r ∈ s.dev.lakeRegions, overlap (s.dev.rf 0x1C08C 6 0) 1 r.1 r.2 = false) →
          exec (.program p hdr) s = does (fun d => (d.setSlot d.imgSlot { d.slot d.imgSlot with magic := false }).updHealth (fun h =>
            { h with op := 1, opImg := d.imgSlot, opBase := d.rf 0x1C08C 6 0, result := 1, pct := 0 }))) ∧
        (slotBad ∨ (s.dev.slot s.dev.imgSlot).magic = false → exec (.load p) s = refused 3) ∧
        (¬slotBad → (s.dev.slot s.dev.imgSlot).magic = true →
            (s.dev.slot s.dev.imgSlot).st = .new ∨ (s.dev.slot s.dev.imgSlot).st = .good →
          exec (.load p) s = does (fun d => d.updHealth (fun h =>
            { h with op := 2, opImg := d.imgSlot, result := 1, pct := 0, loaded := none }))) ∧
        (s.dev.health.loaded = none → exec (.switch p ns) s = refused 3) ∧
        (∀ i, s.dev.health.loaded = some i → exec (.switch p ns) s = does (fun d =>
          let d := (d.saveWear.coreStop).wb 0x204C 6 true
          let d := d.updHealth (fun h => { h with half := 1 - h.half, loaded := none, result := 2, pct := 100 })
          ((d.setSlot i { d.slot i with st := .trial }).startFw i).fwRec 1 (w32 ns)))))

/-- What each of the monitor's 20 lines does while the port is on: its effect and its answer, or the error that it answers
(R503–R509). A line with a syntax error has no effect; any other one ends the wait for a valid line at a new rate. -/
def Obligations.MonitorLines : Prop :=
  ∀ (s : State) (l : Fin 3) (c r v : Word) (a n b : Nat) (q : Queue) (camp : Camp) (k : Fin 10) (ch : Chan) (reg : Reg) (eop : Bool),
    s.Alive → s.dev.rb 0x1E040 0 = true →
    let d0 := s.dev.updMon (fun m => { m with baudNew := false })
    let done := fun (s' : State) (d : Dev) (x : MonAns) =>
      State.finish { s' with dev := d.updMon (fun m => { m with ans := some x }) }
    let answers := fun (d : Dev) (x : MonAns) => (Host.Outcome.next (done s d x) : Host.Outcome State Fault Refusal)
    let syntaxErr := answers s.dev (.err 5)
    let page := (Un.ctx (10 * camp.val + k.val)).addr
    let lvl := s.dev.mon.level
    -- at any level
    exec .monId s = answers d0 (.ok [d0.peek 0, d0.peek 0x2054, w32 lvl]) ∧
    exec .monLock s = answers (d0.updMon (fun m => { m with level := 0 })) (.ok []) ∧
    exec (.monUnlock l c) s = (if l.val = 0 then syntaxErr else if s.dev.mon.lockout then answers d0 (.err 4)
      else answers (d0.updMon (fun m => { m with chal := some (l.val, c, s.dev.now) })) (.ok [c])) ∧
    (s.dev.mon.chal = none → exec (.monKey r) s = answers d0 (.err 4)) ∧
    (∀ g h t, s.dev.mon.chal = some (g, h, t) →
      let used := d0.updMon (fun m => { m with chal := none })
      let right := s.dev.mon.key ≠ 0 ∧ r = unlockResponse s.dev.mon.key h g
      exec (.monKey r) s = (if 10000000000 < (s.dev.now - t).toNat then answers used (.err 4)
        else if right then answers (used.updMon (fun m => { m with level := g, wrong := 0 })) (.ok [])
        else if s.dev.mon.wrong < 2 then answers ((used.fault 0x1E000 1).updMon (fun m => { m with wrong := m.wrong + 1 })) (.err 2)
        else answers (((used.fault 0x1E000 1).updMon (fun m => { m with wrong := 0, lockout := true })).fault 0x1E000 2) (.err 2))) ∧
    exec (.monBaud b) s = (if 9600 ≤ b ∧ b ≤ 3000000 then answers (d0.updMon (fun m => { m with baud := b, baudNew := true })) (.ok [])
      else syntaxErr) ∧
    -- from level 1
    (lvl < 1 → exec (.monPeek a n) s = answers d0 (.err 2) ∧ exec (.monCtx camp k) s = answers d0 (.err 2) ∧
      exec (.monFlap ch) s = answers d0 (.err 2) ∧ exec (.monSreg reg) s = answers d0 (.err 2)) ∧
    (1 ≤ lvl →
      exec (.monPeek a n) s = (if n = 0 ∨ 16 < n ∨ a % 4 ≠ 0 then syntaxErr else if 0x2000000 < a + 4 * n then answers d0 (.err 3)
        else if ∃ i < n, noPeek (a + 4 * i) = true then answers d0 (.err 4)
        else answers d0 (.ok ((List.range n).map (fun i => d0.peek (a + 4 * i))))) ∧
      exec (.monCtx camp k) s = answers d0 (.ok ((ctxRegs page).map d0.peek)) ∧
      exec (.monFlap ch) s = answers d0 (.ok ([0x94, 0x98, 0x9C, 0xA0].map (fun o => d0.peek (0x200000 + ch.val * 0x1000 + o)))) ∧
      exec (.monSreg reg) s = answers d0 (if s.dev.esc.monHalt then .ok [s.dev.esc.core.dr reg.val] else .err 4)) ∧
    -- from level 2
    (lvl < 2 → exec (.monRd a n) s = answers d0 (.err 2) ∧ exec (.monWr a v) s = .next (done s d0 (.err 2)).runSteps ∧
      exec (.monPop q) s = answers d0 (.err 2) ∧ exec (.monQdrop q) s = answers d0 (.err 2) ∧
      exec (.monPush q v eop) s = answers d0 (.err 2) ∧ exec (.monCtxStep camp k) s = .next (done s d0 (.err 2)).runSteps ∧
      exec (.monCtxRelease camp k) s = answers d0 (.err 2) ∧ exec (.monFlapOpen ch) s = answers d0 (.err 2) ∧
      exec .monHalt s = answers d0 (.err 2) ∧ exec .monGo s = answers d0 (.err 2) ∧ exec .monSstep s = answers d0 (.err 2)) ∧
    (2 ≤ lvl →
      exec (.monRd a n) s = (if n = 0 ∨ 16 < n ∨ a % 4 ≠ 0 then syntaxErr else if 0x2000000 < a + 4 * n then answers d0 (.err 3)
        else let x := d0.readAll ((List.range n).map (fun i => a + 4 * i)); answers x.1 (.ok x.2)) ∧
      exec (.monWr a v) s = .next (if a % 4 ≠ 0 then done s s.dev (.err 5) else if 0x2000000 < a + 4 then done s d0 (.err 3)
        else done s (d0.busWrite .host a v) (.ok [])).runSteps ∧
      exec (.monPop q) s = (let x := d0.busRead .host (0x520000 + 16 * q.val); answers x.1 (.ok [x.2])) ∧
      exec (.monQdrop q) s = answers (d0.busWrite .host (0x52000C + 16 * q.val) 1) (.ok []) ∧
      exec (.monPush q v eop) s = answers (d0.busWrite .host (0x510000 + 16 * q.val + (if eop then 4 else 0)) v) (.ok []) ∧
      exec (.monCtxStep camp k) s = .next (done s (d0.busWrite .host (page + 0x4C) 2) (.ok [])).runSteps ∧
      exec (.monCtxRelease camp k) s = answers (d0.busWrite .host (page + 0x4C) 1) (.ok []) ∧
      exec (.monFlapOpen ch) s = answers ((d0.holdUnits [.chan ch.val]).softOpen ch.val true true) (.ok []) ∧
      exec .monHalt s = (if s.dev.esc.running = true ∧ s.dev.esc.monHalt = false
        then answers (d0.setEsc { s.dev.esc with monHalt := true }) (.ok []) else answers d0 (.err 4)) ∧
      exec .monGo s = (if s.dev.esc.monHalt then answers (d0.setEsc { s.dev.esc with monHalt := false }) (.ok [])
        else answers d0 (.err 4)) ∧
      exec .monSstep s = (if s.dev.esc.monHalt then
          let t : State := { s with dev := d0 }
          let t := if t.dev.stepsOn .main = true ∧ t.dev.esc.halted = false then State.stepCore .main 3 t else t
          .next (done t.dueEntry t.dueEntry.dev (.ok []))
        else answers d0 (.err 4)))

/-- Events of the monitor, and the instructions and DEBUG accesses of the TAP (R503, R505, R508, R511–R513). -/
def Obligations.TapCommands : Prop :=
  ∀ (s : State) (v : Word) (off : Nat), s.Alive →
    let does := fun (f : Dev → Dev) => (Host.Outcome.next (s.act f) : Host.Outcome State Fault Refusal)
    let loads := fun (i : Ir) => does (fun d => { d with mon := { d.mon with ir := i } })
    let done := fun (d : Dev) (err : Bool) (v : Word) =>
      ({ d with mon := { d.mon with ir := .debug, jDone := true, jErr := err, jData := v } } : Dev)
    exec .extest s = loads .extest ∧ exec .highz s = loads .highz ∧ exec .idcode s = loads .idcode ∧
    exec .samplePreload s = loads .sample ∧ exec .bypass s = loads .bypass ∧ exec (.debug 0 v off) s = loads .debug ∧
    (off % 4 = 0 → off < 0x2000000 →
      (s.dev.rf 0x1E040 3 2 = 1 ∨ s.dev.rf 0x1E040 3 2 = 2 → noPeek off = false →
        exec (.debug 3 v off) s = does (fun d => done d false (({ d with mon := { d.mon with ir := .debug } } : Dev).peek off))) ∧
      (s.dev.rf 0x1E040 3 2 ≠ 2 →
        exec (.debug 1 v off) s = does (fun d => done d true 0) ∧ exec (.debug 2 v off) s = does (fun d => done d true 0))) ∧
    (s.dev.rb 0x1E040 0 = true → exec .monBreak s = does (fun d => ({ d with mon := { d.mon with
      level := 0, chal := none, baud := 115200, baudNew := false, ans := none } } : Dev).fault 0x1E000 3)) ∧
    (s.dev.mon.baudNew = true → exec .baudRevert s = does (fun d => { d with mon := { d.mon with baud := 115200, baudNew := false } })) ∧
    exec .lockoutEnd s = does (fun d => { d with mon := { d.mon with lockout := false } }) ∧
    (s.dev.esc.monHalt = true → s.dev.rf 0x1E040 31 16 ≠ 0 → exec .haltTimeout s = does (fun d =>
      (d.setEsc { d.esc with monHalt := false }).fault 0x1E000 4))
end

