-- ==== Sys2Proof/Laws/Bits.lean ====
section
/-! SUPPORT. Fields and bits of words: what replacing a field leaves in every bit. -/

namespace Sys2Proof.Machine

/-- A field that is replaced takes the low bits of the number; every other bit stays. -/
theorem setFld_bit (w : Word) {hi lo : Nat} (v b : Nat) (h : lo ≤ hi) (hh : hi < 32) (hb : b < 32) :
    (setFld w hi lo v).getLsbD b = if lo ≤ b ∧ b ≤ hi then v.testBit (b - lo) else w.getLsbD b := by
  obtain ⟨k, rfl⟩ : ∃ k, hi = lo + k := ⟨hi - lo, by omega⟩
  have hk : lo + k + 1 - lo = k + 1 := by omega
  unfold setFld
  simp only [hk, w32]
  rw [BitVec.getLsbD_ofNat]
  simp only [hb, decide_true, Bool.true_and]
  have e1 : w.toNat >>> lo = w.toNat / 2 ^ lo := Nat.shiftRight_eq_div_pow _ _
  rw [e1]
  set n := w.toNat with hn
  have d1 : n = 2 ^ lo * (n / 2 ^ lo) + n % 2 ^ lo := (Nat.div_add_mod _ _).symm
  have d2 : n / 2 ^ lo = 2 ^ (k+1) * (n / 2 ^ lo / 2 ^ (k+1)) + n / 2 ^ lo % 2 ^ (k+1) := (Nat.div_add_mod _ _).symm
  have l1 : n % 2 ^ lo < 2 ^ lo := Nat.mod_lt _ (by positivity)
  have l2 : v % 2 ^ (k+1) < 2 ^ (k+1) := Nat.mod_lt _ (by positivity)
  have l3 : n / 2 ^ lo % 2 ^ (k+1) < 2 ^ (k+1) := Nat.mod_lt _ (by positivity)
  have e : n - n / 2 ^ lo % 2 ^ (k + 1) * 2 ^ lo + v % 2 ^ (k+1) * 2 ^ lo =
      2 ^ lo * (2 ^ (k+1) * (n / 2 ^ lo / 2 ^ (k+1)) + v % 2 ^ (k+1)) + n % 2 ^ lo := by
    have d3 : n = 2 ^ lo * (2 ^ (k+1) * (n / 2 ^ lo / 2 ^ (k+1))) + 2 ^ lo * (n / 2 ^ lo % 2 ^ (k+1)) + n % 2 ^ lo := by
      rw [← Nat.mul_add, ← d2]; exact d1
    have : n - n / 2 ^ lo % 2 ^ (k + 1) * 2 ^ lo = 2 ^ lo * (2 ^ (k+1) * (n / 2 ^ lo / 2 ^ (k+1))) + n % 2 ^ lo := by
      rw [Nat.mul_comm (n / 2 ^ lo % 2 ^ (k+1)) (2 ^ lo)]
      omega
    rw [this]; ring
  rw [e, Nat.testBit_two_pow_mul_add _ l1, Nat.testBit_two_pow_mul_add _ l2]
  have en : n.testBit b = if b < lo then (n % 2 ^ lo).testBit b else if b - lo < k + 1 then (n / 2 ^ lo % 2 ^ (k+1)).testBit (b - lo) else (n / 2 ^ lo / 2 ^ (k+1)).testBit (b - lo - (k+1)) := by
    conv_lhs => rw [d1, Nat.testBit_two_pow_mul_add _ l1, d2, Nat.testBit_two_pow_mul_add _ l3]
  have ew : w.getLsbD b = n.testBit b := rfl
  rw [ew, en]
  split
  · rw [if_neg (by omega)]
  · split
    · rw [if_pos (by omega), Nat.testBit_mod_two_pow]
      simp; omega
    · rw [if_neg (by omega)]

/-- A bit that is set or cleared. -/
theorem setBit_bit (w : Word) (x : Bool) {i b : Nat} (hi : i < 32) (hb : b < 32) :
    (setBit w i x).getLsbD b = if b = i then x else w.getLsbD b := by
  rw [setBit, setFld_bit w _ b (Nat.le_refl i) hi hb]
  by_cases h : b = i
  · subst h
    cases x <;> simp
  · rw [if_neg (by omega), if_neg h]

/-- A field as a number has the field's bits. -/
theorem fld_bit (w : Word) (hi lo j : Nat) : (fld w hi lo).testBit j = (decide (j < hi + 1 - lo) && w.getLsbD (lo + j)) := by
  rw [fld, Nat.testBit_mod_two_pow, Nat.testBit_shiftRight]
  rfl

end Sys2Proof.Machine
end

