-- ==== Sys2Proof/Laws/SMap.lean ====
section
/-! SUPPORT. Sparse maps: what a write changes, that a later write replaces it, and that it keeps the canonical form. -/

namespace Sys2Proof.Machine

variable {α : Type}

@[simp] theorem SMap.find?_erase_self (m : SMap α) (k : Nat) : SMap.find? (SMap.erase m k) k = none := by
  induction m with
  | nil => rfl
  | cons x m ih =>
    simp only [SMap.erase]
    split
    · exact ih
    · rename_i h
      simp [SMap.find?, h, ih]

theorem SMap.find?_erase_ne (m : SMap α) {k j : Nat} (h : j ≠ k) : SMap.find? (SMap.erase m k) j = SMap.find? m j := by
  induction m with
  | nil => rfl
  | cons x m ih =>
    simp only [SMap.erase]
    split
    · rename_i e
      simp [SMap.find?, e, Ne.symm h, ih]
    · simp [SMap.find?, ih]

theorem SMap.find?_place_self (m : SMap α) (k : Nat) (v : α) (h : SMap.find? m k = none) :
    SMap.find? (SMap.place m k v) k = some v := by
  induction m with
  | nil => simp [SMap.place, SMap.find?]
  | cons x m ih =>
    simp only [SMap.find?] at h
    split at h
    · cases h
    · rename_i e
      simp only [SMap.place]
      split
      · simp [SMap.find?]
      · simp [SMap.find?, e, ih h]

theorem SMap.find?_place_ne (m : SMap α) {k j : Nat} (v : α) (h : j ≠ k) :
    SMap.find? (SMap.place m k v) j = SMap.find? m j := by
  induction m with
  | nil => simp [SMap.place, SMap.find?, Ne.symm h]
  | cons x m ih =>
    simp only [SMap.place]
    split
    · simp [SMap.find?, Ne.symm h]
    · simp [SMap.find?, ih]

theorem SMap.find?_insert_self (m : SMap α) (k : Nat) (v : α) : SMap.find? (SMap.insert m k v) k = some v :=
  SMap.find?_place_self _ k v (SMap.find?_erase_self m k)

theorem SMap.find?_insert_ne (m : SMap α) {k j : Nat} (v : α) (h : j ≠ k) :
    SMap.find? (SMap.insert m k v) j = SMap.find? m j :=
  (SMap.find?_place_ne _ v h).trans (SMap.find?_erase_ne m h)

/-- Nothing is left to drop of a key that is not listed. -/
theorem SMap.erase_of_none (m : SMap α) (k : Nat) (h : SMap.find? m k = none) : SMap.erase m k = m := by
  induction m with
  | nil => rfl
  | cons x m ih =>
    simp only [SMap.find?] at h
    split at h
    · cases h
    · rename_i e
      simp [SMap.erase, e, ih h]

theorem SMap.erase_place (m : SMap α) (k : Nat) (v : α) (h : SMap.find? m k = none) : SMap.erase (SMap.place m k v) k = m := by
  induction m with
  | nil => simp [SMap.place, SMap.erase]
  | cons x m ih =>
    simp only [SMap.find?] at h
    split at h
    · cases h
    · rename_i e
      simp only [SMap.place]
      split
      · simp [SMap.erase, e, SMap.erase_of_none m k h]
      · simp [SMap.erase, e, ih h]

@[simp] theorem SMap.erase_erase (m : SMap α) (k : Nat) : SMap.erase (SMap.erase m k) k = SMap.erase m k :=
  SMap.erase_of_none _ k (SMap.find?_erase_self m k)

@[simp] theorem SMap.erase_insert (m : SMap α) (k : Nat) (v : α) : SMap.erase (SMap.insert m k v) k = SMap.erase m k :=
  SMap.erase_place _ k v (SMap.find?_erase_self m k)

section
variable [DecidableEq α] {d : Nat → α}

@[simp] theorem SMap.wfFrom_nil (lo : Nat) : SMap.wfFrom d lo ([] : SMap α) = true := rfl

theorem SMap.wfFrom_cons (lo k : Nat) (v : α) (m : SMap α) :
    SMap.wfFrom d lo ((k, v) :: m) = true ↔ lo ≤ k ∧ v ≠ d k ∧ SMap.wfFrom d (k + 1) m = true := by
  simp [SMap.wfFrom, and_assoc]

theorem SMap.wfFrom_mono {lo lo' : Nat} (h : lo' ≤ lo) {m : SMap α} (w : SMap.wfFrom d lo m = true) :
    SMap.wfFrom d lo' m = true := by
  cases m with
  | nil => rfl
  | cons x m =>
    rw [SMap.wfFrom_cons] at w ⊢
    exact ⟨by omega, w.2⟩

theorem SMap.wfFrom_erase {lo : Nat} {m : SMap α} (k : Nat) (w : SMap.wfFrom d lo m = true) :
    SMap.wfFrom d lo (SMap.erase m k) = true := by
  induction m generalizing lo with
  | nil => rfl
  | cons x m ih =>
    rw [SMap.wfFrom_cons] at w
    simp only [SMap.erase]
    split
    · exact SMap.wfFrom_mono (by omega) (ih w.2.2)
    · rw [SMap.wfFrom_cons]
      exact ⟨w.1, w.2.1, ih w.2.2⟩

theorem SMap.wfFrom_place {lo k : Nat} {v : α} {m : SMap α} (h : lo ≤ k) (hv : v ≠ d k) (hn : SMap.find? m k = none)
    (w : SMap.wfFrom d lo m = true) : SMap.wfFrom d lo (SMap.place m k v) = true := by
  induction m generalizing lo with
  | nil => simp [SMap.place, SMap.wfFrom_cons, h, hv]
  | cons x m ih =>
    rw [SMap.wfFrom_cons] at w
    simp only [SMap.find?] at hn
    split at hn
    · cases hn
    · rename_i e
      simp only [SMap.place]
      split
      · rename_i l
        rw [SMap.wfFrom_cons, SMap.wfFrom_cons]
        exact ⟨h, hv, l, w.2⟩
      · rw [SMap.wfFrom_cons]
        exact ⟨w.1, w.2.1, ih (by omega) hn w.2.2⟩

theorem SMap.wfFrom_filter {lo : Nat} (p : Nat × α → Bool) {m : SMap α} (w : SMap.wfFrom d lo m = true) :
    SMap.wfFrom d lo (m.filter p) = true := by
  induction m generalizing lo with
  | nil => rfl
  | cons x m ih =>
    rw [SMap.wfFrom_cons] at w
    rw [List.filter_cons]
    split
    · rw [SMap.wfFrom_cons]
      exact ⟨w.1, w.2.1, ih w.2.2⟩
    · exact SMap.wfFrom_mono (by omega) (ih w.2.2)

end

variable [DecidableEq α] {e : α}

/-- A write keeps the canonical form. -/
theorem SMap.wf_put {m : SMap α} (k : Nat) (v : α) (w : SMap.wf (fun _ => e) m = true) :
    SMap.wf (fun _ => e) (SMap.put e m k v) = true := by
  unfold SMap.put
  split
  · exact SMap.wfFrom_erase k w
  · rename_i h
    exact SMap.wfFrom_place (Nat.zero_le k) h (SMap.find?_erase_self m k) (SMap.wfFrom_erase k w)

/-- The written key reads as the value. -/
@[simp] theorem SMap.get_put_self (m : SMap α) (k : Nat) (v : α) : SMap.get e (SMap.put e m k v) k = v := by
  unfold SMap.put
  split
  · subst_vars
    rw [SMap.get, SMap.find?_erase_self]
  · rw [SMap.get, SMap.find?_insert_self]

/-- Every other key reads as before. -/
theorem SMap.get_put_ne (m : SMap α) {k j : Nat} (v : α) (h : j ≠ k) : SMap.get e (SMap.put e m k v) j = SMap.get e m j := by
  unfold SMap.put
  split
  · rw [SMap.get, SMap.get, SMap.find?_erase_ne m h]
  · rw [SMap.get, SMap.get, SMap.find?_insert_ne m v h]

/-- A later write of a key replaces an earlier one. -/
@[simp] theorem SMap.put_put (m : SMap α) (k : Nat) (v w : α) : SMap.put e (SMap.put e m k v) k w = SMap.put e m k w := by
  unfold SMap.put
  split <;> split <;> simp [SMap.insert, SMap.erase_place]

end Sys2Proof.Machine
end

