-- ==== Sys2Proof/Laws/Memory.lean ====
section
/-! SUPPORT. Lakebed: reads after writes, and that every memory operation keeps the canonical form. -/

namespace Sys2Proof.Machine

theorem Memory.wf_put {m : List Host.Cell} (a : Nat) (b : Byte) (w : Memory.wf m = true) : Memory.wf (Memory.put m a b) = true :=
  SMap.wf_put a b w

@[simp] theorem Memory.byte_put_self (m : List Host.Cell) (a : Nat) (b : Byte) : Memory.byte (Memory.put m a b) a = b :=
  SMap.get_put_self m a b

theorem Memory.byte_put_ne (m : List Host.Cell) {a j : Nat} (b : Byte) (h : j ≠ a) :
    Memory.byte (Memory.put m a b) j = Memory.byte m j := SMap.get_put_ne m b h

theorem Memory.wf_puts (bs : List Byte) : ∀ (a : Nat) {m : List Host.Cell}, Memory.wf m = true → Memory.wf (Memory.puts bs a m) = true := by
  induction bs with
  | nil => intro a m w; exact w
  | cons b bs ih => intro a m w; exact ih (a + 1) (Memory.wf_put a b w)

/-- Bytes outside a write keep their values. -/
theorem Memory.byte_puts_ne (bs : List Byte) : ∀ (a : Nat) (m : List Host.Cell) {j : Nat}, (j < a ∨ a + bs.length ≤ j) →
    Memory.byte (Memory.puts bs a m) j = Memory.byte m j := by
  induction bs with
  | nil => intro a m j _; rfl
  | cons b bs ih =>
    intro a m j h
    simp only [List.length_cons] at h
    simp only [Memory.puts]
    rw [ih (a + 1) _ (by omega), Memory.byte_put_ne m b (by omega)]

theorem Memory.wf_putWord {m : List Host.Cell} (a : Nat) (v : Word) (w : Memory.wf m = true) :
    Memory.wf (Memory.putWord m a v) = true := Memory.wf_puts _ a w

theorem Memory.wf_putWords (l : List (Nat × Word)) : ∀ {m : List Host.Cell}, Memory.wf m = true →
    Memory.wf (Memory.putWords l m) = true := by
  induction l with
  | nil => intro m w; exact w
  | cons x l ih => intro m w; exact ih (Memory.wf_putWord x.1 x.2 w)

theorem Memory.wf_putImage (a n : Nat) (l : List Host.Cell) : ∀ {m : List Host.Cell}, Memory.wf m = true →
    Memory.wf (Memory.putImage a n l m) = true := by
  induction l with
  | nil => intro m w; exact w
  | cons x l ih =>
    intro m w
    simp only [Memory.putImage]
    split
    · exact ih (Memory.wf_put _ _ w)
    · exact ih w

theorem Memory.wf_load {m : List Host.Cell} (a n : Nat) (l : List Host.Cell) (w : Memory.wf m = true) :
    Memory.wf (Memory.load m a n l) = true := Memory.wf_putImage a n l (SMap.wfFrom_filter _ w)

/-- Lakebed is canonical at reset. -/
theorem reset_canonical : State.reset.Canonical := rfl

/-- A command that acts on the device alone keeps Lakebed canonical: at most a firmware image is loaded. -/
theorem State.loads_canonical {s : State} (h : s.Canonical) : s.loads.Canonical := by
  have h0 : ∀ s : State, s.Canonical → State.Canonical (match s.dev.health.load with
      | none => s
      | some (i, half) =>
        { s with mem := Memory.load s.mem (half * halfSize) imageSize (s.dev.slot i).image
                 dev := s.dev.updHealth (fun h => { h with load := none }) }) := by
    intro s h
    split
    · exact h
    · exact Memory.wf_load _ _ _ h
  unfold State.loads
  split
  · exact h0 _ rfl
  · exact h0 _ h

theorem State.act_canonical {s : State} (f : Dev → Dev) (h : s.Canonical) : (s.act f).Canonical :=
  State.loads_canonical (s := { s with dev := s.dev.closeFrom (f s.dev) }) h

theorem State.actWiped_canonical (s : State) (f : Dev → Dev) : (s.actWiped f).Canonical :=
  State.loads_canonical (s := { s with mem := [], dev := s.dev.closeFrom (f s.dev) }) rfl

theorem State.live_canonical {s : State} (f : Dev → Dev) (h : s.Canonical) : (s.live f).Canonical := by
  unfold State.live
  split
  · exact State.act_canonical f h
  · exact h

theorem State.viaPath_canonical {s : State} (p : Path) (f : Dev → Dev) (h : s.Canonical) : (s.viaPath p f).Canonical := by
  unfold State.viaPath
  split
  · exact State.act_canonical f h
  · exact h

theorem State.write_canonical {s : State} (p : Path) (a : Nat) (v : Word) (h : s.Canonical) : (s.write p a v).Canonical :=
  State.viaPath_canonical p _ h

theorem State.read_canonical {s : State} (p : Path) (a : Nat) (h : s.Canonical) : (s.read p a).Canonical :=
  State.viaPath_canonical p _ h

theorem State.finish_canonical {s : State} (h : s.Canonical) : s.finish.Canonical :=
  State.loads_canonical (s := { s with dev := s.dev.close }) h

theorem State.lakeWrite_canonical {s : State} (b : Nat) (bs : List Byte) (h : s.Canonical) : (s.lakeWrite b bs).Canonical :=
  Memory.wf_puts bs b h

/-- A store of Efyon-S keeps Lakebed canonical, whatever it meets. -/
theorem State.mainStore_canonical {s : State} (a n v : Nat) (h : s.Canonical) : (s.mainStore a n v).1.Canonical := by
  unfold State.mainStore
  repeat' split
  all_goals first | exact h | exact State.lakeWrite_canonical _ _ h

/-- A load of Efyon-S does not change Lakebed. -/
@[simp] theorem State.mainLoad_mem (s : State) (a n : Nat) : (s.mainLoad a n).1.mem = s.mem := by
  unfold State.mainLoad
  repeat' split
  all_goals rfl

end Sys2Proof.Machine
end

