-- ==== Sys2Proof/Laws/Issue.lean ====
section
/-! SUPPORT. The registers of a core through updates, and what the issue of an instruction comes to on each core. -/

namespace Sys2Proof.Machine

@[simp] theorem Dev.ctx_setCtx (d : Dev) (x : Nat) (a : Core) : (d.setCtx x a).ctx x = a := by
  simp [Dev.setCtx, Dev.ctx]

@[simp] theorem Dev.setCtx_setCtx (d : Dev) (x : Nat) (a b : Core) : (d.setCtx x a).setCtx x b = d.setCtx x b := by
  simp [Dev.setCtx]

@[simp] theorem Dev.core_setCore (d : Dev) (e : CoreId) (a : Core) : (d.setCore e a).core e = a := by
  cases e <;> simp [Dev.setCore, Dev.core, Dev.setEsc]

@[simp] theorem Dev.setCore_setCore (d : Dev) (e : CoreId) (a b : Core) : (d.setCore e a).setCore e b = d.setCore e b := by
  cases e <;> simp [Dev.setCore, Dev.setEsc]

@[simp] theorem Core.retire_n (c : Core) : c.retire.n = c.n + 1 := by
  unfold Core.retire; dsimp only; split <;> rfl

@[simp] theorem Core.retire_pend (c : Core) : c.retire.pend = c.pend := by
  unfold Core.retire; dsimp only; split <;> rfl

@[simp] theorem Core.apply_pend (c : Core) (w : PendW) : (c.apply w).pend = c.pend := by
  unfold Core.apply Core.setD Core.setX; repeat' split
  all_goals rfl

@[simp] theorem Core.apply_n (c : Core) (w : PendW) : (c.apply w).n = c.n := by
  unfold Core.apply Core.setD Core.setX; repeat' split
  all_goals rfl

@[simp] theorem Core.apply_pc (c : Core) (w : PendW) : (c.apply w).pc = c.pc := by
  unfold Core.apply Core.setD Core.setX; repeat' split
  all_goals rfl

/-- A delayed write of a data register, a pointer register, lc or FLAGS as it takes effect. -/
theorem Core.apply_d (c : Core) {r : Nat} (h : r < 32) (v m : Word) (n : Nat) : c.apply ⟨r, v, m, n⟩ = c.setD r v := by
  simp [Core.apply, h]

theorem Core.apply_x (c : Core) {x : Nat} (h : x < 32) (v m : Word) (n : Nat) : c.apply ⟨32 + x, v, m, n⟩ = c.setX x v := by
  simp [Core.apply, show 32 + x < 64 by omega]

theorem Core.apply_lc (c : Core) (v m : Word) (n : Nat) : c.apply ⟨64, v, m, n⟩ = { c with lc := v } := rfl

theorem Core.apply_flags (c : Core) (v m : Word) (n : Nat) : c.apply ⟨65, v, m, n⟩ =
    { c with flags := (c.flags &&& ~~~(m.truncate 6)) ||| ((v &&& m).truncate 6) } := rfl

/-- A write to Efyon-S takes effect at once; one to a context joins the writes to come. -/
theorem Dev.put_main (d : Dev) (n r : Nat) (v : Word) (k : Nat) (m : Word) :
    d.put .main n r v k m = d.setCore .main ((d.core .main).apply ⟨r, v, m, 0⟩) := rfl

theorem Dev.put_seq (d : Dev) (x : Ctx) (n r : Nat) (v : Word) (k : Nat) (m : Word) :
    d.put (.seq x) n r v k m = d.setCore (.seq x) { d.core (.seq x) with pend := (d.core (.seq x)).pend ++ [⟨r, v, m, n + k⟩] } :=
  rfl

/-- With no result still to come, nothing settles. -/
theorem Core.settle_nil {c : Core} (h : c.pend = []) : c.settle = c := by
  cases c; simp_all [Core.settle]

/-- An instruction that a context can issue runs on the registers before it, and its event follows. -/
theorem State.issue_seq {s : State} {x : Ctx} {b : Bool} (op : Op) (h : s.CanIssue (.seq x) b) (hok : op.ok = true)
    (hi : b = true → op.imm = true) (hj : op.jump = false ∨ (s.dev.ctx x.val).slot = none)
    (hr : op.noRep = false ∨ (s.dev.ctx x.val).rep = none) :
    s.issue (.seq x) op =
      let c := s.dev.ctx x.val
      let o := op.run (.seq x) c { s with dev := s.dev.stepped (.seq x) }
      let d := (o.s.dev.ctxSettle x.val).seqEvent x.val c.unitAt o.ev
      State.finish { o.s with dev := if o.ill then d.seqIll x.val c.unitAt else d } := by
  obtain ⟨h1, h2, h3, h4, h5, h6, h7⟩ := h
  have hb : op.bad (s.dev.ctx x.val) = false := by
    simp only [Op.bad, hok]
    cases hx : (s.dev.ctx x.val).imx <;> cases hs : (s.dev.ctx x.val).slot <;> simp_all [Dev.core]
  have hil : (op.noRep && (s.dev.ctx x.val).rep.isSome) = false := by rcases hr with hr | hr <;> simp [hr]
  have hrep : ((s.dev.ctx x.val).rep = some 0) = False := by simpa [Dev.core] using h4
  have h1' : s.dev.alive = true := h1
  simp only [State.issue, State.issueRaw, h1', h2, Bool.and_self, if_true]
  congr 1
  unfold State.seqIssue
  have h3' : (s.dev.ctx x.val).skip = false := h3
  have h6' : s.dev.seqFetchBad x.val (s.dev.ctx x.val).pc = false := h6
  simp [h6', h3', hb, hil, hrep, Dev.stepped, Dev.counted, Dev.setCore, Dev.core]
  rfl

/-- An instruction that Efyon-S can issue runs on the registers before it, and its event follows. -/
theorem State.issue_main {s : State} {b : Bool} (op : Op) (h : s.CanIssue .main b) (hok : op.ok = true)
    (hi : b = true → op.imm = true) (hj : op.jump = false ∨ s.dev.esc.core.slot = none)
    (hr : op.noRep = false ∨ s.dev.esc.core.rep = none) :
    s.issue .main op =
      let c := s.dev.esc.core
      let o := op.run .main c { s with dev := s.dev.stepped .main }
      State.finish (if o.ill then s.exception 1 0 0 { pc := c.unitAt, rep := c.left, slot := c.slot }
        else s.mainEvent c o) := by
  obtain ⟨h1, h2, h3, h4, h5, h6, h7, h8⟩ := h
  have hb : op.bad s.dev.esc.core = false := by
    simp only [Op.bad, hok]
    cases hx : s.dev.esc.core.imx <;> cases hs : s.dev.esc.core.slot <;> simp_all [Dev.core]
  have hil : (op.noRep && s.dev.esc.core.rep.isSome) = false := by rcases hr with hr | hr <;> simp [hr]
  have hrep : (s.dev.esc.core.rep = some 0) = False := by simpa [Dev.core] using h4
  have h1' : s.dev.alive = true := h1
  simp only [State.issue, State.issueRaw, h1', h2, Bool.and_self, if_true]
  congr 1
  unfold State.mainIssue
  have h3' : s.dev.esc.core.skip = false := h3
  have h7' : s.mainFetchBad s.dev.esc.core.pc = false := h7
  have he : s.enterDone = s := by simp [State.enterDone, h6]
  simp [he, h7', h3', hb, hil, hrep, Dev.stepped, Dev.counted, Dev.setCore, Dev.core]
  rfl

/-! ### Instructions that only write registers -/

/-- Results that are all due settle in their order. -/
theorem Core.settle_all (c : Core) (l : List PendW) (h : ∀ w ∈ l, w.due ≤ c.n) :
    ({ c with pend := l } : Core).settle = l.foldl Core.apply { c with pend := [] } := by
  have h1 : l.filter (fun w => decide (w.due ≤ c.n)) = l := List.filter_eq_self.mpr (fun w hw => by simp [h w hw])
  have h2 : l.filter (fun w => !decide (w.due ≤ c.n)) = [] := List.filter_eq_nil_iff.mpr (fun w hw => by simp [h w hw])
  simp only [Core.settle, h1, h2]

/-- Results of which none is due stay. -/
theorem Core.settle_none (c : Core) (h : ∀ w ∈ c.pend, c.n < w.due) : c.settle = c := by
  have h1 : c.pend.filter (fun w => decide (w.due ≤ c.n)) = [] :=
    List.filter_eq_nil_iff.mpr (fun w hw => by simpa using h w hw)
  have h2 : c.pend.filter (fun w => !decide (w.due ≤ c.n)) = c.pend :=
    List.filter_eq_self.mpr (fun w hw => by simpa using h w hw)
  simp only [Core.settle, h1, h2, List.foldl_nil]

/-- Writes one after another on Efyon-S: each takes effect at once. -/
theorem State.puts_main (c : Core) (k : Nat) (ws : List (Nat × Word × Word)) : ∀ s : State,
    ws.foldl (fun t w => t.put .main c w.1 w.2.1 k w.2.2) s =
      { s with dev := s.dev.setCore .main ((ws.map (fun w => (⟨w.1, w.2.1, w.2.2, c.n + k⟩ : PendW))).foldl Core.apply
        (s.dev.core .main)) } := by
  induction ws with
  | nil => intro s; rfl
  | cons w ws ih =>
    intro s
    rw [List.foldl_cons, ih]
    simp only [List.map_cons, List.foldl_cons, State.put, Dev.put_main, Dev.core_setCore, Dev.setCore_setCore]
    rfl

/-- Writes one after another on Efyon-L: they wait in their order. -/
theorem State.puts_seq (x : Ctx) (c : Core) (k : Nat) (ws : List (Nat × Word × Word)) : ∀ s : State,
    ws ≠ [] → ws.foldl (fun t w => t.put (.seq x) c w.1 w.2.1 k w.2.2) s =
      { s with dev := s.dev.setCore (.seq x) { s.dev.core (.seq x) with
        pend := (s.dev.core (.seq x)).pend ++ ws.map (fun w => (⟨w.1, w.2.1, w.2.2, c.n + k⟩ : PendW)) } } := by
  induction ws with
  | nil => intro s h; exact absurd rfl h
  | cons w ws ih =>
    intro s _
    rw [List.foldl_cons]
    cases ws with
    | nil => simp [State.put, Dev.put_seq]
    | cons w' ws =>
      rw [ih _ (by simp)]
      simp [State.put, Dev.put_seq]

/-- A jump of no instruction brings the pc to a token. -/
theorem State.land_id {s : State} (h : s.dev.esc.core.pc.toNat < 0xFFFFFF00) (k : Nat) : State.land k s = s := by
  have h1 : s.dev.esc.core.pc ≠ normalToken := by intro e; rw [e] at h; revert h; decide
  have h2 : s.dev.esc.core.pc ≠ fastToken := by intro e; rw [e] at h; revert h; decide
  cases k <;> simp [State.land, h1, h2]

theorem Core.applies_pc (l : List PendW) : ∀ c : Core, (l.foldl Core.apply c).pc = c.pc := by
  induction l with
  | nil => intro c; rfl
  | cons w l ih => intro c; rw [List.foldl_cons, ih, Core.apply_pc]

/-- An instruction that only writes registers, all at one distance. -/
theorem State.issue_gets {s : State} {b : Bool} (e : CoreId) (op : Op) (h : s.CanIssue e b) (hok : op.ok = true)
    (hi : b = true → op.imm = true) (hj : op.jump = false) (hr : op.noRep = false) (k : Nat) (hk : 1 ≤ k)
    (ws : List (Nat × Word × Word)) (hw : ws ≠ [])
    (hrun : ∀ t, op.run e (s.dev.core e) t = { s := ws.foldl (fun t w => t.put e (s.dev.core e) w.1 w.2.1 k w.2.2) t }) :
    s.issue e op = s.coreIs e ((s.dev.core e).retire.gets e (s.dev.core e).n k ws) := by
  cases e with
  | main =>
    refine (State.issue_main op h hok hi (.inl hj) (.inl hr)).trans ?_
    have h8 := h.2.2.2.2.2.2.2
    have hr' : ∀ t, op.run .main s.dev.esc.core t = _ := hrun
    simp only [hr', State.puts_main, Bool.false_eq_true, if_false, State.mainEvent, Dev.stepped, Dev.core_setCore,
      Dev.setCore_setCore]
    rw [State.land_id]
    · rfl
    · show ((List.foldl Core.apply _ _ : Core).pc).toNat < _
      rw [Core.applies_pc]
      exact h8
  | seq x =>
    refine (State.issue_seq op h hok hi (.inl hj) (.inl hr)).trans ?_
    have h7 := h.2.2.2.2.2.2
    have hp : (s.dev.core (.seq x)).retire.pend = [] := by rw [Core.retire_pend]; exact h7
    have hr' : ∀ t, op.run (.seq x) (s.dev.ctx x.val) t = _ := hrun
    simp only [hr', State.puts_seq _ _ _ _ _ hw, Bool.false_eq_true, if_false, State.coreIs, Dev.stepped, Dev.core_setCore,
      Dev.setCore_setCore, hp, List.nil_append]
    congr 2
    show (Dev.setCtx _ _ _).ctxSettle _ = _
    rw [Dev.ctxSettle, Dev.ctx_setCtx, Dev.setCtx_setCtx]
    show _ = Dev.setCtx _ _ _
    congr 1
    simp only [Core.gets, hp, List.nil_append]
    split
    · rename_i h1
      rw [Core.settle_all _ _ (by
        intro w hw
        obtain ⟨y, _, rfl⟩ := List.mem_map.mp hw
        simp [h1])]
      congr 1
      show { (s.dev.core (.seq x)).retire with pend := [] } = _
      rw [← hp]
    · rename_i h1
      refine Core.settle_none _ (fun w hw => ?_)
      obtain ⟨y, _, rfl⟩ := List.mem_map.mp hw
      simp only [Core.retire_n]
      omega

end Sys2Proof.Machine
end

