-- ==== Sys2Proof/Laws/Registers.lean ====
section
/-! SUPPORT. What a write or a read of a command register comes to: one lemma per register, beside those that lead there. -/

namespace Sys2Proof.Machine

/-! ### Paths -/

/-- A command of a path that reaches the registers acts. -/
theorem State.viaPath_of {s : State} {p : Path} (h : s.Via p) (f : Dev → Dev) : s.viaPath p f = s.act f := by
  simp [State.viaPath, h.1]

theorem Dev.busWrite_reg (d : Dev) {p : Path} (hp : p = .host ∨ p = .mgmt ∨ p = .efyonS) {a : Nat} (h : a < 0x2000000)
    (v : Word) : d.busWrite p a v = d.regWrite p a v := by
  rw [Dev.busWrite, if_pos h]
  rcases hp with rfl | rfl | rfl <;> rfl

theorem State.write_of {s : State} {p : Path} (h : s.Via p) {a : Nat} (ha : a < 0x2000000) (v : Word) :
    s.write p a v = s.act (fun d => d.regWrite p a v) := by
  rw [State.write, State.viaPath_of h]
  simp only [Dev.busWrite_reg _ h.2 ha]

theorem State.read_of {s : State} {p : Path} (h : s.Via p) {a : Nat} (ha : a < 0x2000000) :
    s.read p a = s.act (fun d => let r := d.regRead p a; r.1.setPath p { r.1.path p with ans := r.2 }) := by
  rw [State.read, State.viaPath_of h]
  simp only [Dev.busRead, if_pos ha]

/-! ### From a register to its command -/

/-- A register of a page, outside its header. -/
theorem Dev.regWrite_cmd (d : Dev) (p : Path) {a : Nat} (v : Word) (hs : slotOf a = none) (hp : isPage (a - a % 0x1000) = true)
    (h1 : a < 0x510000) (h2 : a / 0x1000 ≠ 0x16) (h3 : 0x40 ≤ a % 0x1000) (h4 : a % 0x1000 < 0x800) :
    d.regWrite p a v = (if a < 0x100000 then d.deviceCmd p a v else if a < 0x400000 then d.campCmd a v else none).getD
      (d.plainWrite p a v) := by
  unfold Dev.regWrite Dev.regCmd
  simp only [hs, hp]
  rw [if_neg (by omega), if_neg h2, if_neg (by simp), if_neg (by omega), if_neg (by omega)]

/-- A register of an applied slot, behind its first two words. -/
theorem Dev.regWrite_slot (d : Dev) (p : Path) {a : Nat} {u : Un} (v : Word) (hs : slotOf a = some u) (h1 : a < 0x510000)
    (h2 : isStaged a = false) (h3 : a - u.addr ≠ 0) (h4 : a - u.addr ≠ 4) :
    d.regWrite p a v = (d.slotCmd a v).getD (d.plainWrite p a v) := by
  unfold Dev.regWrite
  simp only [hs, unstaged, h2]
  rw [if_neg (by omega)]
  simp only [Bool.false_eq_true, if_false]
  rw [if_neg h3, if_neg h4]

theorem Dev.regWrite_timer (d : Dev) (p : Path) (t : Fin 32) (v : Word) : d.regWrite p (tmAt t.val + 0x3C) v = d.tmCmd t.val v := by
  have hs : ∀ t : Fin 32, slotOf (tmAt t.val + 0x3C) = some (.timer t.val) := by decide
  have h1 : ∀ t : Fin 32, tmAt t.val + 0x3C < 0x510000 ∧ isStaged (tmAt t.val + 0x3C) = false := by decide
  rw [Dev.regWrite_slot d p v (hs t) (h1 t).1 (h1 t).2 (by show tmAt t.val + 0x3C - tmAt t.val ≠ 0; omega)
    (by show tmAt t.val + 0x3C - tmAt t.val ≠ 4; omega), Dev.slotCmd, hs t]
  simp

theorem slotOf_float (i : Fin 2048) : slotOf (flAt i.val + 0x74) = some (.float i.val) := by
  have h := i.isLt
  have hd : i.val / 16 * 0x1000 + i.val % 16 * 0x80 < 0x7F800 := by omega
  have hm : (0x400000 + i.val / 16 * 0x1000 + i.val % 16 * 0x80 + 0x74) % 0x1000 = i.val % 16 * 0x80 + 0x74 := by omega
  have hm2 : (i.val % 16 * 0x80 + 0x74) % 0x800 = i.val % 16 * 0x80 + 0x74 := by omega
  unfold slotOf
  simp only [flAt, Un.addr, hm, hm2]
  rw [if_pos (by omega)]
  have he : 0x400000 + i.val / 16 * 0x1000 + i.val % 16 * 0x80 + 0x74 - (i.val % 16 * 0x80 + 0x74) + (i.val % 16 * 0x80 + 0x74) -
      (i.val % 16 * 0x80 + 0x74) % 0x80 = 0x400000 + i.val / 16 * 0x1000 + i.val % 16 * 0x80 := by omega
  rw [he]
  unfold Un.ofAddr
  rw [if_neg (by omega), if_neg (by omega), if_neg (by omega), if_pos (by omega)]
  congr 2
  omega

theorem Dev.regWrite_float (d : Dev) (p : Path) (i : Fin 2048) (v : Word) :
    d.regWrite p (flAt i.val + 0x74) v = d.flCmd i.val v := by
  have h := i.isLt
  have hs := slotOf_float i
  have ha : flAt i.val = 0x400000 + i.val / 16 * 0x1000 + i.val % 16 * 0x80 := rfl
  rw [Dev.regWrite_slot d p v hs (by omega) (by unfold isStaged; simp; omega)
    (by show flAt i.val + 0x74 - flAt i.val ≠ 0; omega) (by show flAt i.val + 0x74 - flAt i.val ≠ 4; omega), Dev.slotCmd, hs]
  simp

theorem slotOf_outlet : ∀ o : Fin 16, ∀ k ∈ [0x40, 0x50], slotOf (olAt o.val + k) = some (.outlet o.val) ∧
    olAt o.val + k < 0x510000 ∧ isStaged (olAt o.val + k) = false := by decide

theorem Dev.regWrite_outlet_tail (d : Dev) (p : Path) (o : Fin 16) (v : Word) :
    d.regWrite p (olAt o.val + 0x40) v = d.olTailWrite o.val v := by
  have hs := slotOf_outlet o 0x40 (by simp)
  rw [Dev.regWrite_slot d p v hs.1 hs.2.1 hs.2.2 (by show olAt o.val + 0x40 - olAt o.val ≠ 0; omega)
    (by show olAt o.val + 0x40 - olAt o.val ≠ 4; omega), Dev.slotCmd, hs.1]
  simp

theorem Dev.regWrite_outlet_cmd (d : Dev) (p : Path) (o : Fin 16) (v : Word) :
    d.regWrite p (olAt o.val + 0x50) v = d.olCmd o.val v := by
  have hs := slotOf_outlet o 0x50 (by simp)
  rw [Dev.regWrite_slot d p v hs.1 hs.2.1 hs.2.2 (by show olAt o.val + 0x50 - olAt o.val ≠ 0; omega)
    (by show olAt o.val + 0x50 - olAt o.val ≠ 4; omega), Dev.slotCmd, hs.1]
  simp

/-- A queue's ports. -/
theorem Dev.regWrite_port (d : Dev) (p : Path) {a : Nat} (v : Word) (h : 0x510000 ≤ a)
    (h2 : a < 0x514000 ∨ 0x520000 ≤ a ∧ a < 0x524000) : d.regWrite p a v = d.portWrite p a v := by
  simp only [Dev.regWrite]
  rw [if_pos h, if_pos h2]

/-- A channel's command register. -/
theorem Dev.regWrite_cal (d : Dev) (p : Path) (n : Fin 512) (v : Word) :
    d.regWrite p (chanPage n.val + 0xA8) v = d.calStart n.val (fld v 1 0) := by
  have h := n.isLt
  have ha : chanPage n.val = 0x200000 + n.val * 0x1000 := rfl
  have hp : isPage (chanPage n.val) = true := by
    unfold isPage pageId
    rw [if_neg (by omega), if_neg (by omega), if_pos (by omega)]
    simp only [Bool.and_eq_true, bne_iff_ne, ne_eq, beq_iff_eq]
    omega
  have hm : (chanPage n.val + 0xA8) % 0x1000 = 0xA8 := by omega
  have hs : slotOf (chanPage n.val + 0xA8) = none := by
    unfold slotOf
    simp only [hm]
    rw [if_neg (by omega), if_neg (by omega), if_neg (by omega)]
  have hb : chanPage n.val + 0xA8 - (chanPage n.val + 0xA8) % 0x1000 = chanPage n.val := by omega
  rw [Dev.regWrite_cmd d p v hs (by rw [hb]; exact hp) (by omega) (by omega) (by omega) (by omega), if_neg (by omega),
    if_pos (by omega)]
  unfold Dev.campCmd
  simp only [hm]
  rw [if_neg (by omega), if_pos ⟨by omega, trivial⟩, show (chanPage n.val + 0xA8 - 0x200000) / 0x1000 = n.val by omega]
  rfl

/-! ### Command registers of the device pages -/

theorem Dev.regWrite_pitch (d : Dev) (p : Path) (k : Fin 17) (v : Word) :
    d.regWrite p (0x1100 + 0x20 * k.val) v = d.pitchWrite p (0x1100 + 0x20 * k.val) v := by
  have h : ∀ k : Fin 17, slotOf (0x1100 + 0x20 * k.val) = none ∧
      isPage (0x1100 + 0x20 * k.val - (0x1100 + 0x20 * k.val) % 0x1000) = true := by decide
  have hk := k.isLt
  rw [Dev.regWrite_cmd d p v (h k).1 (h k).2 (by omega) (by omega) (by omega) (by omega), if_pos (by omega)]
  unfold Dev.deviceCmd
  rw [if_pos (by omega)]
  rfl

theorem Dev.regWrite_pwrReq (d : Dev) (p : Path) (v : Word) : d.regWrite p 0x2044 v = d.pwrReqWrite p v := by
  rw [Dev.regWrite_cmd d p v (by decide) (by decide) (by decide) (by decide) (by decide) (by decide)]; simp [Dev.deviceCmd]
theorem Dev.regWrite_reset (d : Dev) (p : Path) (v : Word) : d.regWrite p 0x2050 v = d.resetWrite p v := by
  rw [Dev.regWrite_cmd d p v (by decide) (by decide) (by decide) (by decide) (by decide) (by decide)]; simp [Dev.deviceCmd]
theorem Dev.regWrite_compassCmd (d : Dev) (p : Path) (v : Word) : d.regWrite p 0x3074 v = d.compassCmd v := by
  rw [Dev.regWrite_cmd d p v (by decide) (by decide) (by decide) (by decide) (by decide) (by decide)]; simp [Dev.deviceCmd]
theorem Dev.regWrite_weirCmd (d : Dev) (p : Path) (v : Word) : d.regWrite p 0xA080 v = d.weirCmd v := by
  rw [Dev.regWrite_cmd d p v (by decide) (by decide) (by decide) (by decide) (by decide) (by decide)]; simp [Dev.deviceCmd]
theorem Dev.regWrite_doorbell (d : Dev) (p : Path) (v : Word) : d.regWrite p 0xC040 v = d.doorbell v := by
  rw [Dev.regWrite_cmd d p v (by decide) (by decide) (by decide) (by decide) (by decide) (by decide)]; simp [Dev.deviceCmd]
theorem Dev.regWrite_srcCmd (d : Dev) (p : Path) (v : Word) : d.regWrite p 0xC044 v = d.srcCmd v := by
  rw [Dev.regWrite_cmd d p v (by decide) (by decide) (by decide) (by decide) (by decide) (by decide)]; simp [Dev.deviceCmd]
theorem Dev.regWrite_completeS (d : Dev) (p : Path) (v : Word) : d.regWrite p 0xC04C v = d.complete p false v := by
  rw [Dev.regWrite_cmd d p v (by decide) (by decide) (by decide) (by decide) (by decide) (by decide)]; simp [Dev.deviceCmd]
theorem Dev.regWrite_completeH (d : Dev) (p : Path) (v : Word) : d.regWrite p 0xC054 v = d.complete p true v := by
  rw [Dev.regWrite_cmd d p v (by decide) (by decide) (by decide) (by decide) (by decide) (by decide)]; simp [Dev.deviceCmd]
theorem Dev.regWrite_qcmd (d : Dev) (p : Path) (v : Word) : d.regWrite p 0x10060 v = d.qcmd v := by
  rw [Dev.regWrite_cmd d p v (by decide) (by decide) (by decide) (by decide) (by decide) (by decide)]; simp [Dev.deviceCmd]
theorem Dev.regWrite_ocTail (d : Dev) (p : Path) (v : Word) : d.regWrite p 0x14044 v = d.ocTail v := by
  rw [Dev.regWrite_cmd d p v (by decide) (by decide) (by decide) (by decide) (by decide) (by decide)]; simp [Dev.deviceCmd]
theorem Dev.regWrite_atnRaise (d : Dev) (p : Path) (v : Word) : d.regWrite p 0x1805C v = d.atnRaise p v := by
  rw [Dev.regWrite_cmd d p v (by decide) (by decide) (by decide) (by decide) (by decide) (by decide)]; simp [Dev.deviceCmd]
theorem Dev.regWrite_cwCmd (d : Dev) (p : Path) (v : Word) : d.regWrite p 0x19048 v = d.cwPost 0x48 v := by
  rw [Dev.regWrite_cmd d p v (by decide) (by decide) (by decide) (by decide) (by decide) (by decide)]; simp [Dev.deviceCmd]
theorem Dev.regWrite_tblData (d : Dev) (p : Path) (v : Word) : d.regWrite p 0x1907C v = d.cwPost 0x7C v := by
  rw [Dev.regWrite_cmd d p v (by decide) (by decide) (by decide) (by decide) (by decide) (by decide)]; simp [Dev.deviceCmd]
theorem Dev.regWrite_fieldCmd (d : Dev) (p : Path) (v : Word) : d.regWrite p 0x1B044 v = d.fieldCmd v := by
  rw [Dev.regWrite_cmd d p v (by decide) (by decide) (by decide) (by decide) (by decide) (by decide)]; simp [Dev.deviceCmd]
theorem Dev.regWrite_stCmd (d : Dev) (p : Path) (v : Word) : d.regWrite p 0x1C084 v = d.stCmd v := by
  rw [Dev.regWrite_cmd d p v (by decide) (by decide) (by decide) (by decide) (by decide) (by decide)]; simp [Dev.deviceCmd]
theorem Dev.regWrite_fwCmd (d : Dev) (p : Path) (v : Word) : d.regWrite p 0x1C088 v =
    d.fwCmd p v (Config.headerOk (d.rd 0x1C08C).toNat d.now.toNat) (Config.restartNs d.now.toNat) := by
  rw [Dev.regWrite_cmd d p v (by decide) (by decide) (by decide) (by decide) (by decide) (by decide)]; simp [Dev.deviceCmd]
theorem Dev.regWrite_wdogKick (d : Dev) (p : Path) (v : Word) : d.regWrite p 0x1D048 v = d.wdogKick p v := by
  rw [Dev.regWrite_cmd d p v (by decide) (by decide) (by decide) (by decide) (by decide) (by decide)]; simp [Dev.deviceCmd]

/-- A word of a bitmap. -/
theorem Dev.regWrite_bitmap (d : Dev) (p : Path) (b : IcBitmap) (w : Fin 32) (v : Word) :
    d.regWrite p ((match b with | .pend => 0xC100 | .enS => 0xC180 | .enH => 0xC200 | .stormed => 0xC380) + 4 * w.val) v =
      d.bitmapWrite b w.val v := by
  have hw := w.isLt
  have h : ∀ (b : Fin 4) (w : Fin 32), slotOf ([0xC100, 0xC180, 0xC200, 0xC380].getD b.val 0 + 4 * w.val) = none := by decide
  cases b
  all_goals
    simp only []
    rw [Dev.regWrite_cmd d p v (by first | exact h 0 w | exact h 1 w | exact h 2 w | exact h 3 w)
      (by rw [show ∀ x, 0xC100 ≤ x ∧ x < 0xC400 → x - x % 0x1000 = 0xC000 by omega]
          · decide
          · omega) (by omega) (by omega) (by omega) (by omega), if_pos (by omega)]
    unfold Dev.deviceCmd
    rw [if_neg (by omega)]
  · rw [if_pos (by omega)]
    simp
  · rw [if_neg (by omega), if_pos (by omega)]
    simp
  · rw [if_neg (by omega), if_neg (by omega), if_pos (by omega)]
    simp
  · rw [if_neg (by omega), if_neg (by omega), if_neg (by omega), if_pos (by omega)]
    simp

/-! ### Headers -/

/-- A header register of a page. -/
theorem Dev.regWrite_header (d : Dev) (p : Path) {page o : Nat} (v : Word) (hp : isPage page = true) (h : page < 0x510000)
    (hs : slotOf (page + o) = none) (h2 : page ≠ 0x16000) (ho : o < 0x40 ∨ 0x800 ≤ o ∧ o < 0x840) :
    d.regWrite p (page + o) v = d.headerWrite p page o v := by
  have hm : page % 0x1000 = 0 := by
    unfold isPage at hp
    simp only [Bool.and_eq_true, beq_iff_eq] at hp
    exact hp.2
  have h0 : (page + o) % 0x1000 = o := by omega
  have h1 : page + o - o = page := by omega
  simp only [Dev.regWrite, hs, h0, h1]
  rw [if_neg (by omega), if_neg (by omega), if_neg (by simp [hp]), if_pos ho]

/-! ### Reads -/

/-- What a register of a device page shows. -/
theorem Dev.view_device (d : Dev) (p : Path) {a : Nat} (hs : slotOf a = none) (hp : isPage (a - a % 0x1000) = true)
    (h1 : a < 0x100000) (h2 : a / 0x1000 ≠ 0x16) (h3 : 0x40 ≤ a % 0x1000) (h4 : a % 0x1000 < 0x800) :
    d.view p a = (d.rd a &&& readMask a) ||| d.deviceView p a := by
  unfold Dev.view
  simp only [hs, hp]
  rw [if_pos (by omega), if_neg h2, if_neg (by simp), if_neg (by omega), if_neg (by omega), if_neg (by omega), if_pos h1]

theorem Dev.view_ltimeLo (d : Dev) (p : Path) : d.view p 0x2060 = lo32 d.now := by
  rw [Dev.view_device d p (by decide) (by decide) (by decide) (by decide) (by decide) (by decide), show readMask 0x2060 = 0 by decide]
  simp [Dev.deviceView, Dev.clkView]

theorem Dev.view_ltimeHi (d : Dev) (p : Path) : d.view p 0x2064 = hi32 d.now := by
  rw [Dev.view_device d p (by decide) (by decide) (by decide) (by decide) (by decide) (by decide), show readMask 0x2064 = 0 by decide]
  simp [Dev.deviceView, Dev.clkView]

theorem Dev.view_phFrac (d : Dev) (p : Path) : d.view p 0x3060 = d.phNow.1 := by
  rw [Dev.view_device d p (by decide) (by decide) (by decide) (by decide) (by decide) (by decide), show readMask 0x3060 = 0 by decide]
  simp [Dev.deviceView, Dev.compassView]

@[simp] theorem Dev.path_setPath (d : Dev) (p : Path) (x : PathDyn) : (d.setPath p x).path p = x := by
  simp [Dev.setPath, Dev.path]

@[simp] theorem Dev.setPath_setPath (d : Dev) (p : Path) (x y : PathDyn) : (d.setPath p x).setPath p y = d.setPath p y := by
  simp [Dev.setPath]

end Sys2Proof.Machine
end

