-- ==== Sys2Proof/Laws/State.lean ====
section
/-! SUPPORT. State through its updates: for each operation that writes one part of the device, that part after it and every
other field as before; for the keyed parts, the entry written and the others. -/

namespace Sys2Proof.Machine

/-! ### wr -/

@[simp] theorem Dev.wr_units (d : Dev) (a : Nat) (w : Word) : (d.wr a w).units = d.units := rfl
@[simp] theorem Dev.wr_gens (d : Dev) (a : Nat) (w : Word) : (d.wr a w).gens = d.gens := rfl
@[simp] theorem Dev.wr_settling (d : Dev) (a : Nat) (w : Word) : (d.wr a w).settling = d.settling := rfl
@[simp] theorem Dev.wr_pwr (d : Dev) (a : Nat) (w : Word) : (d.wr a w).pwr = d.pwr := rfl
@[simp] theorem Dev.wr_pitch (d : Dev) (a : Nat) (w : Word) : (d.wr a w).pitch = d.pitch := rfl
@[simp] theorem Dev.wr_cps (d : Dev) (a : Nat) (w : Word) : (d.wr a w).cps = d.cps := rfl
@[simp] theorem Dev.wr_ic (d : Dev) (a : Nat) (w : Word) : (d.wr a w).ic = d.ic := rfl
@[simp] theorem Dev.wr_fab (d : Dev) (a : Nat) (w : Word) : (d.wr a w).fab = d.fab := rfl
@[simp] theorem Dev.wr_host (d : Dev) (a : Nat) (w : Word) : (d.wr a w).host = d.host := rfl
@[simp] theorem Dev.wr_stove (d : Dev) (a : Nat) (w : Word) : (d.wr a w).stove = d.stove := rfl
@[simp] theorem Dev.wr_chans (d : Dev) (a : Nat) (w : Word) : (d.wr a w).chans = d.chans := rfl
@[simp] theorem Dev.wr_streams (d : Dev) (a : Nat) (w : Word) : (d.wr a w).streams = d.streams := rfl
@[simp] theorem Dev.wr_reeds (d : Dev) (a : Nat) (w : Word) : (d.wr a w).reeds = d.reeds := rfl
@[simp] theorem Dev.wr_floats (d : Dev) (a : Nat) (w : Word) : (d.wr a w).floats = d.floats := rfl
@[simp] theorem Dev.wr_weir (d : Dev) (a : Nat) (w : Word) : (d.wr a w).weir = d.weir := rfl
@[simp] theorem Dev.wr_timers (d : Dev) (a : Nat) (w : Word) : (d.wr a w).timers = d.timers := rfl
@[simp] theorem Dev.wr_tins (d : Dev) (a : Nat) (w : Word) : (d.wr a w).tins = d.tins := rfl
@[simp] theorem Dev.wr_tinMerge (d : Dev) (a : Nat) (w : Word) : (d.wr a w).tinMerge = d.tinMerge := rfl
@[simp] theorem Dev.wr_ctxs (d : Dev) (a : Nat) (w : Word) : (d.wr a w).ctxs = d.ctxs := rfl
@[simp] theorem Dev.wr_stops (d : Dev) (a : Nat) (w : Word) : (d.wr a w).stops = d.stops := rfl
@[simp] theorem Dev.wr_steps (d : Dev) (a : Nat) (w : Word) : (d.wr a w).steps = d.steps := rfl
@[simp] theorem Dev.wr_esc (d : Dev) (a : Nat) (w : Word) : (d.wr a w).esc = d.esc := rfl
@[simp] theorem Dev.wr_cw (d : Dev) (a : Nat) (w : Word) : (d.wr a w).cw = d.cw := rfl
@[simp] theorem Dev.wr_mgmt (d : Dev) (a : Nat) (w : Word) : (d.wr a w).mgmt = d.mgmt := rfl
@[simp] theorem Dev.wr_vl (d : Dev) (a : Nat) (w : Word) : (d.wr a w).vl = d.vl := rfl
@[simp] theorem Dev.wr_health (d : Dev) (a : Nat) (w : Word) : (d.wr a w).health = d.health := rfl
@[simp] theorem Dev.wr_mon (d : Dev) (a : Nat) (w : Word) : (d.wr a w).mon = d.mon := rfl
@[simp] theorem Dev.wr_ue (d : Dev) (a : Nat) (w : Word) : (d.wr a w).ue = d.ue := rfl
@[simp] theorem Dev.wr_lbUe (d : Dev) (a : Nat) (w : Word) : (d.wr a w).lbUe = d.lbUe := rfl
@[simp] theorem Dev.wr_holds (d : Dev) (a : Nat) (w : Word) : (d.wr a w).holds = d.holds := rfl

/-! ### setUnit -/

@[simp] theorem Dev.setUnit_regs (d : Dev) (u : Un) (x : UnitDyn) : (d.setUnit u x).regs = d.regs := rfl
@[simp] theorem Dev.setUnit_gens (d : Dev) (u : Un) (x : UnitDyn) : (d.setUnit u x).gens = d.gens := rfl
@[simp] theorem Dev.setUnit_settling (d : Dev) (u : Un) (x : UnitDyn) : (d.setUnit u x).settling = d.settling := rfl
@[simp] theorem Dev.setUnit_pwr (d : Dev) (u : Un) (x : UnitDyn) : (d.setUnit u x).pwr = d.pwr := rfl
@[simp] theorem Dev.setUnit_pitch (d : Dev) (u : Un) (x : UnitDyn) : (d.setUnit u x).pitch = d.pitch := rfl
@[simp] theorem Dev.setUnit_cps (d : Dev) (u : Un) (x : UnitDyn) : (d.setUnit u x).cps = d.cps := rfl
@[simp] theorem Dev.setUnit_ic (d : Dev) (u : Un) (x : UnitDyn) : (d.setUnit u x).ic = d.ic := rfl
@[simp] theorem Dev.setUnit_fab (d : Dev) (u : Un) (x : UnitDyn) : (d.setUnit u x).fab = d.fab := rfl
@[simp] theorem Dev.setUnit_host (d : Dev) (u : Un) (x : UnitDyn) : (d.setUnit u x).host = d.host := rfl
@[simp] theorem Dev.setUnit_stove (d : Dev) (u : Un) (x : UnitDyn) : (d.setUnit u x).stove = d.stove := rfl
@[simp] theorem Dev.setUnit_chans (d : Dev) (u : Un) (x : UnitDyn) : (d.setUnit u x).chans = d.chans := rfl
@[simp] theorem Dev.setUnit_streams (d : Dev) (u : Un) (x : UnitDyn) : (d.setUnit u x).streams = d.streams := rfl
@[simp] theorem Dev.setUnit_reeds (d : Dev) (u : Un) (x : UnitDyn) : (d.setUnit u x).reeds = d.reeds := rfl
@[simp] theorem Dev.setUnit_floats (d : Dev) (u : Un) (x : UnitDyn) : (d.setUnit u x).floats = d.floats := rfl
@[simp] theorem Dev.setUnit_weir (d : Dev) (u : Un) (x : UnitDyn) : (d.setUnit u x).weir = d.weir := rfl
@[simp] theorem Dev.setUnit_timers (d : Dev) (u : Un) (x : UnitDyn) : (d.setUnit u x).timers = d.timers := rfl
@[simp] theorem Dev.setUnit_tins (d : Dev) (u : Un) (x : UnitDyn) : (d.setUnit u x).tins = d.tins := rfl
@[simp] theorem Dev.setUnit_tinMerge (d : Dev) (u : Un) (x : UnitDyn) : (d.setUnit u x).tinMerge = d.tinMerge := rfl
@[simp] theorem Dev.setUnit_ctxs (d : Dev) (u : Un) (x : UnitDyn) : (d.setUnit u x).ctxs = d.ctxs := rfl
@[simp] theorem Dev.setUnit_stops (d : Dev) (u : Un) (x : UnitDyn) : (d.setUnit u x).stops = d.stops := rfl
@[simp] theorem Dev.setUnit_steps (d : Dev) (u : Un) (x : UnitDyn) : (d.setUnit u x).steps = d.steps := rfl
@[simp] theorem Dev.setUnit_esc (d : Dev) (u : Un) (x : UnitDyn) : (d.setUnit u x).esc = d.esc := rfl
@[simp] theorem Dev.setUnit_cw (d : Dev) (u : Un) (x : UnitDyn) : (d.setUnit u x).cw = d.cw := rfl
@[simp] theorem Dev.setUnit_mgmt (d : Dev) (u : Un) (x : UnitDyn) : (d.setUnit u x).mgmt = d.mgmt := rfl
@[simp] theorem Dev.setUnit_vl (d : Dev) (u : Un) (x : UnitDyn) : (d.setUnit u x).vl = d.vl := rfl
@[simp] theorem Dev.setUnit_health (d : Dev) (u : Un) (x : UnitDyn) : (d.setUnit u x).health = d.health := rfl
@[simp] theorem Dev.setUnit_mon (d : Dev) (u : Un) (x : UnitDyn) : (d.setUnit u x).mon = d.mon := rfl
@[simp] theorem Dev.setUnit_ue (d : Dev) (u : Un) (x : UnitDyn) : (d.setUnit u x).ue = d.ue := rfl
@[simp] theorem Dev.setUnit_lbUe (d : Dev) (u : Un) (x : UnitDyn) : (d.setUnit u x).lbUe = d.lbUe := rfl
@[simp] theorem Dev.setUnit_holds (d : Dev) (u : Un) (x : UnitDyn) : (d.setUnit u x).holds = d.holds := rfl

/-! ### gen -/

@[simp] theorem Dev.gen_regs (d : Dev) (a : Nat) : (d.gen a).regs = d.regs := rfl
@[simp] theorem Dev.gen_units (d : Dev) (a : Nat) : (d.gen a).units = d.units := rfl
@[simp] theorem Dev.gen_settling (d : Dev) (a : Nat) : (d.gen a).settling = d.settling := rfl
@[simp] theorem Dev.gen_pwr (d : Dev) (a : Nat) : (d.gen a).pwr = d.pwr := rfl
@[simp] theorem Dev.gen_pitch (d : Dev) (a : Nat) : (d.gen a).pitch = d.pitch := rfl
@[simp] theorem Dev.gen_cps (d : Dev) (a : Nat) : (d.gen a).cps = d.cps := rfl
@[simp] theorem Dev.gen_ic (d : Dev) (a : Nat) : (d.gen a).ic = d.ic := rfl
@[simp] theorem Dev.gen_fab (d : Dev) (a : Nat) : (d.gen a).fab = d.fab := rfl
@[simp] theorem Dev.gen_host (d : Dev) (a : Nat) : (d.gen a).host = d.host := rfl
@[simp] theorem Dev.gen_stove (d : Dev) (a : Nat) : (d.gen a).stove = d.stove := rfl
@[simp] theorem Dev.gen_chans (d : Dev) (a : Nat) : (d.gen a).chans = d.chans := rfl
@[simp] theorem Dev.gen_streams (d : Dev) (a : Nat) : (d.gen a).streams = d.streams := rfl
@[simp] theorem Dev.gen_reeds (d : Dev) (a : Nat) : (d.gen a).reeds = d.reeds := rfl
@[simp] theorem Dev.gen_floats (d : Dev) (a : Nat) : (d.gen a).floats = d.floats := rfl
@[simp] theorem Dev.gen_weir (d : Dev) (a : Nat) : (d.gen a).weir = d.weir := rfl
@[simp] theorem Dev.gen_timers (d : Dev) (a : Nat) : (d.gen a).timers = d.timers := rfl
@[simp] theorem Dev.gen_tins (d : Dev) (a : Nat) : (d.gen a).tins = d.tins := rfl
@[simp] theorem Dev.gen_tinMerge (d : Dev) (a : Nat) : (d.gen a).tinMerge = d.tinMerge := rfl
@[simp] theorem Dev.gen_ctxs (d : Dev) (a : Nat) : (d.gen a).ctxs = d.ctxs := rfl
@[simp] theorem Dev.gen_stops (d : Dev) (a : Nat) : (d.gen a).stops = d.stops := rfl
@[simp] theorem Dev.gen_steps (d : Dev) (a : Nat) : (d.gen a).steps = d.steps := rfl
@[simp] theorem Dev.gen_esc (d : Dev) (a : Nat) : (d.gen a).esc = d.esc := rfl
@[simp] theorem Dev.gen_cw (d : Dev) (a : Nat) : (d.gen a).cw = d.cw := rfl
@[simp] theorem Dev.gen_mgmt (d : Dev) (a : Nat) : (d.gen a).mgmt = d.mgmt := rfl
@[simp] theorem Dev.gen_vl (d : Dev) (a : Nat) : (d.gen a).vl = d.vl := rfl
@[simp] theorem Dev.gen_health (d : Dev) (a : Nat) : (d.gen a).health = d.health := rfl
@[simp] theorem Dev.gen_mon (d : Dev) (a : Nat) : (d.gen a).mon = d.mon := rfl
@[simp] theorem Dev.gen_ue (d : Dev) (a : Nat) : (d.gen a).ue = d.ue := rfl
@[simp] theorem Dev.gen_lbUe (d : Dev) (a : Nat) : (d.gen a).lbUe = d.lbUe := rfl
@[simp] theorem Dev.gen_holds (d : Dev) (a : Nat) : (d.gen a).holds = d.holds := rfl

/-! ### setCtl -/

@[simp] theorem Dev.setCtl_regs (d : Dev) (k : Nat) (c : PitchCtl) : (d.setCtl k c).regs = d.regs := rfl
@[simp] theorem Dev.setCtl_units (d : Dev) (k : Nat) (c : PitchCtl) : (d.setCtl k c).units = d.units := rfl
@[simp] theorem Dev.setCtl_gens (d : Dev) (k : Nat) (c : PitchCtl) : (d.setCtl k c).gens = d.gens := rfl
@[simp] theorem Dev.setCtl_settling (d : Dev) (k : Nat) (c : PitchCtl) : (d.setCtl k c).settling = d.settling := rfl
@[simp] theorem Dev.setCtl_pwr (d : Dev) (k : Nat) (c : PitchCtl) : (d.setCtl k c).pwr = d.pwr := rfl
@[simp] theorem Dev.setCtl_cps (d : Dev) (k : Nat) (c : PitchCtl) : (d.setCtl k c).cps = d.cps := rfl
@[simp] theorem Dev.setCtl_ic (d : Dev) (k : Nat) (c : PitchCtl) : (d.setCtl k c).ic = d.ic := rfl
@[simp] theorem Dev.setCtl_fab (d : Dev) (k : Nat) (c : PitchCtl) : (d.setCtl k c).fab = d.fab := rfl
@[simp] theorem Dev.setCtl_host (d : Dev) (k : Nat) (c : PitchCtl) : (d.setCtl k c).host = d.host := rfl
@[simp] theorem Dev.setCtl_stove (d : Dev) (k : Nat) (c : PitchCtl) : (d.setCtl k c).stove = d.stove := rfl
@[simp] theorem Dev.setCtl_chans (d : Dev) (k : Nat) (c : PitchCtl) : (d.setCtl k c).chans = d.chans := rfl
@[simp] theorem Dev.setCtl_streams (d : Dev) (k : Nat) (c : PitchCtl) : (d.setCtl k c).streams = d.streams := rfl
@[simp] theorem Dev.setCtl_reeds (d : Dev) (k : Nat) (c : PitchCtl) : (d.setCtl k c).reeds = d.reeds := rfl
@[simp] theorem Dev.setCtl_floats (d : Dev) (k : Nat) (c : PitchCtl) : (d.setCtl k c).floats = d.floats := rfl
@[simp] theorem Dev.setCtl_weir (d : Dev) (k : Nat) (c : PitchCtl) : (d.setCtl k c).weir = d.weir := rfl
@[simp] theorem Dev.setCtl_timers (d : Dev) (k : Nat) (c : PitchCtl) : (d.setCtl k c).timers = d.timers := rfl
@[simp] theorem Dev.setCtl_tins (d : Dev) (k : Nat) (c : PitchCtl) : (d.setCtl k c).tins = d.tins := rfl
@[simp] theorem Dev.setCtl_tinMerge (d : Dev) (k : Nat) (c : PitchCtl) : (d.setCtl k c).tinMerge = d.tinMerge := rfl
@[simp] theorem Dev.setCtl_ctxs (d : Dev) (k : Nat) (c : PitchCtl) : (d.setCtl k c).ctxs = d.ctxs := rfl
@[simp] theorem Dev.setCtl_stops (d : Dev) (k : Nat) (c : PitchCtl) : (d.setCtl k c).stops = d.stops := rfl
@[simp] theorem Dev.setCtl_steps (d : Dev) (k : Nat) (c : PitchCtl) : (d.setCtl k c).steps = d.steps := rfl
@[simp] theorem Dev.setCtl_esc (d : Dev) (k : Nat) (c : PitchCtl) : (d.setCtl k c).esc = d.esc := rfl
@[simp] theorem Dev.setCtl_cw (d : Dev) (k : Nat) (c : PitchCtl) : (d.setCtl k c).cw = d.cw := rfl
@[simp] theorem Dev.setCtl_mgmt (d : Dev) (k : Nat) (c : PitchCtl) : (d.setCtl k c).mgmt = d.mgmt := rfl
@[simp] theorem Dev.setCtl_vl (d : Dev) (k : Nat) (c : PitchCtl) : (d.setCtl k c).vl = d.vl := rfl
@[simp] theorem Dev.setCtl_health (d : Dev) (k : Nat) (c : PitchCtl) : (d.setCtl k c).health = d.health := rfl
@[simp] theorem Dev.setCtl_mon (d : Dev) (k : Nat) (c : PitchCtl) : (d.setCtl k c).mon = d.mon := rfl
@[simp] theorem Dev.setCtl_ue (d : Dev) (k : Nat) (c : PitchCtl) : (d.setCtl k c).ue = d.ue := rfl
@[simp] theorem Dev.setCtl_lbUe (d : Dev) (k : Nat) (c : PitchCtl) : (d.setCtl k c).lbUe = d.lbUe := rfl
@[simp] theorem Dev.setCtl_holds (d : Dev) (k : Nat) (c : PitchCtl) : (d.setCtl k c).holds = d.holds := rfl

/-! ### setCps -/

@[simp] theorem Dev.setCps_regs (d : Dev) (x : Compass) : (d.setCps x).regs = d.regs := rfl
@[simp] theorem Dev.setCps_units (d : Dev) (x : Compass) : (d.setCps x).units = d.units := rfl
@[simp] theorem Dev.setCps_gens (d : Dev) (x : Compass) : (d.setCps x).gens = d.gens := rfl
@[simp] theorem Dev.setCps_settling (d : Dev) (x : Compass) : (d.setCps x).settling = d.settling := rfl
@[simp] theorem Dev.setCps_pwr (d : Dev) (x : Compass) : (d.setCps x).pwr = d.pwr := rfl
@[simp] theorem Dev.setCps_pitch (d : Dev) (x : Compass) : (d.setCps x).pitch = d.pitch := rfl
@[simp] theorem Dev.setCps_ic (d : Dev) (x : Compass) : (d.setCps x).ic = d.ic := rfl
@[simp] theorem Dev.setCps_fab (d : Dev) (x : Compass) : (d.setCps x).fab = d.fab := rfl
@[simp] theorem Dev.setCps_host (d : Dev) (x : Compass) : (d.setCps x).host = d.host := rfl
@[simp] theorem Dev.setCps_stove (d : Dev) (x : Compass) : (d.setCps x).stove = d.stove := rfl
@[simp] theorem Dev.setCps_chans (d : Dev) (x : Compass) : (d.setCps x).chans = d.chans := rfl
@[simp] theorem Dev.setCps_streams (d : Dev) (x : Compass) : (d.setCps x).streams = d.streams := rfl
@[simp] theorem Dev.setCps_reeds (d : Dev) (x : Compass) : (d.setCps x).reeds = d.reeds := rfl
@[simp] theorem Dev.setCps_floats (d : Dev) (x : Compass) : (d.setCps x).floats = d.floats := rfl
@[simp] theorem Dev.setCps_weir (d : Dev) (x : Compass) : (d.setCps x).weir = d.weir := rfl
@[simp] theorem Dev.setCps_timers (d : Dev) (x : Compass) : (d.setCps x).timers = d.timers := rfl
@[simp] theorem Dev.setCps_tins (d : Dev) (x : Compass) : (d.setCps x).tins = d.tins := rfl
@[simp] theorem Dev.setCps_tinMerge (d : Dev) (x : Compass) : (d.setCps x).tinMerge = d.tinMerge := rfl
@[simp] theorem Dev.setCps_ctxs (d : Dev) (x : Compass) : (d.setCps x).ctxs = d.ctxs := rfl
@[simp] theorem Dev.setCps_stops (d : Dev) (x : Compass) : (d.setCps x).stops = d.stops := rfl
@[simp] theorem Dev.setCps_steps (d : Dev) (x : Compass) : (d.setCps x).steps = d.steps := rfl
@[simp] theorem Dev.setCps_esc (d : Dev) (x : Compass) : (d.setCps x).esc = d.esc := rfl
@[simp] theorem Dev.setCps_cw (d : Dev) (x : Compass) : (d.setCps x).cw = d.cw := rfl
@[simp] theorem Dev.setCps_mgmt (d : Dev) (x : Compass) : (d.setCps x).mgmt = d.mgmt := rfl
@[simp] theorem Dev.setCps_vl (d : Dev) (x : Compass) : (d.setCps x).vl = d.vl := rfl
@[simp] theorem Dev.setCps_health (d : Dev) (x : Compass) : (d.setCps x).health = d.health := rfl
@[simp] theorem Dev.setCps_mon (d : Dev) (x : Compass) : (d.setCps x).mon = d.mon := rfl
@[simp] theorem Dev.setCps_ue (d : Dev) (x : Compass) : (d.setCps x).ue = d.ue := rfl
@[simp] theorem Dev.setCps_lbUe (d : Dev) (x : Compass) : (d.setCps x).lbUe = d.lbUe := rfl
@[simp] theorem Dev.setCps_holds (d : Dev) (x : Compass) : (d.setCps x).holds = d.holds := rfl

/-! ### setPath -/

@[simp] theorem Dev.setPath_regs (d : Dev) (p : Path) (x : PathDyn) : (d.setPath p x).regs = d.regs := rfl
@[simp] theorem Dev.setPath_units (d : Dev) (p : Path) (x : PathDyn) : (d.setPath p x).units = d.units := rfl
@[simp] theorem Dev.setPath_gens (d : Dev) (p : Path) (x : PathDyn) : (d.setPath p x).gens = d.gens := rfl
@[simp] theorem Dev.setPath_settling (d : Dev) (p : Path) (x : PathDyn) : (d.setPath p x).settling = d.settling := rfl
@[simp] theorem Dev.setPath_pwr (d : Dev) (p : Path) (x : PathDyn) : (d.setPath p x).pwr = d.pwr := rfl
@[simp] theorem Dev.setPath_pitch (d : Dev) (p : Path) (x : PathDyn) : (d.setPath p x).pitch = d.pitch := rfl
@[simp] theorem Dev.setPath_cps (d : Dev) (p : Path) (x : PathDyn) : (d.setPath p x).cps = d.cps := rfl
@[simp] theorem Dev.setPath_ic (d : Dev) (p : Path) (x : PathDyn) : (d.setPath p x).ic = d.ic := rfl
@[simp] theorem Dev.setPath_host (d : Dev) (p : Path) (x : PathDyn) : (d.setPath p x).host = d.host := rfl
@[simp] theorem Dev.setPath_stove (d : Dev) (p : Path) (x : PathDyn) : (d.setPath p x).stove = d.stove := rfl
@[simp] theorem Dev.setPath_chans (d : Dev) (p : Path) (x : PathDyn) : (d.setPath p x).chans = d.chans := rfl
@[simp] theorem Dev.setPath_streams (d : Dev) (p : Path) (x : PathDyn) : (d.setPath p x).streams = d.streams := rfl
@[simp] theorem Dev.setPath_reeds (d : Dev) (p : Path) (x : PathDyn) : (d.setPath p x).reeds = d.reeds := rfl
@[simp] theorem Dev.setPath_floats (d : Dev) (p : Path) (x : PathDyn) : (d.setPath p x).floats = d.floats := rfl
@[simp] theorem Dev.setPath_weir (d : Dev) (p : Path) (x : PathDyn) : (d.setPath p x).weir = d.weir := rfl
@[simp] theorem Dev.setPath_timers (d : Dev) (p : Path) (x : PathDyn) : (d.setPath p x).timers = d.timers := rfl
@[simp] theorem Dev.setPath_tins (d : Dev) (p : Path) (x : PathDyn) : (d.setPath p x).tins = d.tins := rfl
@[simp] theorem Dev.setPath_tinMerge (d : Dev) (p : Path) (x : PathDyn) : (d.setPath p x).tinMerge = d.tinMerge := rfl
@[simp] theorem Dev.setPath_ctxs (d : Dev) (p : Path) (x : PathDyn) : (d.setPath p x).ctxs = d.ctxs := rfl
@[simp] theorem Dev.setPath_stops (d : Dev) (p : Path) (x : PathDyn) : (d.setPath p x).stops = d.stops := rfl
@[simp] theorem Dev.setPath_steps (d : Dev) (p : Path) (x : PathDyn) : (d.setPath p x).steps = d.steps := rfl
@[simp] theorem Dev.setPath_esc (d : Dev) (p : Path) (x : PathDyn) : (d.setPath p x).esc = d.esc := rfl
@[simp] theorem Dev.setPath_cw (d : Dev) (p : Path) (x : PathDyn) : (d.setPath p x).cw = d.cw := rfl
@[simp] theorem Dev.setPath_mgmt (d : Dev) (p : Path) (x : PathDyn) : (d.setPath p x).mgmt = d.mgmt := rfl
@[simp] theorem Dev.setPath_vl (d : Dev) (p : Path) (x : PathDyn) : (d.setPath p x).vl = d.vl := rfl
@[simp] theorem Dev.setPath_health (d : Dev) (p : Path) (x : PathDyn) : (d.setPath p x).health = d.health := rfl
@[simp] theorem Dev.setPath_mon (d : Dev) (p : Path) (x : PathDyn) : (d.setPath p x).mon = d.mon := rfl
@[simp] theorem Dev.setPath_ue (d : Dev) (p : Path) (x : PathDyn) : (d.setPath p x).ue = d.ue := rfl
@[simp] theorem Dev.setPath_lbUe (d : Dev) (p : Path) (x : PathDyn) : (d.setPath p x).lbUe = d.lbUe := rfl
@[simp] theorem Dev.setPath_holds (d : Dev) (p : Path) (x : PathDyn) : (d.setPath p x).holds = d.holds := rfl

/-! ### setHost -/

@[simp] theorem Dev.setHost_regs (d : Dev) (h : HostPort) : (d.setHost h).regs = d.regs := rfl
@[simp] theorem Dev.setHost_units (d : Dev) (h : HostPort) : (d.setHost h).units = d.units := rfl
@[simp] theorem Dev.setHost_gens (d : Dev) (h : HostPort) : (d.setHost h).gens = d.gens := rfl
@[simp] theorem Dev.setHost_settling (d : Dev) (h : HostPort) : (d.setHost h).settling = d.settling := rfl
@[simp] theorem Dev.setHost_pwr (d : Dev) (h : HostPort) : (d.setHost h).pwr = d.pwr := rfl
@[simp] theorem Dev.setHost_pitch (d : Dev) (h : HostPort) : (d.setHost h).pitch = d.pitch := rfl
@[simp] theorem Dev.setHost_cps (d : Dev) (h : HostPort) : (d.setHost h).cps = d.cps := rfl
@[simp] theorem Dev.setHost_ic (d : Dev) (h : HostPort) : (d.setHost h).ic = d.ic := rfl
@[simp] theorem Dev.setHost_fab (d : Dev) (h : HostPort) : (d.setHost h).fab = d.fab := rfl
@[simp] theorem Dev.setHost_stove (d : Dev) (h : HostPort) : (d.setHost h).stove = d.stove := rfl
@[simp] theorem Dev.setHost_chans (d : Dev) (h : HostPort) : (d.setHost h).chans = d.chans := rfl
@[simp] theorem Dev.setHost_streams (d : Dev) (h : HostPort) : (d.setHost h).streams = d.streams := rfl
@[simp] theorem Dev.setHost_reeds (d : Dev) (h : HostPort) : (d.setHost h).reeds = d.reeds := rfl
@[simp] theorem Dev.setHost_floats (d : Dev) (h : HostPort) : (d.setHost h).floats = d.floats := rfl
@[simp] theorem Dev.setHost_weir (d : Dev) (h : HostPort) : (d.setHost h).weir = d.weir := rfl
@[simp] theorem Dev.setHost_timers (d : Dev) (h : HostPort) : (d.setHost h).timers = d.timers := rfl
@[simp] theorem Dev.setHost_tins (d : Dev) (h : HostPort) : (d.setHost h).tins = d.tins := rfl
@[simp] theorem Dev.setHost_tinMerge (d : Dev) (h : HostPort) : (d.setHost h).tinMerge = d.tinMerge := rfl
@[simp] theorem Dev.setHost_ctxs (d : Dev) (h : HostPort) : (d.setHost h).ctxs = d.ctxs := rfl
@[simp] theorem Dev.setHost_stops (d : Dev) (h : HostPort) : (d.setHost h).stops = d.stops := rfl
@[simp] theorem Dev.setHost_steps (d : Dev) (h : HostPort) : (d.setHost h).steps = d.steps := rfl
@[simp] theorem Dev.setHost_esc (d : Dev) (h : HostPort) : (d.setHost h).esc = d.esc := rfl
@[simp] theorem Dev.setHost_cw (d : Dev) (h : HostPort) : (d.setHost h).cw = d.cw := rfl
@[simp] theorem Dev.setHost_mgmt (d : Dev) (h : HostPort) : (d.setHost h).mgmt = d.mgmt := rfl
@[simp] theorem Dev.setHost_vl (d : Dev) (h : HostPort) : (d.setHost h).vl = d.vl := rfl
@[simp] theorem Dev.setHost_health (d : Dev) (h : HostPort) : (d.setHost h).health = d.health := rfl
@[simp] theorem Dev.setHost_mon (d : Dev) (h : HostPort) : (d.setHost h).mon = d.mon := rfl
@[simp] theorem Dev.setHost_ue (d : Dev) (h : HostPort) : (d.setHost h).ue = d.ue := rfl
@[simp] theorem Dev.setHost_lbUe (d : Dev) (h : HostPort) : (d.setHost h).lbUe = d.lbUe := rfl
@[simp] theorem Dev.setHost_holds (d : Dev) (h : HostPort) : (d.setHost h).holds = d.holds := rfl

/-! ### setStove -/

@[simp] theorem Dev.setStove_regs (d : Dev) (x : Stove) : (d.setStove x).regs = d.regs := rfl
@[simp] theorem Dev.setStove_units (d : Dev) (x : Stove) : (d.setStove x).units = d.units := rfl
@[simp] theorem Dev.setStove_gens (d : Dev) (x : Stove) : (d.setStove x).gens = d.gens := rfl
@[simp] theorem Dev.setStove_settling (d : Dev) (x : Stove) : (d.setStove x).settling = d.settling := rfl
@[simp] theorem Dev.setStove_pwr (d : Dev) (x : Stove) : (d.setStove x).pwr = d.pwr := rfl
@[simp] theorem Dev.setStove_pitch (d : Dev) (x : Stove) : (d.setStove x).pitch = d.pitch := rfl
@[simp] theorem Dev.setStove_cps (d : Dev) (x : Stove) : (d.setStove x).cps = d.cps := rfl
@[simp] theorem Dev.setStove_ic (d : Dev) (x : Stove) : (d.setStove x).ic = d.ic := rfl
@[simp] theorem Dev.setStove_fab (d : Dev) (x : Stove) : (d.setStove x).fab = d.fab := rfl
@[simp] theorem Dev.setStove_host (d : Dev) (x : Stove) : (d.setStove x).host = d.host := rfl
@[simp] theorem Dev.setStove_chans (d : Dev) (x : Stove) : (d.setStove x).chans = d.chans := rfl
@[simp] theorem Dev.setStove_streams (d : Dev) (x : Stove) : (d.setStove x).streams = d.streams := rfl
@[simp] theorem Dev.setStove_reeds (d : Dev) (x : Stove) : (d.setStove x).reeds = d.reeds := rfl
@[simp] theorem Dev.setStove_floats (d : Dev) (x : Stove) : (d.setStove x).floats = d.floats := rfl
@[simp] theorem Dev.setStove_weir (d : Dev) (x : Stove) : (d.setStove x).weir = d.weir := rfl
@[simp] theorem Dev.setStove_timers (d : Dev) (x : Stove) : (d.setStove x).timers = d.timers := rfl
@[simp] theorem Dev.setStove_tins (d : Dev) (x : Stove) : (d.setStove x).tins = d.tins := rfl
@[simp] theorem Dev.setStove_tinMerge (d : Dev) (x : Stove) : (d.setStove x).tinMerge = d.tinMerge := rfl
@[simp] theorem Dev.setStove_ctxs (d : Dev) (x : Stove) : (d.setStove x).ctxs = d.ctxs := rfl
@[simp] theorem Dev.setStove_stops (d : Dev) (x : Stove) : (d.setStove x).stops = d.stops := rfl
@[simp] theorem Dev.setStove_steps (d : Dev) (x : Stove) : (d.setStove x).steps = d.steps := rfl
@[simp] theorem Dev.setStove_esc (d : Dev) (x : Stove) : (d.setStove x).esc = d.esc := rfl
@[simp] theorem Dev.setStove_cw (d : Dev) (x : Stove) : (d.setStove x).cw = d.cw := rfl
@[simp] theorem Dev.setStove_mgmt (d : Dev) (x : Stove) : (d.setStove x).mgmt = d.mgmt := rfl
@[simp] theorem Dev.setStove_vl (d : Dev) (x : Stove) : (d.setStove x).vl = d.vl := rfl
@[simp] theorem Dev.setStove_health (d : Dev) (x : Stove) : (d.setStove x).health = d.health := rfl
@[simp] theorem Dev.setStove_mon (d : Dev) (x : Stove) : (d.setStove x).mon = d.mon := rfl
@[simp] theorem Dev.setStove_ue (d : Dev) (x : Stove) : (d.setStove x).ue = d.ue := rfl
@[simp] theorem Dev.setStove_lbUe (d : Dev) (x : Stove) : (d.setStove x).lbUe = d.lbUe := rfl
@[simp] theorem Dev.setStove_holds (d : Dev) (x : Stove) : (d.setStove x).holds = d.holds := rfl

/-! ### setCh -/

@[simp] theorem Dev.setCh_regs (d : Dev) (n : Nat) (x : ChanDyn) : (d.setCh n x).regs = d.regs := rfl
@[simp] theorem Dev.setCh_units (d : Dev) (n : Nat) (x : ChanDyn) : (d.setCh n x).units = d.units := rfl
@[simp] theorem Dev.setCh_gens (d : Dev) (n : Nat) (x : ChanDyn) : (d.setCh n x).gens = d.gens := rfl
@[simp] theorem Dev.setCh_settling (d : Dev) (n : Nat) (x : ChanDyn) : (d.setCh n x).settling = d.settling := rfl
@[simp] theorem Dev.setCh_pwr (d : Dev) (n : Nat) (x : ChanDyn) : (d.setCh n x).pwr = d.pwr := rfl
@[simp] theorem Dev.setCh_pitch (d : Dev) (n : Nat) (x : ChanDyn) : (d.setCh n x).pitch = d.pitch := rfl
@[simp] theorem Dev.setCh_cps (d : Dev) (n : Nat) (x : ChanDyn) : (d.setCh n x).cps = d.cps := rfl
@[simp] theorem Dev.setCh_ic (d : Dev) (n : Nat) (x : ChanDyn) : (d.setCh n x).ic = d.ic := rfl
@[simp] theorem Dev.setCh_fab (d : Dev) (n : Nat) (x : ChanDyn) : (d.setCh n x).fab = d.fab := rfl
@[simp] theorem Dev.setCh_host (d : Dev) (n : Nat) (x : ChanDyn) : (d.setCh n x).host = d.host := rfl
@[simp] theorem Dev.setCh_stove (d : Dev) (n : Nat) (x : ChanDyn) : (d.setCh n x).stove = d.stove := rfl
@[simp] theorem Dev.setCh_streams (d : Dev) (n : Nat) (x : ChanDyn) : (d.setCh n x).streams = d.streams := rfl
@[simp] theorem Dev.setCh_reeds (d : Dev) (n : Nat) (x : ChanDyn) : (d.setCh n x).reeds = d.reeds := rfl
@[simp] theorem Dev.setCh_floats (d : Dev) (n : Nat) (x : ChanDyn) : (d.setCh n x).floats = d.floats := rfl
@[simp] theorem Dev.setCh_weir (d : Dev) (n : Nat) (x : ChanDyn) : (d.setCh n x).weir = d.weir := rfl
@[simp] theorem Dev.setCh_timers (d : Dev) (n : Nat) (x : ChanDyn) : (d.setCh n x).timers = d.timers := rfl
@[simp] theorem Dev.setCh_tins (d : Dev) (n : Nat) (x : ChanDyn) : (d.setCh n x).tins = d.tins := rfl
@[simp] theorem Dev.setCh_tinMerge (d : Dev) (n : Nat) (x : ChanDyn) : (d.setCh n x).tinMerge = d.tinMerge := rfl
@[simp] theorem Dev.setCh_ctxs (d : Dev) (n : Nat) (x : ChanDyn) : (d.setCh n x).ctxs = d.ctxs := rfl
@[simp] theorem Dev.setCh_stops (d : Dev) (n : Nat) (x : ChanDyn) : (d.setCh n x).stops = d.stops := rfl
@[simp] theorem Dev.setCh_steps (d : Dev) (n : Nat) (x : ChanDyn) : (d.setCh n x).steps = d.steps := rfl
@[simp] theorem Dev.setCh_esc (d : Dev) (n : Nat) (x : ChanDyn) : (d.setCh n x).esc = d.esc := rfl
@[simp] theorem Dev.setCh_cw (d : Dev) (n : Nat) (x : ChanDyn) : (d.setCh n x).cw = d.cw := rfl
@[simp] theorem Dev.setCh_mgmt (d : Dev) (n : Nat) (x : ChanDyn) : (d.setCh n x).mgmt = d.mgmt := rfl
@[simp] theorem Dev.setCh_vl (d : Dev) (n : Nat) (x : ChanDyn) : (d.setCh n x).vl = d.vl := rfl
@[simp] theorem Dev.setCh_health (d : Dev) (n : Nat) (x : ChanDyn) : (d.setCh n x).health = d.health := rfl
@[simp] theorem Dev.setCh_mon (d : Dev) (n : Nat) (x : ChanDyn) : (d.setCh n x).mon = d.mon := rfl
@[simp] theorem Dev.setCh_ue (d : Dev) (n : Nat) (x : ChanDyn) : (d.setCh n x).ue = d.ue := rfl
@[simp] theorem Dev.setCh_lbUe (d : Dev) (n : Nat) (x : ChanDyn) : (d.setCh n x).lbUe = d.lbUe := rfl
@[simp] theorem Dev.setCh_holds (d : Dev) (n : Nat) (x : ChanDyn) : (d.setCh n x).holds = d.holds := rfl

/-! ### setStrm -/

@[simp] theorem Dev.setStrm_regs (d : Dev) (c k : Nat) (x : StreamDyn) : (d.setStrm c k x).regs = d.regs := rfl
@[simp] theorem Dev.setStrm_units (d : Dev) (c k : Nat) (x : StreamDyn) : (d.setStrm c k x).units = d.units := rfl
@[simp] theorem Dev.setStrm_gens (d : Dev) (c k : Nat) (x : StreamDyn) : (d.setStrm c k x).gens = d.gens := rfl
@[simp] theorem Dev.setStrm_settling (d : Dev) (c k : Nat) (x : StreamDyn) : (d.setStrm c k x).settling = d.settling := rfl
@[simp] theorem Dev.setStrm_pwr (d : Dev) (c k : Nat) (x : StreamDyn) : (d.setStrm c k x).pwr = d.pwr := rfl
@[simp] theorem Dev.setStrm_pitch (d : Dev) (c k : Nat) (x : StreamDyn) : (d.setStrm c k x).pitch = d.pitch := rfl
@[simp] theorem Dev.setStrm_cps (d : Dev) (c k : Nat) (x : StreamDyn) : (d.setStrm c k x).cps = d.cps := rfl
@[simp] theorem Dev.setStrm_ic (d : Dev) (c k : Nat) (x : StreamDyn) : (d.setStrm c k x).ic = d.ic := rfl
@[simp] theorem Dev.setStrm_fab (d : Dev) (c k : Nat) (x : StreamDyn) : (d.setStrm c k x).fab = d.fab := rfl
@[simp] theorem Dev.setStrm_host (d : Dev) (c k : Nat) (x : StreamDyn) : (d.setStrm c k x).host = d.host := rfl
@[simp] theorem Dev.setStrm_stove (d : Dev) (c k : Nat) (x : StreamDyn) : (d.setStrm c k x).stove = d.stove := rfl
@[simp] theorem Dev.setStrm_chans (d : Dev) (c k : Nat) (x : StreamDyn) : (d.setStrm c k x).chans = d.chans := rfl
@[simp] theorem Dev.setStrm_reeds (d : Dev) (c k : Nat) (x : StreamDyn) : (d.setStrm c k x).reeds = d.reeds := rfl
@[simp] theorem Dev.setStrm_floats (d : Dev) (c k : Nat) (x : StreamDyn) : (d.setStrm c k x).floats = d.floats := rfl
@[simp] theorem Dev.setStrm_weir (d : Dev) (c k : Nat) (x : StreamDyn) : (d.setStrm c k x).weir = d.weir := rfl
@[simp] theorem Dev.setStrm_timers (d : Dev) (c k : Nat) (x : StreamDyn) : (d.setStrm c k x).timers = d.timers := rfl
@[simp] theorem Dev.setStrm_tins (d : Dev) (c k : Nat) (x : StreamDyn) : (d.setStrm c k x).tins = d.tins := rfl
@[simp] theorem Dev.setStrm_tinMerge (d : Dev) (c k : Nat) (x : StreamDyn) : (d.setStrm c k x).tinMerge = d.tinMerge := rfl
@[simp] theorem Dev.setStrm_ctxs (d : Dev) (c k : Nat) (x : StreamDyn) : (d.setStrm c k x).ctxs = d.ctxs := rfl
@[simp] theorem Dev.setStrm_stops (d : Dev) (c k : Nat) (x : StreamDyn) : (d.setStrm c k x).stops = d.stops := rfl
@[simp] theorem Dev.setStrm_steps (d : Dev) (c k : Nat) (x : StreamDyn) : (d.setStrm c k x).steps = d.steps := rfl
@[simp] theorem Dev.setStrm_esc (d : Dev) (c k : Nat) (x : StreamDyn) : (d.setStrm c k x).esc = d.esc := rfl
@[simp] theorem Dev.setStrm_cw (d : Dev) (c k : Nat) (x : StreamDyn) : (d.setStrm c k x).cw = d.cw := rfl
@[simp] theorem Dev.setStrm_mgmt (d : Dev) (c k : Nat) (x : StreamDyn) : (d.setStrm c k x).mgmt = d.mgmt := rfl
@[simp] theorem Dev.setStrm_vl (d : Dev) (c k : Nat) (x : StreamDyn) : (d.setStrm c k x).vl = d.vl := rfl
@[simp] theorem Dev.setStrm_health (d : Dev) (c k : Nat) (x : StreamDyn) : (d.setStrm c k x).health = d.health := rfl
@[simp] theorem Dev.setStrm_mon (d : Dev) (c k : Nat) (x : StreamDyn) : (d.setStrm c k x).mon = d.mon := rfl
@[simp] theorem Dev.setStrm_ue (d : Dev) (c k : Nat) (x : StreamDyn) : (d.setStrm c k x).ue = d.ue := rfl
@[simp] theorem Dev.setStrm_lbUe (d : Dev) (c k : Nat) (x : StreamDyn) : (d.setStrm c k x).lbUe = d.lbUe := rfl
@[simp] theorem Dev.setStrm_holds (d : Dev) (c k : Nat) (x : StreamDyn) : (d.setStrm c k x).holds = d.holds := rfl

/-! ### setReed -/

@[simp] theorem Dev.setReed_regs (d : Dev) (c : Nat) (x : Reed) : (d.setReed c x).regs = d.regs := rfl
@[simp] theorem Dev.setReed_units (d : Dev) (c : Nat) (x : Reed) : (d.setReed c x).units = d.units := rfl
@[simp] theorem Dev.setReed_gens (d : Dev) (c : Nat) (x : Reed) : (d.setReed c x).gens = d.gens := rfl
@[simp] theorem Dev.setReed_settling (d : Dev) (c : Nat) (x : Reed) : (d.setReed c x).settling = d.settling := rfl
@[simp] theorem Dev.setReed_pwr (d : Dev) (c : Nat) (x : Reed) : (d.setReed c x).pwr = d.pwr := rfl
@[simp] theorem Dev.setReed_pitch (d : Dev) (c : Nat) (x : Reed) : (d.setReed c x).pitch = d.pitch := rfl
@[simp] theorem Dev.setReed_cps (d : Dev) (c : Nat) (x : Reed) : (d.setReed c x).cps = d.cps := rfl
@[simp] theorem Dev.setReed_ic (d : Dev) (c : Nat) (x : Reed) : (d.setReed c x).ic = d.ic := rfl
@[simp] theorem Dev.setReed_fab (d : Dev) (c : Nat) (x : Reed) : (d.setReed c x).fab = d.fab := rfl
@[simp] theorem Dev.setReed_host (d : Dev) (c : Nat) (x : Reed) : (d.setReed c x).host = d.host := rfl
@[simp] theorem Dev.setReed_stove (d : Dev) (c : Nat) (x : Reed) : (d.setReed c x).stove = d.stove := rfl
@[simp] theorem Dev.setReed_chans (d : Dev) (c : Nat) (x : Reed) : (d.setReed c x).chans = d.chans := rfl
@[simp] theorem Dev.setReed_streams (d : Dev) (c : Nat) (x : Reed) : (d.setReed c x).streams = d.streams := rfl
@[simp] theorem Dev.setReed_floats (d : Dev) (c : Nat) (x : Reed) : (d.setReed c x).floats = d.floats := rfl
@[simp] theorem Dev.setReed_weir (d : Dev) (c : Nat) (x : Reed) : (d.setReed c x).weir = d.weir := rfl
@[simp] theorem Dev.setReed_timers (d : Dev) (c : Nat) (x : Reed) : (d.setReed c x).timers = d.timers := rfl
@[simp] theorem Dev.setReed_tins (d : Dev) (c : Nat) (x : Reed) : (d.setReed c x).tins = d.tins := rfl
@[simp] theorem Dev.setReed_tinMerge (d : Dev) (c : Nat) (x : Reed) : (d.setReed c x).tinMerge = d.tinMerge := rfl
@[simp] theorem Dev.setReed_ctxs (d : Dev) (c : Nat) (x : Reed) : (d.setReed c x).ctxs = d.ctxs := rfl
@[simp] theorem Dev.setReed_stops (d : Dev) (c : Nat) (x : Reed) : (d.setReed c x).stops = d.stops := rfl
@[simp] theorem Dev.setReed_steps (d : Dev) (c : Nat) (x : Reed) : (d.setReed c x).steps = d.steps := rfl
@[simp] theorem Dev.setReed_esc (d : Dev) (c : Nat) (x : Reed) : (d.setReed c x).esc = d.esc := rfl
@[simp] theorem Dev.setReed_cw (d : Dev) (c : Nat) (x : Reed) : (d.setReed c x).cw = d.cw := rfl
@[simp] theorem Dev.setReed_mgmt (d : Dev) (c : Nat) (x : Reed) : (d.setReed c x).mgmt = d.mgmt := rfl
@[simp] theorem Dev.setReed_vl (d : Dev) (c : Nat) (x : Reed) : (d.setReed c x).vl = d.vl := rfl
@[simp] theorem Dev.setReed_health (d : Dev) (c : Nat) (x : Reed) : (d.setReed c x).health = d.health := rfl
@[simp] theorem Dev.setReed_mon (d : Dev) (c : Nat) (x : Reed) : (d.setReed c x).mon = d.mon := rfl
@[simp] theorem Dev.setReed_ue (d : Dev) (c : Nat) (x : Reed) : (d.setReed c x).ue = d.ue := rfl
@[simp] theorem Dev.setReed_lbUe (d : Dev) (c : Nat) (x : Reed) : (d.setReed c x).lbUe = d.lbUe := rfl
@[simp] theorem Dev.setReed_holds (d : Dev) (c : Nat) (x : Reed) : (d.setReed c x).holds = d.holds := rfl

/-! ### setFl -/

@[simp] theorem Dev.setFl_regs (d : Dev) (i : Nat) (x : FloatDyn) : (d.setFl i x).regs = d.regs := rfl
@[simp] theorem Dev.setFl_units (d : Dev) (i : Nat) (x : FloatDyn) : (d.setFl i x).units = d.units := rfl
@[simp] theorem Dev.setFl_gens (d : Dev) (i : Nat) (x : FloatDyn) : (d.setFl i x).gens = d.gens := rfl
@[simp] theorem Dev.setFl_settling (d : Dev) (i : Nat) (x : FloatDyn) : (d.setFl i x).settling = d.settling := rfl
@[simp] theorem Dev.setFl_pwr (d : Dev) (i : Nat) (x : FloatDyn) : (d.setFl i x).pwr = d.pwr := rfl
@[simp] theorem Dev.setFl_pitch (d : Dev) (i : Nat) (x : FloatDyn) : (d.setFl i x).pitch = d.pitch := rfl
@[simp] theorem Dev.setFl_cps (d : Dev) (i : Nat) (x : FloatDyn) : (d.setFl i x).cps = d.cps := rfl
@[simp] theorem Dev.setFl_ic (d : Dev) (i : Nat) (x : FloatDyn) : (d.setFl i x).ic = d.ic := rfl
@[simp] theorem Dev.setFl_fab (d : Dev) (i : Nat) (x : FloatDyn) : (d.setFl i x).fab = d.fab := rfl
@[simp] theorem Dev.setFl_host (d : Dev) (i : Nat) (x : FloatDyn) : (d.setFl i x).host = d.host := rfl
@[simp] theorem Dev.setFl_stove (d : Dev) (i : Nat) (x : FloatDyn) : (d.setFl i x).stove = d.stove := rfl
@[simp] theorem Dev.setFl_chans (d : Dev) (i : Nat) (x : FloatDyn) : (d.setFl i x).chans = d.chans := rfl
@[simp] theorem Dev.setFl_streams (d : Dev) (i : Nat) (x : FloatDyn) : (d.setFl i x).streams = d.streams := rfl
@[simp] theorem Dev.setFl_reeds (d : Dev) (i : Nat) (x : FloatDyn) : (d.setFl i x).reeds = d.reeds := rfl
@[simp] theorem Dev.setFl_weir (d : Dev) (i : Nat) (x : FloatDyn) : (d.setFl i x).weir = d.weir := rfl
@[simp] theorem Dev.setFl_timers (d : Dev) (i : Nat) (x : FloatDyn) : (d.setFl i x).timers = d.timers := rfl
@[simp] theorem Dev.setFl_tins (d : Dev) (i : Nat) (x : FloatDyn) : (d.setFl i x).tins = d.tins := rfl
@[simp] theorem Dev.setFl_tinMerge (d : Dev) (i : Nat) (x : FloatDyn) : (d.setFl i x).tinMerge = d.tinMerge := rfl
@[simp] theorem Dev.setFl_ctxs (d : Dev) (i : Nat) (x : FloatDyn) : (d.setFl i x).ctxs = d.ctxs := rfl
@[simp] theorem Dev.setFl_stops (d : Dev) (i : Nat) (x : FloatDyn) : (d.setFl i x).stops = d.stops := rfl
@[simp] theorem Dev.setFl_steps (d : Dev) (i : Nat) (x : FloatDyn) : (d.setFl i x).steps = d.steps := rfl
@[simp] theorem Dev.setFl_esc (d : Dev) (i : Nat) (x : FloatDyn) : (d.setFl i x).esc = d.esc := rfl
@[simp] theorem Dev.setFl_cw (d : Dev) (i : Nat) (x : FloatDyn) : (d.setFl i x).cw = d.cw := rfl
@[simp] theorem Dev.setFl_mgmt (d : Dev) (i : Nat) (x : FloatDyn) : (d.setFl i x).mgmt = d.mgmt := rfl
@[simp] theorem Dev.setFl_vl (d : Dev) (i : Nat) (x : FloatDyn) : (d.setFl i x).vl = d.vl := rfl
@[simp] theorem Dev.setFl_health (d : Dev) (i : Nat) (x : FloatDyn) : (d.setFl i x).health = d.health := rfl
@[simp] theorem Dev.setFl_mon (d : Dev) (i : Nat) (x : FloatDyn) : (d.setFl i x).mon = d.mon := rfl
@[simp] theorem Dev.setFl_ue (d : Dev) (i : Nat) (x : FloatDyn) : (d.setFl i x).ue = d.ue := rfl
@[simp] theorem Dev.setFl_lbUe (d : Dev) (i : Nat) (x : FloatDyn) : (d.setFl i x).lbUe = d.lbUe := rfl
@[simp] theorem Dev.setFl_holds (d : Dev) (i : Nat) (x : FloatDyn) : (d.setFl i x).holds = d.holds := rfl

/-! ### setWeir -/

@[simp] theorem Dev.setWeir_regs (d : Dev) (x : Weir) : (d.setWeir x).regs = d.regs := rfl
@[simp] theorem Dev.setWeir_units (d : Dev) (x : Weir) : (d.setWeir x).units = d.units := rfl
@[simp] theorem Dev.setWeir_gens (d : Dev) (x : Weir) : (d.setWeir x).gens = d.gens := rfl
@[simp] theorem Dev.setWeir_settling (d : Dev) (x : Weir) : (d.setWeir x).settling = d.settling := rfl
@[simp] theorem Dev.setWeir_pwr (d : Dev) (x : Weir) : (d.setWeir x).pwr = d.pwr := rfl
@[simp] theorem Dev.setWeir_pitch (d : Dev) (x : Weir) : (d.setWeir x).pitch = d.pitch := rfl
@[simp] theorem Dev.setWeir_cps (d : Dev) (x : Weir) : (d.setWeir x).cps = d.cps := rfl
@[simp] theorem Dev.setWeir_ic (d : Dev) (x : Weir) : (d.setWeir x).ic = d.ic := rfl
@[simp] theorem Dev.setWeir_fab (d : Dev) (x : Weir) : (d.setWeir x).fab = d.fab := rfl
@[simp] theorem Dev.setWeir_host (d : Dev) (x : Weir) : (d.setWeir x).host = d.host := rfl
@[simp] theorem Dev.setWeir_stove (d : Dev) (x : Weir) : (d.setWeir x).stove = d.stove := rfl
@[simp] theorem Dev.setWeir_chans (d : Dev) (x : Weir) : (d.setWeir x).chans = d.chans := rfl
@[simp] theorem Dev.setWeir_streams (d : Dev) (x : Weir) : (d.setWeir x).streams = d.streams := rfl
@[simp] theorem Dev.setWeir_reeds (d : Dev) (x : Weir) : (d.setWeir x).reeds = d.reeds := rfl
@[simp] theorem Dev.setWeir_floats (d : Dev) (x : Weir) : (d.setWeir x).floats = d.floats := rfl
@[simp] theorem Dev.setWeir_timers (d : Dev) (x : Weir) : (d.setWeir x).timers = d.timers := rfl
@[simp] theorem Dev.setWeir_tins (d : Dev) (x : Weir) : (d.setWeir x).tins = d.tins := rfl
@[simp] theorem Dev.setWeir_tinMerge (d : Dev) (x : Weir) : (d.setWeir x).tinMerge = d.tinMerge := rfl
@[simp] theorem Dev.setWeir_ctxs (d : Dev) (x : Weir) : (d.setWeir x).ctxs = d.ctxs := rfl
@[simp] theorem Dev.setWeir_stops (d : Dev) (x : Weir) : (d.setWeir x).stops = d.stops := rfl
@[simp] theorem Dev.setWeir_steps (d : Dev) (x : Weir) : (d.setWeir x).steps = d.steps := rfl
@[simp] theorem Dev.setWeir_esc (d : Dev) (x : Weir) : (d.setWeir x).esc = d.esc := rfl
@[simp] theorem Dev.setWeir_cw (d : Dev) (x : Weir) : (d.setWeir x).cw = d.cw := rfl
@[simp] theorem Dev.setWeir_mgmt (d : Dev) (x : Weir) : (d.setWeir x).mgmt = d.mgmt := rfl
@[simp] theorem Dev.setWeir_vl (d : Dev) (x : Weir) : (d.setWeir x).vl = d.vl := rfl
@[simp] theorem Dev.setWeir_health (d : Dev) (x : Weir) : (d.setWeir x).health = d.health := rfl
@[simp] theorem Dev.setWeir_mon (d : Dev) (x : Weir) : (d.setWeir x).mon = d.mon := rfl
@[simp] theorem Dev.setWeir_ue (d : Dev) (x : Weir) : (d.setWeir x).ue = d.ue := rfl
@[simp] theorem Dev.setWeir_lbUe (d : Dev) (x : Weir) : (d.setWeir x).lbUe = d.lbUe := rfl
@[simp] theorem Dev.setWeir_holds (d : Dev) (x : Weir) : (d.setWeir x).holds = d.holds := rfl

/-! ### setTm -/

@[simp] theorem Dev.setTm_regs (d : Dev) (t : Nat) (x : TimerDyn) : (d.setTm t x).regs = d.regs := rfl
@[simp] theorem Dev.setTm_units (d : Dev) (t : Nat) (x : TimerDyn) : (d.setTm t x).units = d.units := rfl
@[simp] theorem Dev.setTm_gens (d : Dev) (t : Nat) (x : TimerDyn) : (d.setTm t x).gens = d.gens := rfl
@[simp] theorem Dev.setTm_settling (d : Dev) (t : Nat) (x : TimerDyn) : (d.setTm t x).settling = d.settling := rfl
@[simp] theorem Dev.setTm_pwr (d : Dev) (t : Nat) (x : TimerDyn) : (d.setTm t x).pwr = d.pwr := rfl
@[simp] theorem Dev.setTm_pitch (d : Dev) (t : Nat) (x : TimerDyn) : (d.setTm t x).pitch = d.pitch := rfl
@[simp] theorem Dev.setTm_cps (d : Dev) (t : Nat) (x : TimerDyn) : (d.setTm t x).cps = d.cps := rfl
@[simp] theorem Dev.setTm_ic (d : Dev) (t : Nat) (x : TimerDyn) : (d.setTm t x).ic = d.ic := rfl
@[simp] theorem Dev.setTm_fab (d : Dev) (t : Nat) (x : TimerDyn) : (d.setTm t x).fab = d.fab := rfl
@[simp] theorem Dev.setTm_host (d : Dev) (t : Nat) (x : TimerDyn) : (d.setTm t x).host = d.host := rfl
@[simp] theorem Dev.setTm_stove (d : Dev) (t : Nat) (x : TimerDyn) : (d.setTm t x).stove = d.stove := rfl
@[simp] theorem Dev.setTm_chans (d : Dev) (t : Nat) (x : TimerDyn) : (d.setTm t x).chans = d.chans := rfl
@[simp] theorem Dev.setTm_streams (d : Dev) (t : Nat) (x : TimerDyn) : (d.setTm t x).streams = d.streams := rfl
@[simp] theorem Dev.setTm_reeds (d : Dev) (t : Nat) (x : TimerDyn) : (d.setTm t x).reeds = d.reeds := rfl
@[simp] theorem Dev.setTm_floats (d : Dev) (t : Nat) (x : TimerDyn) : (d.setTm t x).floats = d.floats := rfl
@[simp] theorem Dev.setTm_weir (d : Dev) (t : Nat) (x : TimerDyn) : (d.setTm t x).weir = d.weir := rfl
@[simp] theorem Dev.setTm_tins (d : Dev) (t : Nat) (x : TimerDyn) : (d.setTm t x).tins = d.tins := rfl
@[simp] theorem Dev.setTm_tinMerge (d : Dev) (t : Nat) (x : TimerDyn) : (d.setTm t x).tinMerge = d.tinMerge := rfl
@[simp] theorem Dev.setTm_ctxs (d : Dev) (t : Nat) (x : TimerDyn) : (d.setTm t x).ctxs = d.ctxs := rfl
@[simp] theorem Dev.setTm_stops (d : Dev) (t : Nat) (x : TimerDyn) : (d.setTm t x).stops = d.stops := rfl
@[simp] theorem Dev.setTm_steps (d : Dev) (t : Nat) (x : TimerDyn) : (d.setTm t x).steps = d.steps := rfl
@[simp] theorem Dev.setTm_esc (d : Dev) (t : Nat) (x : TimerDyn) : (d.setTm t x).esc = d.esc := rfl
@[simp] theorem Dev.setTm_cw (d : Dev) (t : Nat) (x : TimerDyn) : (d.setTm t x).cw = d.cw := rfl
@[simp] theorem Dev.setTm_mgmt (d : Dev) (t : Nat) (x : TimerDyn) : (d.setTm t x).mgmt = d.mgmt := rfl
@[simp] theorem Dev.setTm_vl (d : Dev) (t : Nat) (x : TimerDyn) : (d.setTm t x).vl = d.vl := rfl
@[simp] theorem Dev.setTm_health (d : Dev) (t : Nat) (x : TimerDyn) : (d.setTm t x).health = d.health := rfl
@[simp] theorem Dev.setTm_mon (d : Dev) (t : Nat) (x : TimerDyn) : (d.setTm t x).mon = d.mon := rfl
@[simp] theorem Dev.setTm_ue (d : Dev) (t : Nat) (x : TimerDyn) : (d.setTm t x).ue = d.ue := rfl
@[simp] theorem Dev.setTm_lbUe (d : Dev) (t : Nat) (x : TimerDyn) : (d.setTm t x).lbUe = d.lbUe := rfl
@[simp] theorem Dev.setTm_holds (d : Dev) (t : Nat) (x : TimerDyn) : (d.setTm t x).holds = d.holds := rfl

/-! ### setTin -/

@[simp] theorem Dev.setTin_regs (d : Dev) (n : Nat) (x : TinDyn) : (d.setTin n x).regs = d.regs := rfl
@[simp] theorem Dev.setTin_units (d : Dev) (n : Nat) (x : TinDyn) : (d.setTin n x).units = d.units := rfl
@[simp] theorem Dev.setTin_gens (d : Dev) (n : Nat) (x : TinDyn) : (d.setTin n x).gens = d.gens := rfl
@[simp] theorem Dev.setTin_settling (d : Dev) (n : Nat) (x : TinDyn) : (d.setTin n x).settling = d.settling := rfl
@[simp] theorem Dev.setTin_pwr (d : Dev) (n : Nat) (x : TinDyn) : (d.setTin n x).pwr = d.pwr := rfl
@[simp] theorem Dev.setTin_pitch (d : Dev) (n : Nat) (x : TinDyn) : (d.setTin n x).pitch = d.pitch := rfl
@[simp] theorem Dev.setTin_cps (d : Dev) (n : Nat) (x : TinDyn) : (d.setTin n x).cps = d.cps := rfl
@[simp] theorem Dev.setTin_ic (d : Dev) (n : Nat) (x : TinDyn) : (d.setTin n x).ic = d.ic := rfl
@[simp] theorem Dev.setTin_fab (d : Dev) (n : Nat) (x : TinDyn) : (d.setTin n x).fab = d.fab := rfl
@[simp] theorem Dev.setTin_host (d : Dev) (n : Nat) (x : TinDyn) : (d.setTin n x).host = d.host := rfl
@[simp] theorem Dev.setTin_stove (d : Dev) (n : Nat) (x : TinDyn) : (d.setTin n x).stove = d.stove := rfl
@[simp] theorem Dev.setTin_chans (d : Dev) (n : Nat) (x : TinDyn) : (d.setTin n x).chans = d.chans := rfl
@[simp] theorem Dev.setTin_streams (d : Dev) (n : Nat) (x : TinDyn) : (d.setTin n x).streams = d.streams := rfl
@[simp] theorem Dev.setTin_reeds (d : Dev) (n : Nat) (x : TinDyn) : (d.setTin n x).reeds = d.reeds := rfl
@[simp] theorem Dev.setTin_floats (d : Dev) (n : Nat) (x : TinDyn) : (d.setTin n x).floats = d.floats := rfl
@[simp] theorem Dev.setTin_weir (d : Dev) (n : Nat) (x : TinDyn) : (d.setTin n x).weir = d.weir := rfl
@[simp] theorem Dev.setTin_timers (d : Dev) (n : Nat) (x : TinDyn) : (d.setTin n x).timers = d.timers := rfl
@[simp] theorem Dev.setTin_tinMerge (d : Dev) (n : Nat) (x : TinDyn) : (d.setTin n x).tinMerge = d.tinMerge := rfl
@[simp] theorem Dev.setTin_ctxs (d : Dev) (n : Nat) (x : TinDyn) : (d.setTin n x).ctxs = d.ctxs := rfl
@[simp] theorem Dev.setTin_stops (d : Dev) (n : Nat) (x : TinDyn) : (d.setTin n x).stops = d.stops := rfl
@[simp] theorem Dev.setTin_steps (d : Dev) (n : Nat) (x : TinDyn) : (d.setTin n x).steps = d.steps := rfl
@[simp] theorem Dev.setTin_esc (d : Dev) (n : Nat) (x : TinDyn) : (d.setTin n x).esc = d.esc := rfl
@[simp] theorem Dev.setTin_cw (d : Dev) (n : Nat) (x : TinDyn) : (d.setTin n x).cw = d.cw := rfl
@[simp] theorem Dev.setTin_mgmt (d : Dev) (n : Nat) (x : TinDyn) : (d.setTin n x).mgmt = d.mgmt := rfl
@[simp] theorem Dev.setTin_vl (d : Dev) (n : Nat) (x : TinDyn) : (d.setTin n x).vl = d.vl := rfl
@[simp] theorem Dev.setTin_health (d : Dev) (n : Nat) (x : TinDyn) : (d.setTin n x).health = d.health := rfl
@[simp] theorem Dev.setTin_mon (d : Dev) (n : Nat) (x : TinDyn) : (d.setTin n x).mon = d.mon := rfl
@[simp] theorem Dev.setTin_ue (d : Dev) (n : Nat) (x : TinDyn) : (d.setTin n x).ue = d.ue := rfl
@[simp] theorem Dev.setTin_lbUe (d : Dev) (n : Nat) (x : TinDyn) : (d.setTin n x).lbUe = d.lbUe := rfl
@[simp] theorem Dev.setTin_holds (d : Dev) (n : Nat) (x : TinDyn) : (d.setTin n x).holds = d.holds := rfl

/-! ### setCtx -/

@[simp] theorem Dev.setCtx_regs (d : Dev) (x : Nat) (c : Core) : (d.setCtx x c).regs = d.regs := rfl
@[simp] theorem Dev.setCtx_units (d : Dev) (x : Nat) (c : Core) : (d.setCtx x c).units = d.units := rfl
@[simp] theorem Dev.setCtx_gens (d : Dev) (x : Nat) (c : Core) : (d.setCtx x c).gens = d.gens := rfl
@[simp] theorem Dev.setCtx_settling (d : Dev) (x : Nat) (c : Core) : (d.setCtx x c).settling = d.settling := rfl
@[simp] theorem Dev.setCtx_pwr (d : Dev) (x : Nat) (c : Core) : (d.setCtx x c).pwr = d.pwr := rfl
@[simp] theorem Dev.setCtx_pitch (d : Dev) (x : Nat) (c : Core) : (d.setCtx x c).pitch = d.pitch := rfl
@[simp] theorem Dev.setCtx_cps (d : Dev) (x : Nat) (c : Core) : (d.setCtx x c).cps = d.cps := rfl
@[simp] theorem Dev.setCtx_ic (d : Dev) (x : Nat) (c : Core) : (d.setCtx x c).ic = d.ic := rfl
@[simp] theorem Dev.setCtx_fab (d : Dev) (x : Nat) (c : Core) : (d.setCtx x c).fab = d.fab := rfl
@[simp] theorem Dev.setCtx_host (d : Dev) (x : Nat) (c : Core) : (d.setCtx x c).host = d.host := rfl
@[simp] theorem Dev.setCtx_stove (d : Dev) (x : Nat) (c : Core) : (d.setCtx x c).stove = d.stove := rfl
@[simp] theorem Dev.setCtx_chans (d : Dev) (x : Nat) (c : Core) : (d.setCtx x c).chans = d.chans := rfl
@[simp] theorem Dev.setCtx_streams (d : Dev) (x : Nat) (c : Core) : (d.setCtx x c).streams = d.streams := rfl
@[simp] theorem Dev.setCtx_reeds (d : Dev) (x : Nat) (c : Core) : (d.setCtx x c).reeds = d.reeds := rfl
@[simp] theorem Dev.setCtx_floats (d : Dev) (x : Nat) (c : Core) : (d.setCtx x c).floats = d.floats := rfl
@[simp] theorem Dev.setCtx_weir (d : Dev) (x : Nat) (c : Core) : (d.setCtx x c).weir = d.weir := rfl
@[simp] theorem Dev.setCtx_timers (d : Dev) (x : Nat) (c : Core) : (d.setCtx x c).timers = d.timers := rfl
@[simp] theorem Dev.setCtx_tins (d : Dev) (x : Nat) (c : Core) : (d.setCtx x c).tins = d.tins := rfl
@[simp] theorem Dev.setCtx_tinMerge (d : Dev) (x : Nat) (c : Core) : (d.setCtx x c).tinMerge = d.tinMerge := rfl
@[simp] theorem Dev.setCtx_stops (d : Dev) (x : Nat) (c : Core) : (d.setCtx x c).stops = d.stops := rfl
@[simp] theorem Dev.setCtx_steps (d : Dev) (x : Nat) (c : Core) : (d.setCtx x c).steps = d.steps := rfl
@[simp] theorem Dev.setCtx_esc (d : Dev) (x : Nat) (c : Core) : (d.setCtx x c).esc = d.esc := rfl
@[simp] theorem Dev.setCtx_cw (d : Dev) (x : Nat) (c : Core) : (d.setCtx x c).cw = d.cw := rfl
@[simp] theorem Dev.setCtx_mgmt (d : Dev) (x : Nat) (c : Core) : (d.setCtx x c).mgmt = d.mgmt := rfl
@[simp] theorem Dev.setCtx_vl (d : Dev) (x : Nat) (c : Core) : (d.setCtx x c).vl = d.vl := rfl
@[simp] theorem Dev.setCtx_health (d : Dev) (x : Nat) (c : Core) : (d.setCtx x c).health = d.health := rfl
@[simp] theorem Dev.setCtx_mon (d : Dev) (x : Nat) (c : Core) : (d.setCtx x c).mon = d.mon := rfl
@[simp] theorem Dev.setCtx_ue (d : Dev) (x : Nat) (c : Core) : (d.setCtx x c).ue = d.ue := rfl
@[simp] theorem Dev.setCtx_lbUe (d : Dev) (x : Nat) (c : Core) : (d.setCtx x c).lbUe = d.lbUe := rfl
@[simp] theorem Dev.setCtx_holds (d : Dev) (x : Nat) (c : Core) : (d.setCtx x c).holds = d.holds := rfl

/-! ### setEsc -/

@[simp] theorem Dev.setEsc_regs (d : Dev) (e : Esc) : (d.setEsc e).regs = d.regs := rfl
@[simp] theorem Dev.setEsc_units (d : Dev) (e : Esc) : (d.setEsc e).units = d.units := rfl
@[simp] theorem Dev.setEsc_gens (d : Dev) (e : Esc) : (d.setEsc e).gens = d.gens := rfl
@[simp] theorem Dev.setEsc_settling (d : Dev) (e : Esc) : (d.setEsc e).settling = d.settling := rfl
@[simp] theorem Dev.setEsc_pwr (d : Dev) (e : Esc) : (d.setEsc e).pwr = d.pwr := rfl
@[simp] theorem Dev.setEsc_pitch (d : Dev) (e : Esc) : (d.setEsc e).pitch = d.pitch := rfl
@[simp] theorem Dev.setEsc_cps (d : Dev) (e : Esc) : (d.setEsc e).cps = d.cps := rfl
@[simp] theorem Dev.setEsc_ic (d : Dev) (e : Esc) : (d.setEsc e).ic = d.ic := rfl
@[simp] theorem Dev.setEsc_fab (d : Dev) (e : Esc) : (d.setEsc e).fab = d.fab := rfl
@[simp] theorem Dev.setEsc_host (d : Dev) (e : Esc) : (d.setEsc e).host = d.host := rfl
@[simp] theorem Dev.setEsc_stove (d : Dev) (e : Esc) : (d.setEsc e).stove = d.stove := rfl
@[simp] theorem Dev.setEsc_chans (d : Dev) (e : Esc) : (d.setEsc e).chans = d.chans := rfl
@[simp] theorem Dev.setEsc_streams (d : Dev) (e : Esc) : (d.setEsc e).streams = d.streams := rfl
@[simp] theorem Dev.setEsc_reeds (d : Dev) (e : Esc) : (d.setEsc e).reeds = d.reeds := rfl
@[simp] theorem Dev.setEsc_floats (d : Dev) (e : Esc) : (d.setEsc e).floats = d.floats := rfl
@[simp] theorem Dev.setEsc_weir (d : Dev) (e : Esc) : (d.setEsc e).weir = d.weir := rfl
@[simp] theorem Dev.setEsc_timers (d : Dev) (e : Esc) : (d.setEsc e).timers = d.timers := rfl
@[simp] theorem Dev.setEsc_tins (d : Dev) (e : Esc) : (d.setEsc e).tins = d.tins := rfl
@[simp] theorem Dev.setEsc_tinMerge (d : Dev) (e : Esc) : (d.setEsc e).tinMerge = d.tinMerge := rfl
@[simp] theorem Dev.setEsc_ctxs (d : Dev) (e : Esc) : (d.setEsc e).ctxs = d.ctxs := rfl
@[simp] theorem Dev.setEsc_stops (d : Dev) (e : Esc) : (d.setEsc e).stops = d.stops := rfl
@[simp] theorem Dev.setEsc_steps (d : Dev) (e : Esc) : (d.setEsc e).steps = d.steps := rfl
@[simp] theorem Dev.setEsc_cw (d : Dev) (e : Esc) : (d.setEsc e).cw = d.cw := rfl
@[simp] theorem Dev.setEsc_mgmt (d : Dev) (e : Esc) : (d.setEsc e).mgmt = d.mgmt := rfl
@[simp] theorem Dev.setEsc_vl (d : Dev) (e : Esc) : (d.setEsc e).vl = d.vl := rfl
@[simp] theorem Dev.setEsc_health (d : Dev) (e : Esc) : (d.setEsc e).health = d.health := rfl
@[simp] theorem Dev.setEsc_mon (d : Dev) (e : Esc) : (d.setEsc e).mon = d.mon := rfl
@[simp] theorem Dev.setEsc_ue (d : Dev) (e : Esc) : (d.setEsc e).ue = d.ue := rfl
@[simp] theorem Dev.setEsc_lbUe (d : Dev) (e : Esc) : (d.setEsc e).lbUe = d.lbUe := rfl
@[simp] theorem Dev.setEsc_holds (d : Dev) (e : Esc) : (d.setEsc e).holds = d.holds := rfl

/-! ### setCw -/

@[simp] theorem Dev.setCw_regs (d : Dev) (c : Campwatch) : (d.setCw c).regs = d.regs := rfl
@[simp] theorem Dev.setCw_units (d : Dev) (c : Campwatch) : (d.setCw c).units = d.units := rfl
@[simp] theorem Dev.setCw_gens (d : Dev) (c : Campwatch) : (d.setCw c).gens = d.gens := rfl
@[simp] theorem Dev.setCw_settling (d : Dev) (c : Campwatch) : (d.setCw c).settling = d.settling := rfl
@[simp] theorem Dev.setCw_pwr (d : Dev) (c : Campwatch) : (d.setCw c).pwr = d.pwr := rfl
@[simp] theorem Dev.setCw_pitch (d : Dev) (c : Campwatch) : (d.setCw c).pitch = d.pitch := rfl
@[simp] theorem Dev.setCw_cps (d : Dev) (c : Campwatch) : (d.setCw c).cps = d.cps := rfl
@[simp] theorem Dev.setCw_ic (d : Dev) (c : Campwatch) : (d.setCw c).ic = d.ic := rfl
@[simp] theorem Dev.setCw_fab (d : Dev) (c : Campwatch) : (d.setCw c).fab = d.fab := rfl
@[simp] theorem Dev.setCw_host (d : Dev) (c : Campwatch) : (d.setCw c).host = d.host := rfl
@[simp] theorem Dev.setCw_stove (d : Dev) (c : Campwatch) : (d.setCw c).stove = d.stove := rfl
@[simp] theorem Dev.setCw_chans (d : Dev) (c : Campwatch) : (d.setCw c).chans = d.chans := rfl
@[simp] theorem Dev.setCw_streams (d : Dev) (c : Campwatch) : (d.setCw c).streams = d.streams := rfl
@[simp] theorem Dev.setCw_reeds (d : Dev) (c : Campwatch) : (d.setCw c).reeds = d.reeds := rfl
@[simp] theorem Dev.setCw_floats (d : Dev) (c : Campwatch) : (d.setCw c).floats = d.floats := rfl
@[simp] theorem Dev.setCw_weir (d : Dev) (c : Campwatch) : (d.setCw c).weir = d.weir := rfl
@[simp] theorem Dev.setCw_timers (d : Dev) (c : Campwatch) : (d.setCw c).timers = d.timers := rfl
@[simp] theorem Dev.setCw_tins (d : Dev) (c : Campwatch) : (d.setCw c).tins = d.tins := rfl
@[simp] theorem Dev.setCw_tinMerge (d : Dev) (c : Campwatch) : (d.setCw c).tinMerge = d.tinMerge := rfl
@[simp] theorem Dev.setCw_ctxs (d : Dev) (c : Campwatch) : (d.setCw c).ctxs = d.ctxs := rfl
@[simp] theorem Dev.setCw_stops (d : Dev) (c : Campwatch) : (d.setCw c).stops = d.stops := rfl
@[simp] theorem Dev.setCw_steps (d : Dev) (c : Campwatch) : (d.setCw c).steps = d.steps := rfl
@[simp] theorem Dev.setCw_esc (d : Dev) (c : Campwatch) : (d.setCw c).esc = d.esc := rfl
@[simp] theorem Dev.setCw_mgmt (d : Dev) (c : Campwatch) : (d.setCw c).mgmt = d.mgmt := rfl
@[simp] theorem Dev.setCw_vl (d : Dev) (c : Campwatch) : (d.setCw c).vl = d.vl := rfl
@[simp] theorem Dev.setCw_health (d : Dev) (c : Campwatch) : (d.setCw c).health = d.health := rfl
@[simp] theorem Dev.setCw_mon (d : Dev) (c : Campwatch) : (d.setCw c).mon = d.mon := rfl
@[simp] theorem Dev.setCw_ue (d : Dev) (c : Campwatch) : (d.setCw c).ue = d.ue := rfl
@[simp] theorem Dev.setCw_lbUe (d : Dev) (c : Campwatch) : (d.setCw c).lbUe = d.lbUe := rfl
@[simp] theorem Dev.setCw_holds (d : Dev) (c : Campwatch) : (d.setCw c).holds = d.holds := rfl

/-! ### setVl -/

@[simp] theorem Dev.setVl_regs (d : Dev) (v : Vierma) : (d.setVl v).regs = d.regs := rfl
@[simp] theorem Dev.setVl_units (d : Dev) (v : Vierma) : (d.setVl v).units = d.units := rfl
@[simp] theorem Dev.setVl_gens (d : Dev) (v : Vierma) : (d.setVl v).gens = d.gens := rfl
@[simp] theorem Dev.setVl_settling (d : Dev) (v : Vierma) : (d.setVl v).settling = d.settling := rfl
@[simp] theorem Dev.setVl_pwr (d : Dev) (v : Vierma) : (d.setVl v).pwr = d.pwr := rfl
@[simp] theorem Dev.setVl_pitch (d : Dev) (v : Vierma) : (d.setVl v).pitch = d.pitch := rfl
@[simp] theorem Dev.setVl_cps (d : Dev) (v : Vierma) : (d.setVl v).cps = d.cps := rfl
@[simp] theorem Dev.setVl_ic (d : Dev) (v : Vierma) : (d.setVl v).ic = d.ic := rfl
@[simp] theorem Dev.setVl_fab (d : Dev) (v : Vierma) : (d.setVl v).fab = d.fab := rfl
@[simp] theorem Dev.setVl_host (d : Dev) (v : Vierma) : (d.setVl v).host = d.host := rfl
@[simp] theorem Dev.setVl_stove (d : Dev) (v : Vierma) : (d.setVl v).stove = d.stove := rfl
@[simp] theorem Dev.setVl_chans (d : Dev) (v : Vierma) : (d.setVl v).chans = d.chans := rfl
@[simp] theorem Dev.setVl_streams (d : Dev) (v : Vierma) : (d.setVl v).streams = d.streams := rfl
@[simp] theorem Dev.setVl_reeds (d : Dev) (v : Vierma) : (d.setVl v).reeds = d.reeds := rfl
@[simp] theorem Dev.setVl_floats (d : Dev) (v : Vierma) : (d.setVl v).floats = d.floats := rfl
@[simp] theorem Dev.setVl_weir (d : Dev) (v : Vierma) : (d.setVl v).weir = d.weir := rfl
@[simp] theorem Dev.setVl_timers (d : Dev) (v : Vierma) : (d.setVl v).timers = d.timers := rfl
@[simp] theorem Dev.setVl_tins (d : Dev) (v : Vierma) : (d.setVl v).tins = d.tins := rfl
@[simp] theorem Dev.setVl_tinMerge (d : Dev) (v : Vierma) : (d.setVl v).tinMerge = d.tinMerge := rfl
@[simp] theorem Dev.setVl_ctxs (d : Dev) (v : Vierma) : (d.setVl v).ctxs = d.ctxs := rfl
@[simp] theorem Dev.setVl_stops (d : Dev) (v : Vierma) : (d.setVl v).stops = d.stops := rfl
@[simp] theorem Dev.setVl_steps (d : Dev) (v : Vierma) : (d.setVl v).steps = d.steps := rfl
@[simp] theorem Dev.setVl_esc (d : Dev) (v : Vierma) : (d.setVl v).esc = d.esc := rfl
@[simp] theorem Dev.setVl_cw (d : Dev) (v : Vierma) : (d.setVl v).cw = d.cw := rfl
@[simp] theorem Dev.setVl_mgmt (d : Dev) (v : Vierma) : (d.setVl v).mgmt = d.mgmt := rfl
@[simp] theorem Dev.setVl_health (d : Dev) (v : Vierma) : (d.setVl v).health = d.health := rfl
@[simp] theorem Dev.setVl_mon (d : Dev) (v : Vierma) : (d.setVl v).mon = d.mon := rfl
@[simp] theorem Dev.setVl_ue (d : Dev) (v : Vierma) : (d.setVl v).ue = d.ue := rfl
@[simp] theorem Dev.setVl_lbUe (d : Dev) (v : Vierma) : (d.setVl v).lbUe = d.lbUe := rfl
@[simp] theorem Dev.setVl_holds (d : Dev) (v : Vierma) : (d.setVl v).holds = d.holds := rfl

/-! ### setHealth -/

@[simp] theorem Dev.setHealth_regs (d : Dev) (h : Health) : (d.setHealth h).regs = d.regs := rfl
@[simp] theorem Dev.setHealth_units (d : Dev) (h : Health) : (d.setHealth h).units = d.units := rfl
@[simp] theorem Dev.setHealth_gens (d : Dev) (h : Health) : (d.setHealth h).gens = d.gens := rfl
@[simp] theorem Dev.setHealth_settling (d : Dev) (h : Health) : (d.setHealth h).settling = d.settling := rfl
@[simp] theorem Dev.setHealth_pwr (d : Dev) (h : Health) : (d.setHealth h).pwr = d.pwr := rfl
@[simp] theorem Dev.setHealth_pitch (d : Dev) (h : Health) : (d.setHealth h).pitch = d.pitch := rfl
@[simp] theorem Dev.setHealth_cps (d : Dev) (h : Health) : (d.setHealth h).cps = d.cps := rfl
@[simp] theorem Dev.setHealth_ic (d : Dev) (h : Health) : (d.setHealth h).ic = d.ic := rfl
@[simp] theorem Dev.setHealth_fab (d : Dev) (h : Health) : (d.setHealth h).fab = d.fab := rfl
@[simp] theorem Dev.setHealth_host (d : Dev) (h : Health) : (d.setHealth h).host = d.host := rfl
@[simp] theorem Dev.setHealth_stove (d : Dev) (h : Health) : (d.setHealth h).stove = d.stove := rfl
@[simp] theorem Dev.setHealth_chans (d : Dev) (h : Health) : (d.setHealth h).chans = d.chans := rfl
@[simp] theorem Dev.setHealth_streams (d : Dev) (h : Health) : (d.setHealth h).streams = d.streams := rfl
@[simp] theorem Dev.setHealth_reeds (d : Dev) (h : Health) : (d.setHealth h).reeds = d.reeds := rfl
@[simp] theorem Dev.setHealth_floats (d : Dev) (h : Health) : (d.setHealth h).floats = d.floats := rfl
@[simp] theorem Dev.setHealth_weir (d : Dev) (h : Health) : (d.setHealth h).weir = d.weir := rfl
@[simp] theorem Dev.setHealth_timers (d : Dev) (h : Health) : (d.setHealth h).timers = d.timers := rfl
@[simp] theorem Dev.setHealth_tins (d : Dev) (h : Health) : (d.setHealth h).tins = d.tins := rfl
@[simp] theorem Dev.setHealth_tinMerge (d : Dev) (h : Health) : (d.setHealth h).tinMerge = d.tinMerge := rfl
@[simp] theorem Dev.setHealth_ctxs (d : Dev) (h : Health) : (d.setHealth h).ctxs = d.ctxs := rfl
@[simp] theorem Dev.setHealth_stops (d : Dev) (h : Health) : (d.setHealth h).stops = d.stops := rfl
@[simp] theorem Dev.setHealth_steps (d : Dev) (h : Health) : (d.setHealth h).steps = d.steps := rfl
@[simp] theorem Dev.setHealth_esc (d : Dev) (h : Health) : (d.setHealth h).esc = d.esc := rfl
@[simp] theorem Dev.setHealth_cw (d : Dev) (h : Health) : (d.setHealth h).cw = d.cw := rfl
@[simp] theorem Dev.setHealth_mgmt (d : Dev) (h : Health) : (d.setHealth h).mgmt = d.mgmt := rfl
@[simp] theorem Dev.setHealth_vl (d : Dev) (h : Health) : (d.setHealth h).vl = d.vl := rfl
@[simp] theorem Dev.setHealth_mon (d : Dev) (h : Health) : (d.setHealth h).mon = d.mon := rfl
@[simp] theorem Dev.setHealth_ue (d : Dev) (h : Health) : (d.setHealth h).ue = d.ue := rfl
@[simp] theorem Dev.setHealth_lbUe (d : Dev) (h : Health) : (d.setHealth h).lbUe = d.lbUe := rfl
@[simp] theorem Dev.setHealth_holds (d : Dev) (h : Health) : (d.setHealth h).holds = d.holds := rfl

/-! ### updMgmt -/

@[simp] theorem Dev.updMgmt_regs (d : Dev) (f : Mgmt → Mgmt) : (d.updMgmt f).regs = d.regs := rfl
@[simp] theorem Dev.updMgmt_units (d : Dev) (f : Mgmt → Mgmt) : (d.updMgmt f).units = d.units := rfl
@[simp] theorem Dev.updMgmt_gens (d : Dev) (f : Mgmt → Mgmt) : (d.updMgmt f).gens = d.gens := rfl
@[simp] theorem Dev.updMgmt_settling (d : Dev) (f : Mgmt → Mgmt) : (d.updMgmt f).settling = d.settling := rfl
@[simp] theorem Dev.updMgmt_pwr (d : Dev) (f : Mgmt → Mgmt) : (d.updMgmt f).pwr = d.pwr := rfl
@[simp] theorem Dev.updMgmt_pitch (d : Dev) (f : Mgmt → Mgmt) : (d.updMgmt f).pitch = d.pitch := rfl
@[simp] theorem Dev.updMgmt_cps (d : Dev) (f : Mgmt → Mgmt) : (d.updMgmt f).cps = d.cps := rfl
@[simp] theorem Dev.updMgmt_ic (d : Dev) (f : Mgmt → Mgmt) : (d.updMgmt f).ic = d.ic := rfl
@[simp] theorem Dev.updMgmt_fab (d : Dev) (f : Mgmt → Mgmt) : (d.updMgmt f).fab = d.fab := rfl
@[simp] theorem Dev.updMgmt_host (d : Dev) (f : Mgmt → Mgmt) : (d.updMgmt f).host = d.host := rfl
@[simp] theorem Dev.updMgmt_stove (d : Dev) (f : Mgmt → Mgmt) : (d.updMgmt f).stove = d.stove := rfl
@[simp] theorem Dev.updMgmt_chans (d : Dev) (f : Mgmt → Mgmt) : (d.updMgmt f).chans = d.chans := rfl
@[simp] theorem Dev.updMgmt_streams (d : Dev) (f : Mgmt → Mgmt) : (d.updMgmt f).streams = d.streams := rfl
@[simp] theorem Dev.updMgmt_reeds (d : Dev) (f : Mgmt → Mgmt) : (d.updMgmt f).reeds = d.reeds := rfl
@[simp] theorem Dev.updMgmt_floats (d : Dev) (f : Mgmt → Mgmt) : (d.updMgmt f).floats = d.floats := rfl
@[simp] theorem Dev.updMgmt_weir (d : Dev) (f : Mgmt → Mgmt) : (d.updMgmt f).weir = d.weir := rfl
@[simp] theorem Dev.updMgmt_timers (d : Dev) (f : Mgmt → Mgmt) : (d.updMgmt f).timers = d.timers := rfl
@[simp] theorem Dev.updMgmt_tins (d : Dev) (f : Mgmt → Mgmt) : (d.updMgmt f).tins = d.tins := rfl
@[simp] theorem Dev.updMgmt_tinMerge (d : Dev) (f : Mgmt → Mgmt) : (d.updMgmt f).tinMerge = d.tinMerge := rfl
@[simp] theorem Dev.updMgmt_ctxs (d : Dev) (f : Mgmt → Mgmt) : (d.updMgmt f).ctxs = d.ctxs := rfl
@[simp] theorem Dev.updMgmt_stops (d : Dev) (f : Mgmt → Mgmt) : (d.updMgmt f).stops = d.stops := rfl
@[simp] theorem Dev.updMgmt_steps (d : Dev) (f : Mgmt → Mgmt) : (d.updMgmt f).steps = d.steps := rfl
@[simp] theorem Dev.updMgmt_esc (d : Dev) (f : Mgmt → Mgmt) : (d.updMgmt f).esc = d.esc := rfl
@[simp] theorem Dev.updMgmt_cw (d : Dev) (f : Mgmt → Mgmt) : (d.updMgmt f).cw = d.cw := rfl
@[simp] theorem Dev.updMgmt_vl (d : Dev) (f : Mgmt → Mgmt) : (d.updMgmt f).vl = d.vl := rfl
@[simp] theorem Dev.updMgmt_health (d : Dev) (f : Mgmt → Mgmt) : (d.updMgmt f).health = d.health := rfl
@[simp] theorem Dev.updMgmt_mon (d : Dev) (f : Mgmt → Mgmt) : (d.updMgmt f).mon = d.mon := rfl
@[simp] theorem Dev.updMgmt_ue (d : Dev) (f : Mgmt → Mgmt) : (d.updMgmt f).ue = d.ue := rfl
@[simp] theorem Dev.updMgmt_lbUe (d : Dev) (f : Mgmt → Mgmt) : (d.updMgmt f).lbUe = d.lbUe := rfl
@[simp] theorem Dev.updMgmt_holds (d : Dev) (f : Mgmt → Mgmt) : (d.updMgmt f).holds = d.holds := rfl

/-! ### updMon -/

@[simp] theorem Dev.updMon_regs (d : Dev) (f : Monitor → Monitor) : (d.updMon f).regs = d.regs := rfl
@[simp] theorem Dev.updMon_units (d : Dev) (f : Monitor → Monitor) : (d.updMon f).units = d.units := rfl
@[simp] theorem Dev.updMon_gens (d : Dev) (f : Monitor → Monitor) : (d.updMon f).gens = d.gens := rfl
@[simp] theorem Dev.updMon_settling (d : Dev) (f : Monitor → Monitor) : (d.updMon f).settling = d.settling := rfl
@[simp] theorem Dev.updMon_pwr (d : Dev) (f : Monitor → Monitor) : (d.updMon f).pwr = d.pwr := rfl
@[simp] theorem Dev.updMon_pitch (d : Dev) (f : Monitor → Monitor) : (d.updMon f).pitch = d.pitch := rfl
@[simp] theorem Dev.updMon_cps (d : Dev) (f : Monitor → Monitor) : (d.updMon f).cps = d.cps := rfl
@[simp] theorem Dev.updMon_ic (d : Dev) (f : Monitor → Monitor) : (d.updMon f).ic = d.ic := rfl
@[simp] theorem Dev.updMon_fab (d : Dev) (f : Monitor → Monitor) : (d.updMon f).fab = d.fab := rfl
@[simp] theorem Dev.updMon_host (d : Dev) (f : Monitor → Monitor) : (d.updMon f).host = d.host := rfl
@[simp] theorem Dev.updMon_stove (d : Dev) (f : Monitor → Monitor) : (d.updMon f).stove = d.stove := rfl
@[simp] theorem Dev.updMon_chans (d : Dev) (f : Monitor → Monitor) : (d.updMon f).chans = d.chans := rfl
@[simp] theorem Dev.updMon_streams (d : Dev) (f : Monitor → Monitor) : (d.updMon f).streams = d.streams := rfl
@[simp] theorem Dev.updMon_reeds (d : Dev) (f : Monitor → Monitor) : (d.updMon f).reeds = d.reeds := rfl
@[simp] theorem Dev.updMon_floats (d : Dev) (f : Monitor → Monitor) : (d.updMon f).floats = d.floats := rfl
@[simp] theorem Dev.updMon_weir (d : Dev) (f : Monitor → Monitor) : (d.updMon f).weir = d.weir := rfl
@[simp] theorem Dev.updMon_timers (d : Dev) (f : Monitor → Monitor) : (d.updMon f).timers = d.timers := rfl
@[simp] theorem Dev.updMon_tins (d : Dev) (f : Monitor → Monitor) : (d.updMon f).tins = d.tins := rfl
@[simp] theorem Dev.updMon_tinMerge (d : Dev) (f : Monitor → Monitor) : (d.updMon f).tinMerge = d.tinMerge := rfl
@[simp] theorem Dev.updMon_ctxs (d : Dev) (f : Monitor → Monitor) : (d.updMon f).ctxs = d.ctxs := rfl
@[simp] theorem Dev.updMon_stops (d : Dev) (f : Monitor → Monitor) : (d.updMon f).stops = d.stops := rfl
@[simp] theorem Dev.updMon_steps (d : Dev) (f : Monitor → Monitor) : (d.updMon f).steps = d.steps := rfl
@[simp] theorem Dev.updMon_esc (d : Dev) (f : Monitor → Monitor) : (d.updMon f).esc = d.esc := rfl
@[simp] theorem Dev.updMon_cw (d : Dev) (f : Monitor → Monitor) : (d.updMon f).cw = d.cw := rfl
@[simp] theorem Dev.updMon_mgmt (d : Dev) (f : Monitor → Monitor) : (d.updMon f).mgmt = d.mgmt := rfl
@[simp] theorem Dev.updMon_vl (d : Dev) (f : Monitor → Monitor) : (d.updMon f).vl = d.vl := rfl
@[simp] theorem Dev.updMon_health (d : Dev) (f : Monitor → Monitor) : (d.updMon f).health = d.health := rfl
@[simp] theorem Dev.updMon_ue (d : Dev) (f : Monitor → Monitor) : (d.updMon f).ue = d.ue := rfl
@[simp] theorem Dev.updMon_lbUe (d : Dev) (f : Monitor → Monitor) : (d.updMon f).lbUe = d.lbUe := rfl
@[simp] theorem Dev.updMon_holds (d : Dev) (f : Monitor → Monitor) : (d.updMon f).holds = d.holds := rfl

/-! ### What was written -/

@[simp] theorem Dev.setCps_cps (d : Dev) (x : Compass) : (d.setCps x).cps = x := rfl
@[simp] theorem Dev.setHost_host (d : Dev) (h : HostPort) : (d.setHost h).host = h := rfl
@[simp] theorem Dev.setStove_stove (d : Dev) (x : Stove) : (d.setStove x).stove = x := rfl
@[simp] theorem Dev.setWeir_weir (d : Dev) (x : Weir) : (d.setWeir x).weir = x := rfl
@[simp] theorem Dev.setEsc_esc (d : Dev) (e : Esc) : (d.setEsc e).esc = e := rfl
@[simp] theorem Dev.setCw_cw (d : Dev) (c : Campwatch) : (d.setCw c).cw = c := rfl
@[simp] theorem Dev.setVl_vl (d : Dev) (v : Vierma) : (d.setVl v).vl = v := rfl
@[simp] theorem Dev.setHealth_health (d : Dev) (h : Health) : (d.setHealth h).health = h := rfl
@[simp] theorem Dev.updMgmt_mgmt (d : Dev) (f : Mgmt → Mgmt) : (d.updMgmt f).mgmt = f d.mgmt := rfl
@[simp] theorem Dev.updMon_mon (d : Dev) (f : Monitor → Monitor) : (d.updMon f).mon = f d.mon := rfl

@[simp] theorem Dev.ctl_setCtl (d : Dev) (k : Nat) (y : PitchCtl) : (d.setCtl k y).ctl k = y := by simp [Dev.setCtl, Dev.ctl]
theorem Dev.ctl_setCtl_ne (d : Dev) {k : Nat} {j : Nat} (h : j ≠ k) (y : PitchCtl) : (d.setCtl k y).ctl j = d.ctl j := by
  simp [Dev.setCtl, Dev.ctl, SMap.get_put_ne _ _ h]
@[simp] theorem Dev.ch_setCh (d : Dev) (n : Nat) (y : ChanDyn) : (d.setCh n y).ch n = y := by simp [Dev.setCh, Dev.ch]
theorem Dev.ch_setCh_ne (d : Dev) {n : Nat} {j : Nat} (h : j ≠ n) (y : ChanDyn) : (d.setCh n y).ch j = d.ch j := by
  simp [Dev.setCh, Dev.ch, SMap.get_put_ne _ _ h]
@[simp] theorem Dev.fl_setFl (d : Dev) (i : Nat) (y : FloatDyn) : (d.setFl i y).fl i = y := by simp [Dev.setFl, Dev.fl]
theorem Dev.fl_setFl_ne (d : Dev) {i : Nat} {j : Nat} (h : j ≠ i) (y : FloatDyn) : (d.setFl i y).fl j = d.fl j := by
  simp [Dev.setFl, Dev.fl, SMap.get_put_ne _ _ h]
@[simp] theorem Dev.tm_setTm (d : Dev) (t : Nat) (y : TimerDyn) : (d.setTm t y).tm t = y := by simp [Dev.setTm, Dev.tm]
theorem Dev.tm_setTm_ne (d : Dev) {t : Nat} {j : Nat} (h : j ≠ t) (y : TimerDyn) : (d.setTm t y).tm j = d.tm j := by
  simp [Dev.setTm, Dev.tm, SMap.get_put_ne _ _ h]
@[simp] theorem Dev.tin_setTin (d : Dev) (n : Nat) (y : TinDyn) : (d.setTin n y).tin n = y := by simp [Dev.setTin, Dev.tin]
theorem Dev.tin_setTin_ne (d : Dev) {n : Nat} {j : Nat} (h : j ≠ n) (y : TinDyn) : (d.setTin n y).tin j = d.tin j := by
  simp [Dev.setTin, Dev.tin, SMap.get_put_ne _ _ h]
@[simp] theorem Dev.reed_setReed (d : Dev) (c : Nat) (y : Reed) : (d.setReed c y).reed c = y := by simp [Dev.setReed, Dev.reed]
theorem Dev.reed_setReed_ne (d : Dev) {c : Nat} {j : Nat} (h : j ≠ c) (y : Reed) : (d.setReed c y).reed j = d.reed j := by
  simp [Dev.setReed, Dev.reed, SMap.get_put_ne _ _ h]
@[simp] theorem Dev.rd_wr (d : Dev) (a : Nat) (w : Word) : (d.wr a w).rd a = w := by simp [Dev.wr, Dev.rd]
theorem Dev.rd_wr_ne (d : Dev) {a b : Nat} (h : b ≠ a) (w : Word) : (d.wr a w).rd b = d.rd b := by
  have hf : SMap.find? (SMap.put (resetOf a) d.regs a w) b = SMap.find? d.regs b := by
    unfold SMap.put
    split
    · exact SMap.find?_erase_ne _ h
    · exact SMap.find?_insert_ne _ _ h
  simp only [Dev.wr, Dev.rd, SMap.get, hf]
@[simp] theorem Dev.unit_setUnit (d : Dev) (u : Un) (x : UnitDyn) : (d.setUnit u x).unit u = x := by simp [Dev.setUnit, Dev.unit]
theorem Dev.unit_setUnit_ne (d : Dev) {u v : Un} (h : v.addr ≠ u.addr) (x : UnitDyn) : (d.setUnit u x).unit v = d.unit v := by
  simp [Dev.setUnit, Dev.unit, SMap.get_put_ne _ _ h]

end Sys2Proof.Machine
end

