-- ==== Sys2Proof/Laws/Commands.lean ====
section
/-! SUPPORT. What the families' wrappers come to: events of a powered device, events of the island, lines of the monitor, and the
command register of a context. -/

namespace Sys2Proof.Machine

/-- An event while CK_SYS serves the registers. -/
theorem State.live_of {s : State} (h : s.Alive) (f : Dev → Dev) : s.live f = s.act f := by
  have h' : s.dev.alive = true := h
  simp only [State.live, h', if_true]

/-- An event of the island while VAON is present. -/
theorem State.island_of {s : State} (h : s.dev.pwr.st ≠ .off) (f : Dev → Dev) : s.island f = s.act f := by
  have h' : (s.dev.pwr.st == PwrState.off) = false := by simpa using h
  simp only [State.island, h', Bool.false_eq_true, if_false]

/-- Everything a line of the monitor does while the port is on: the level check, the effect, and the answer. -/
theorem State.devLine_eq {s : State} (h : s.Alive) (h1 : s.dev.rb 0x1E040 0 = true) (n : Nat) (f : Dev → Dev × MonAns) :
    s.devLine n f =
      (let d0 := s.dev.updMon (fun m => { m with baudNew := false })
       let r := if s.dev.mon.level < n then (d0, .err 2) else f d0
       State.finish { s with dev := (if r.2 = .err 5 then s.dev else r.1).updMon (fun m => { m with ans := some r.2 }) }) := by
  have h' : s.dev.alive = true := h
  unfold State.devLine State.line
  simp only [h', h1, Bool.not_true, Bool.or_self, Bool.false_eq_true, if_false]
  split
  · simp
  · dsimp only
    split <;> rfl

set_option maxRecDepth 100000 in
/-- Where the command register of a context lies. -/
theorem ctx_facts : ∀ x : Fin 160, slotOf (ctxPage x.val + 0x4C) = none ∧ isPage (ctxPage x.val) = true ∧
    ctxPage x.val % 0x1000 = 0 ∧ isStaged (ctxPage x.val + 0x4C) = false ∧ (ctxPage x.val + 0x4C) % 0x1000 = 0x4C ∧
    0x100000 ≤ ctxPage x.val ∧ ctxPage x.val + 0x4C < 0x200000 ∧ 6 ≤ (ctxPage x.val + 0x4C) / 0x1000 % 16 ∧
    10 * ((ctxPage x.val + 0x4C - 0x100000) / 0x10000) + (ctxPage x.val + 0x4C) / 0x1000 % 16 - 6 = x.val := by
  decide

/-- CTX_CMD by a path. -/
theorem Dev.regWrite_ctxCmd (d : Dev) (p : Path) (x : Fin 160) (v : Word) :
    d.regWrite p (ctxPage x.val + 0x4C) v = d.ctxWrite x.val 0x4C v := by
  obtain ⟨h1, h2, h3, -, h6, h7, h8, h9, h10⟩ := ctx_facts x
  unfold Dev.regWrite Dev.regCmd
  simp only [h1, h6]
  have hlt : ¬ (ctxPage x.val + 0x4C < 0x100000) := by omega
  have hlt2 : ctxPage x.val + 0x4C < 0x400000 := by omega
  have hlt3 : ¬ (0x510000 ≤ ctxPage x.val + 0x4C) := by omega
  have hlt4 : (ctxPage x.val + 0x4C) / 0x1000 ≠ 0x16 := by omega
  have hs : ctxPage x.val + 0x4C - 0x100000 = ctxPage x.val - 1048500 := by clear h10; omega
  have hn : 10 * ((ctxPage x.val - 1048500) / 65536) + (ctxPage x.val + 76) / 4096 % 16 - 6 = x.val := by rw [← hs]; exact h10
  simp [hlt, hlt2, hlt3, hlt4, Dev.campCmd, h2, h6, h8, h9, hn]

end Sys2Proof.Machine
end

