-- ==== Sys2Proof/Laws/Efyon.lean ====
section
/-! SUPPORT. What the issue of an Efyon instruction comes to, by the shape of the instruction: results, register writes, actions on
the device, jumps, and loads of Efyon-S from Lakebed. -/

namespace Sys2Proof.Machine

theorem State.mainEvent_done (s : State) (c : Core) (o : Out) (h : o.ev = .done) : s.mainEvent c o = State.land 4 o.s := by
  unfold State.mainEvent; rw [h]

/-- The writes of a result and its flags at distance 1. -/
theorem Core.gets_res (e : CoreId) (c : Core) (n rd : Nat) (h : rd < 32) (r : Res) :
    c.gets e n 1 [(rd, r.v, 0xFFFFFFFF), (65, r.fl, r.mask)] = (c.setD rd r.v).withFlags r := by
  cases e <;> simp [Core.gets, Core.apply_d _ h, Core.apply_flags, Core.withFlags]

/-- An instruction that gives a result at distance 1. -/
theorem State.issue_res {s : State} {b : Bool} (e : CoreId) (op : Op) (h : s.CanIssue e b) (hok : op.ok = true)
    (hi : b = true → op.imm = true) (hj : op.jump = false) (hr : op.noRep = false) (rd : Nat) (hrd : rd < 32) (r : Res)
    (hrun : ∀ t, op.run e (s.dev.core e) t = { s := t.putRes e (s.dev.core e) rd r }) :
    s.issue e op = s.coreIs e (((s.dev.core e).retire.setD rd r.v).withFlags r) := by
  rw [← Core.gets_res e _ (s.dev.core e).n rd hrd]
  exact State.issue_gets e op h hok hi hj hr 1 (by omega) _ (by simp) hrun

/-- An instruction that gives a result at distance 2 and its flags at distance 1. -/
theorem State.issue_res2 {s : State} {b : Bool} (e : CoreId) (op : Op) (h : s.CanIssue e b) (hok : op.ok = true)
    (hi : b = true → op.imm = true) (hj : op.jump = false) (hr : op.noRep = false) (rd : Nat) (r : Res)
    (hrun : ∀ t, op.run e (s.dev.core e) t = { s := t.putRes e (s.dev.core e) rd r 2 }) :
    s.issue e op = s.coreIs e (((s.dev.core e).retire.gets e (s.dev.core e).n 2 [(rd, r.v, 0xFFFFFFFF)]).withFlags r) := by
  cases e with
  | main =>
    refine (State.issue_gets .main op h hok hi hj hr 2 (by omega) [(rd, r.v, 0xFFFFFFFF), (65, r.fl, r.mask)] (by simp) hrun).trans ?_
    congr 1
  | seq x =>
    refine (State.issue_seq op h hok hi (.inl hj) (.inl hr)).trans ?_
    have hp : (s.dev.core (.seq x)).retire.pend = [] := by rw [Core.retire_pend]; exact h.2.2.2.2.2.2
    have hr' : ∀ t, op.run (.seq x) (s.dev.ctx x.val) t = _ := hrun
    simp only [hr', State.putRes, State.put, Dev.put_seq, Bool.false_eq_true, if_false, State.coreIs, Dev.stepped, Dev.core_setCore,
      Dev.setCore_setCore, hp, List.nil_append]
    congr 2
    show (Dev.setCtx _ _ _).ctxSettle _ = _
    rw [Dev.ctxSettle, Dev.ctx_setCtx, Dev.setCtx_setCtx]
    show _ = Dev.setCtx _ _ _
    congr 1
    simpa [Core.gets, Core.settle, hp, regFlags, Core.apply_flags, Core.withFlags, List.filter] using h.2.2.2.2.2.2

theorem Dev.setCore_seq (d : Dev) (x : Ctx) (c : Core) : d.setCore (.seq x) c = d.setCtx x.val c := rfl
theorem Dev.core_main (d : Dev) : d.core .main = d.esc.core := rfl
theorem Dev.setCore_main (d : Dev) (c : Core) : d.setCore .main c = d.setEsc { d.esc with core := c } := rfl
theorem Dev.setEsc_setEsc (d : Dev) (e f : Esc) : (d.setEsc e).setEsc f = d.setEsc f := rfl

theorem Dev.seqEvent_done (d : Dev) (x : Nat) (pc : Word) : d.seqEvent x pc .done = d := rfl

theorem Dev.seqEvent_jump (d : Dev) (x : Nat) (pc t : Word) : d.seqEvent x pc (.jump t) = d.setCtx x { d.ctx x with slot := some t } := rfl

/-- An instruction that acts on the device alone. -/
theorem State.issue_acts {s : State} {e : CoreId} {b : Bool} (op : Op) (h : s.CanIssue e b) (hok : op.ok = true)
    (hi : b = true → op.imm = true) (hj : op.jump = false ∨ (s.dev.core e).slot = none)
    (hr : op.noRep = false ∨ (s.dev.core e).rep = none)
    (f : Dev → Dev) (hrun : ∀ t : State, op.run e (s.dev.core e) t = { s := { t with dev := f t.dev } }) :
    s.issue e op = s.acts e f := by
  cases e with
  | main =>
    refine (State.issue_main op h hok hi hj hr).trans ?_
    have hr' : ∀ t, op.run .main s.dev.esc.core t = _ := hrun
    simp only [hr', Bool.false_eq_true, if_false, State.mainEvent, State.acts, State.ends]
  | seq x =>
    refine (State.issue_seq op h hok hi hj hr).trans ?_
    have hr' : op.run (.seq x) (s.dev.ctx x.val) { s with dev := s.dev.stepped (.seq x) } = _ := hrun _
    dsimp only
    rw [hr']
    dsimp only
    rw [Dev.seqEvent_done]
    unfold State.acts State.ends
    rfl

theorem Dev.ctxSettle_setCtx (d : Dev) (x : Nat) (c : Core) : (d.setCtx x c).ctxSettle x = d.setCtx x c.settle := by
  rw [Dev.ctxSettle, Dev.ctx_setCtx, Dev.setCtx_setCtx]

/-- An action that changes only the core. -/
theorem State.acts_core {s : State} {e : CoreId} {b : Bool} (h : s.CanIssue e b) (c : Core)
    (hpc : c.pc = (s.dev.core e).retire.pc) (hp : e ≠ .main → c.pend = [])
    (f : Dev → Dev) (hf : f (s.dev.stepped e) = (s.dev.counted e).setCore e c) : s.acts e f = s.coreIs e c := by
  unfold State.acts
  rw [hf]
  cases e with
  | main =>
    unfold State.ends State.coreIs
    dsimp only
    rw [State.land_id]
    have : (Dev.setCore (s.dev.counted .main) .main c).esc.core = c := Dev.core_setCore _ .main c
    show (Dev.setCore (s.dev.counted .main) .main c).esc.core.pc.toNat < _
    rw [this, hpc]
    exact h.2.2.2.2.2.2.2
  | seq x =>
    unfold State.ends State.coreIs
    dsimp only
    rw [Dev.setCore_seq, Dev.ctxSettle_setCtx, Core.settle_nil (hp (by intro h; cases h))]

/-- An instruction that writes one register at distance 1. -/
theorem State.issue_reg {s : State} {e : CoreId} (op : Op) (h : s.CanIssue e false) (hok : op.ok = true) (hj : op.jump = false)
    (hr : op.noRep = false) (reg : Nat) (v m : Word)
    (hrun : ∀ t, op.run e (s.dev.core e) t = { s := t.put e (s.dev.core e) reg v 1 m }) :
    s.issue e op = s.coreIs e ((s.dev.core e).retire.apply ⟨reg, v, m, (s.dev.core e).n + 1⟩) := by
  refine (State.issue_gets e op h hok (by simp) hj hr 1 (by omega) [(reg, v, m)] (by simp) hrun).trans ?_
  cases e <;> rfl

/-- An instruction that does nothing but count. -/
theorem State.issue_retire {s : State} {e : CoreId} {b : Bool} (op : Op) (h : s.CanIssue e b) (hok : op.ok = true)
    (hi : b = true → op.imm = true)
    (hj : op.jump = false ∨ (s.dev.core e).slot = none)
    (hr : op.noRep = false ∨ (s.dev.core e).rep = none)
    (hrun : ∀ t : State, op.run e (s.dev.core e) t = { s := t }) : s.issue e op = s.coreIs e (s.dev.core e).retire := by
  rw [State.issue_acts op h hok hi hj hr id hrun]
  exact State.acts_core h _ rfl (fun he => by
    cases e with
    | main => exact absurd rfl he
    | seq x => rw [Core.retire_pend]; exact h.2.2.2.2.2.2) _ rfl

/-- A jump to a target that R380 admits. -/
theorem State.issue_jump {s : State} {e : CoreId} (link : Option Nat) (t : Core → Word) (h : s.CanIssue e false)
    (hs : (s.dev.core e).slot = none) (hr : (s.dev.core e).rep = none)
    (ht : e = .main → s.dev.esc.badTarget (t (s.dev.core e)) = false) (hl : ∀ r, link = some r → r < 32) :
    s.issue e (opJump link t) = s.coreIs e { (match link with
      | some r => (s.dev.core e).retire.setD r ((s.dev.core e).pc + 8) | none => (s.dev.core e).retire) with slot := some (t (s.dev.core e)) } := by
  cases e with
  | main =>
    refine (State.issue_main (opJump link t) h rfl (by simp) (.inr hs) (.inr hr)).trans ?_
    have ht' := ht rfl
    cases link with
    | none =>
      have : ∀ u : State, u.dev.esc.stack = s.dev.esc.stack → u.dev.esc.badTarget (t (s.dev.core .main)) = false := by
        intro u hu; rw [← ht']; simp only [Esc.badTarget, Esc.inNormal, Esc.inFast, hu]
      simp only [opJump, Bool.false_eq_true, if_false, State.mainEvent]
      erw [this _ rfl]
      rfl
    | some r =>
      have : ∀ u : State, u.dev.esc.stack = s.dev.esc.stack → u.dev.esc.badTarget (t (s.dev.core .main)) = false := by
        intro u hu; rw [← ht']; simp only [Esc.badTarget, Esc.inNormal, Esc.inFast, hu]
      simp only [opJump, Bool.false_eq_true, if_false, State.mainEvent]
      erw [this _ rfl]
      simp only [State.coreIs, State.put, Dev.put_main, Dev.stepped, Dev.core_setCore, Dev.setCore_setCore, Core.apply_d _ (hl r rfl)]
      rfl
  | seq x =>
    refine (State.issue_seq (opJump link t) h rfl (by simp) (.inr hs) (.inr hr)).trans ?_
    have hp : (s.dev.core (.seq x)).retire.pend = [] := by rw [Core.retire_pend]; exact h.2.2.2.2.2.2
    have hp0 : (s.dev.core (.seq x)).pend = [] := h.2.2.2.2.2.2
    unfold State.coreIs
    cases link with
    | none =>
      dsimp only [opJump]
      rw [Dev.seqEvent_jump]
      dsimp only [Dev.stepped]
      rw [Dev.setCore_seq, Dev.ctxSettle_setCtx, Dev.ctx_setCtx, Dev.setCtx_setCtx, Core.settle_nil hp, Dev.setCore_seq]
      rfl
    | some r =>
      have this : ({ (s.dev.core (.seq x)).retire with pend := [] } : Core) = (s.dev.core (.seq x)).retire := by rw [← hp]
      dsimp only [opJump]
      rw [Dev.seqEvent_jump]
      dsimp only [Dev.stepped, State.put]
      rw [Dev.put_seq, Dev.core_setCore, Dev.setCore_setCore, hp, List.nil_append, Dev.setCore_seq, Dev.ctxSettle_setCtx, Dev.ctx_setCtx, Dev.setCtx_setCtx]
      rw [Core.settle_all _ _ (by simp; exact le_refl _)]
      simp only [List.foldl_cons, List.foldl_nil, Core.apply_d _ (hl r rfl), this]
      rfl

/-- The value of bytes, least significant first. -/
theorem bytes_value (l : List Byte) : l.foldr (fun x v => x.toNat + 256 * v) 0 = ((List.range l.length).map (fun i => (l.getD i 0).toNat * 256 ^ i)).sum := by
  induction l with
  | nil => rfl
  | cons x l ih =>
    rw [List.foldr_cons, ih, List.length_cons, List.range_succ_eq_map, List.map_cons, List.sum_cons, List.map_map]
    simp only [List.getD_cons_zero, pow_zero, mul_one]
    congr 1
    rw [← List.sum_map_mul_left]
    congr 1
    apply List.map_congr_left
    intro i _
    simp [pow_succ]
    ring

/-- The value of bytes outside the pool and Ocpen regions. -/
theorem State.bar2Bytes_value (s : State) (b n : Nat) (h : ∀ i < n, s.dev.inPoolRegion (b + i) = false ∧ s.dev.inOcpen (b + i) = false) :
    (s.bar2Bytes b n).foldr (fun x v => x.toNat + 256 * v) 0 = ((List.range n).map (fun i => (Memory.byte s.mem (b + i)).toNat * 256 ^ i)).sum := by
  have : s.bar2Bytes b n = (List.range n).map (fun i => Memory.byte s.mem (b + i)) := by
    unfold State.bar2Bytes
    apply List.map_congr_left
    intro i hi
    have := h i (List.mem_range.mp hi)
    simp [this.1, this.2]
  rw [this, bytes_value]
  simp only [List.length_map, List.length_range]
  congr 1
  apply List.map_congr_left
  intro i hi
  simp [List.getD, List.mem_range.mp hi]

/-- An address in Lakebed is no register address. -/
theorem Dev.lakeSpan_regs {d : Dev} {a n b : Nat} (h : d.lakeSpan a n = some b) : mainRegs a = false := by
  unfold Dev.lakeSpan at h
  cases h1 : d.lakeAt a with
  | none => simp [h1] at h
  | some x =>
    unfold Dev.lakeAt at h1
    apply decide_eq_false
    show ¬(0x40000000 ≤ a ∧ a < 0x40000000 + 0x4000000)
    intro ⟨h2, h3⟩
    rw [if_neg (by omega), if_neg (by omega), if_neg (by omega)] at h1
    cases h1

/-- A load from Lakebed answers its bytes. -/
theorem State.mainLoad_lake {s t : State} (ht : t.mem = s.mem) (hl : ∀ a n, t.dev.lakeSpan a n = s.dev.lakeSpan a n) (hu : ∀ a b n, t.dev.mainUe a b n = s.dev.mainUe a b n)
    (hp : ∀ a, t.dev.inPoolRegion a = s.dev.inPoolRegion a) (ho : ∀ a, t.dev.inOcpen a = s.dev.inOcpen a)
    {a n b : Nat} (h : s.dev.lakeSpan a n = some b) (hb : ∀ i < n, s.dev.inPoolRegion (b + i) = false ∧ s.dev.inOcpen (b + i) = false) (hue : s.dev.mainUe a b n = []) :
    t.mainLoad a n = (t, .done (((List.range n).map (fun i => (Memory.byte s.mem (b + i)).toNat * 256 ^ i)).sum) false) := by
  have hm := Dev.lakeSpan_regs h
  have hv := State.bar2Bytes_value t b n (by simpa only [hp, ho] using hb)
  rw [ht] at hv
  have hm' : ¬ (mainRegs a = true) := by rw [hm]; exact Bool.false_ne_true
  unfold State.mainLoad
  rw [if_neg hm']
  have e1 : t.dev.lakeSpan a n = some b := by rw [hl]; exact h
  have e2 : t.dev.mainUe a b n = [] := by rw [hu]; exact hue
  rw [e1]
  dsimp only
  rw [if_pos e2, hv]

theorem Dev.stepped_main (d : Dev) : d.stepped .main = d.setCore .main (d.core .main).retire := rfl

/-- A pointer register takes its new value, if there is one. -/
def Core.movedX (c' : Core) (p : Nat) (o : Option Word) : Core := match o with | some v => c'.setX p v | none => c'

/-- The pointer update on Efyon-S. -/
theorem State.putPtr_main (s : State) (c : Core) (p : Nat) (hp : p < 32) (o : Option Word) : s.putPtr .main c p o = { s with dev := s.dev.setCore .main (Core.movedX (s.dev.core .main) p o) } := by
  cases o with
  | none => rfl
  | some v =>
    show State.mk _ _ _ = _
    simp only [Dev.put_main, regX, Core.apply_x _ hp, Core.movedX]

/-- A load of Efyon-S from Lakebed. -/
theorem State.issue_load {s : State} (h : s.CanIssue .main false) (reg : Nat) (p : Nat) (hp : p < 32) (am g : Nat) (sg : Bool) (simm : BitVec 12)
    (hsimm : simmOk am simm = true)
    (hleg : ((s.dev.core .main).ptrNext p am simm.toInt g).2 = false) (b : Nat)
    (hs : s.dev.lakeSpan ((s.dev.core .main).ea p am simm).toNat (2 ^ g) = some b)
    (hb : ∀ i < 2 ^ g, s.dev.inPoolRegion (b + i) = false ∧ s.dev.inOcpen (b + i) = false) (hue : s.dev.mainUe ((s.dev.core .main).ea p am simm).toNat b (2 ^ g) = []) :
    s.issue .main (opLoadTo reg p am g sg simm) = s.coreIs .main ((Core.movedX (s.dev.core .main).retire p
      (if reg = regX p then none else ((s.dev.core .main).ptrNext p am simm.toInt g).1)).apply ⟨reg, extend (2 ^ g) sg ((List.range (2 ^ g)).map (fun i => (Memory.byte s.mem (b + i)).toNat * 256 ^ i)).sum, 0xFFFFFFFF, 0⟩) := by
  have hrun : ∀ t : State, t = { s with dev := s.dev.stepped .main } → (opLoadTo reg p am g sg simm).run .main (s.dev.core .main) t =
      { s := { t with dev := t.dev.setCore .main ((Core.movedX (t.dev.core .main) p
        (if reg = regX p then none else ((s.dev.core .main).ptrNext p am simm.toInt g).1)).apply ⟨reg, extend (2 ^ g) sg ((List.range (2 ^ g)).map (fun i => (Memory.byte s.mem (b + i)).toNat * 256 ^ i)).sum, 0xFFFFFFFF, 0⟩) } } := by
    intro t ht
    unfold opLoadTo
    dsimp only
    rw [hleg]
    simp only [Bool.false_and, Bool.false_eq_true, if_false]
    rw [State.putPtr_main _ _ _ hp]
    unfold State.loadAt
    dsimp only
    rw [State.mainLoad_lake (s := s) (b := b) (n := 2 ^ g) (by rw [ht]) (by rw [ht]; intro a n; rfl) (by rw [ht]; intro a b n; rfl) (by rw [ht]; intro a; rfl) (by rw [ht]; intro a; rfl) hs hb hue]
    simp only [State.put, Dev.put_main, Dev.core_setCore, Dev.setCore_setCore, Access.ev]
  refine (State.issue_main (opLoadTo reg p am g sg simm) h hsimm (by simp) (.inl rfl) (.inl rfl)).trans ?_
  dsimp only
  have := hrun _ rfl
  change (opLoadTo reg p am g sg simm).run .main s.dev.esc.core _ = _ at this
  rw [this]
  simp only [Bool.false_eq_true, if_false]
  rw [State.mainEvent_done _ _ _ rfl]
  dsimp only
  rw [Dev.stepped_main, Dev.core_setCore, Dev.setCore_setCore, State.land_id]
  · rfl
  · show (Dev.core (Dev.setCore _ .main _) .main).pc.toNat < _
    rw [Dev.core_setCore, Core.apply_pc]
    have : ∀ o, (Core.movedX (s.dev.core .main).retire p o).pc = (s.dev.core .main).retire.pc := by intro o; cases o <;> rfl
    rw [this]; exact h.2.2.2.2.2.2.2

end Sys2Proof.Machine
end

