-- ==== Sys2Proof/Laws/Frames.lean ====
section
/-! SUPPORT. Frames of the operations that many commands end in: an interrupt message, a fault, a commit, a loss and a record
leave every part of the device alone but registers, the interrupt controller, the fabric, the host port's signals, a wake request
with its WAKE#, and pending holds. A field that they leave follows by applying its projection to the equation. -/

namespace Sys2Proof.Machine

/-- The device without the parts that messages, faults and records touch. -/
def Dev.rest (d : Dev) : Dev :=
  { d with regs := [], ic := {}, host := {}, fab := {}, holds := [], pwr := { d.pwr with wakeReq := false }
           cw := { d.cw with wakeDrv := false } }

theorem Dev.rest_wr (d : Dev) (a : Nat) (w : Word) : (d.wr a w).rest = d.rest := rfl
theorem Dev.rest_wf (d : Dev) (a h l v : Nat) : (d.wf a h l v).rest = d.rest := rfl
theorem Dev.rest_wb (d : Dev) (a i : Nat) (b : Bool) : (d.wb a i b).rest = d.rest := rfl
theorem Dev.rest_count (d : Dev) (a h l k : Nat) : (d.count a h l k).rest = d.rest := rfl

theorem Dev.rest_icUpd (d : Dev) (f : IntCtl → IntCtl) : (d.icUpd f).rest = d.rest := by
  unfold Dev.icUpd
  dsimp only
  split
  · split <;> rfl
  · rfl

theorem Dev.rest_watchWake (d : Dev) (i : Nat) : (d.watchWake i).rest = d.rest := by
  unfold Dev.watchWake
  split <;> rfl

theorem Dev.rest_msgRaw (d : Dev) (i : Nat) (r : Bool) : (d.msgRaw i r).rest = d.rest := by
  unfold Dev.msgRaw
  dsimp only
  split
  · rfl
  · split
    · rfl
    · rw [Dev.rest_icUpd, Dev.rest_watchWake]

theorem Dev.rest_msg (d : Dev) (i : Nat) (r : Bool) : (d.msg i r).rest = d.rest := by
  unfold Dev.msg
  dsimp only
  split
  · rw [Dev.rest_msgRaw, Dev.rest_msgRaw]
  · rw [Dev.rest_msgRaw]

theorem Dev.rest_fault (d : Dev) (page b : Nat) : (d.fault page b).rest = d.rest := by
  unfold Dev.fault
  dsimp only
  split
  · rfl
  · split
    · rw [Dev.rest_msg]; rfl
    · rfl

theorem Dev.rest_sampleGroup (d : Dev) (w : Nat) : (d.sampleGroup w).rest = d.rest := by
  unfold Dev.sampleGroup
  dsimp only
  split
  · rfl
  · split
    · rw [Dev.rest_msg]; rfl
    · split <;> rfl

theorem Dev.rest_setQueue (d : Dev) (q : Nat) (x : QueueDyn) : (d.setQueue q x).rest = d.rest := by
  unfold Dev.setQueue; rw [Dev.rest_sampleGroup]; rfl

theorem Dev.rest_commit (d : Dev) (q : Nat) (l : List Word) (n : Nat) (src : Option Nat) (ce : List Nat := []) :
    (d.commit q l n src ce).rest = d.rest := by
  unfold Dev.commit; dsimp only; rw [Dev.rest_setQueue]; rfl

/-- A commit adds one packet, wherever its record takes its place (R25, R298). -/
theorem joinTail_length (p : Packet) (l : List Packet) : (joinTail p l).length = l.length + 1 := by
  induction l generalizing p with
  | nil => rfl
  | cons e rest ih => unfold joinTail; split <;> simp [ih]

theorem Dev.rest_loseQuiet (d : Dev) (q : Nat) (r : Bool) (n : Nat) : (d.loseQuiet q r n).rest = d.rest := by
  unfold Dev.loseQuiet; dsimp only; cases r <;> rfl

theorem Dev.rest_setLossDue (d : Dev) (src q : Nat) (b : Bool) : (d.setLossDue src q b).rest = d.rest := rfl

theorem Dev.rest_fabCommit (d : Dev) (src : Nat) (l : List Word) : (d.fabCommit src l).rest = d.rest := by
  unfold Dev.fabCommit
  dsimp only
  split
  · rfl
  · split
    · rw [Dev.rest_commit, Dev.rest_setLossDue]
    · rw [Dev.rest_setLossDue, Dev.rest_loseQuiet]
  · rw [Dev.rest_setLossDue, Dev.rest_loseQuiet]

theorem Dev.rest_lose (d : Dev) (q c : Nat) (r : Bool) (n : Nat) : (d.lose q c r n).rest = d.rest := by
  unfold Dev.lose
  dsimp only
  split
  · rfl
  · split
    · exact (Dev.rest_loseQuiet d q r n : _)
    · rw [Dev.fabRec, Dev.rest_fabCommit]; exact (Dev.rest_loseQuiet d q r n : _)

theorem Dev.rest_noteLoss (d : Dev) (src q : Nat) : (d.noteLoss src q).rest = d.rest := by
  unfold Dev.noteLoss; split <;> rfl

theorem Dev.rest_discardHw (d : Dev) (q src c : Nat) : (d.discardHw q src c).rest = d.rest := by
  unfold Dev.discardHw; rw [Dev.rest_lose, Dev.rest_noteLoss]

theorem Dev.rest_hwCommit (d : Dev) (q : Nat) (l : List Word) (n src : Nat) (u : Option Un) :
    (d.hwCommit q l n src u).rest = d.rest := by
  unfold Dev.hwCommit
  split
  · rfl
  · split
    · rw [Dev.rest_commit]
    · split
      · cases u <;> rfl
      · rw [Dev.rest_discardHw]
  · rw [Dev.rest_discardHw]
  · rw [Dev.rest_discardHw]

/-- A record of a unit. -/
theorem Dev.rest_record (d : Dev) (q : Nat) (u : Option Un) (ty fl src : Nat) (t : Time) (a b c : Word) :
    (d.record q u ty fl src t a b c).rest = d.rest := by
  unfold Dev.record; rw [Dev.rest_hwCommit]; rfl

/-- The present cycle's LTIME stays. -/
theorem Dev.now_of_rest {d e : Dev} (h : d.rest = e.rest) : d.now = e.now := congrArg (fun x => x.pwr.ltime) h

end Sys2Proof.Machine
end

