-- ==== Sys2Proof/Machine/Balls.lean ====
section
/-! DEFINITION. What the balls present (R40, R126, R449): views of the state. -/

namespace Sys2Proof.Machine

/-- What a ball presents to the board: high impedance, 1 MΩ to AGND, a level, or a signal that the device drives. -/
inductive Ball where
  | hiZ | bleed | low | high | driven
  deriving DecidableEq, Repr

/-- The guard driver of a channel is on: CFG.GUARD = 1 and a flap closed (R126). -/
def Dev.guardOn (d : Dev) (n : Nat) : Bool :=
  d.rb (chanPage n + 0x40) 20 && ((d.ch n).fF.ph == .closed || (d.ch n).fS.ph == .closed)

/-- The G ball follows the sense potential, or is 1 MΩ to AGND in every other case (R40, R126). -/
def Dev.gBall (d : Dev) (n : Nat) : Ball := if d.alive && d.guardOn n then .driven else .bleed

/-- READY (R40, R41): low in a reset and wherever a condition fails. -/
def Dev.readyBall (d : Dev) : Ball := if d.pwr.ball then .high else .low

/-- The island drives SPI port q (R449): PORT_CFG.EN = 1. -/
def Dev.spEn (d : Dev) (q : Nat) : Bool := d.rb (cwPage + 0xC0 + 4 * q) 31

/-- The poll in progress on port q. -/
def Dev.spPoll (d : Dev) (q : Nat) : Option PollXfer := d.cw.cur.filter (fun x => x.entry / 64 == q)

/-- CPOL and CPHA of the transfer in progress: the usual modes 0 to 3. -/
def Dev.spMode (d : Dev) (q : Nat) : Option (Bool × Bool) := (d.spPoll q).map (fun x => (bit x.cfg 5, bit x.cfg 4))

/-- The bytes that the transfer in progress sends: the entry's TX, as it started, from the top; then SDO is low for the bytes
that it reads. -/
def Dev.spSends (d : Dev) (q : Nat) : List Byte :=
  match d.spPoll q with
  | some x => (List.range (fld (x.words.getD 0 0) 27 25)).map (fun i => BitVec.ofNat 8 (fld (x.words.getD 1 0) (31 - 8 * i) (24 - 8 * i))) ++
      List.replicate (fld (x.words.getD 0 0) 24 22) 0
  | none => []

/-- SPq_SCK: low until the port is configured, and then at its CPOL level between transfers (R40, R449). -/
def Dev.sckBall (d : Dev) (q : Nat) : Ball :=
  if !d.pwr.vaonOk then .hiZ
  else if !d.spEn q then .low
  else if (d.spPoll q).isSome then .driven
  else if d.rb (cwPage + 0xC0 + 4 * q) 5 then .high else .low

/-- SPq_SDO: low outside a transfer, and throughout one that sends only zeros; in another it carries `Dev.spSends`. -/
def Dev.sdoBall (d : Dev) (q : Nat) : Ball :=
  if !d.pwr.vaonOk then .hiZ else if d.spEn q && (d.spSends q).any (· != 0) then .driven else .low

/-- SPq_SELk: high but for the target of the poll in progress, as it started. -/
def Dev.selBall (d : Dev) (q k : Nat) : Ball :=
  if !d.pwr.vaonOk then .hiZ
  else match d.spPoll q with
    | some x => if d.spEn q && fld (x.words.getD 0 0) 29 28 == k then .low else .high
    | none => .high

/-- WAKE#: driven low by Campwatch or by the interrupt controller, and otherwise left to its pull-up (R40, R398, R458). A reset of
everything outside VAON, PORESET# among them, ends what the controller drives (R403; DESIGN CHOICE, notes/assumptions/86). -/
def Dev.wakeBall (d : Dev) : Ball := if d.pwr.vaonOk && (d.cw.wakeDrv || d.host.wakeN) then .low else .hiZ

/-- The data register between TDI and TDO and what Capture-DR loads into it (R511, R513): the identification; the result of the
previous DEBUG access, DONE, ERR and DATA over the offset's 32 bits, which hold nothing of it; for the boundary register, whose
order a BSDL file gives, and the bypass bit, none. -/
def Dev.captureDr (d : Dev) : Option (Nat × Nat) :=
  match d.mon.ir with
  | .idcode => some (32, 0x1051256D)
  | .debug => some (34, (if d.mon.jDone then 2 ^ 33 else 0) + (if d.mon.jErr then 2 ^ 32 else 0) + d.mon.jData.toNat)
  | .extest | .sample | .highz | .bypass => none

end Sys2Proof.Machine
end

