-- ==== Sys2Proof/WellFormed.lean ====
section
/-! DEFINITION. Well-formed commands: the limits of the spec on operands whose types allow more. A command that is not
well-formed stands for nothing that the device can meet; `exec` is total on it all the same. -/

namespace Sys2Proof.WellFormed

/-- A BAR0 offset (R14). -/
def offset (a : Nat) : Bool := decide (a < 0x4000000)

/-- The start of a 4 KiB page of BAR0 (R74). -/
def page (a : Nat) : Bool := offset a && a % 0x1000 == 0

/-- A reading of every sensor (R264, R266). -/
def readings (t : List (BitVec 16)) : Bool := t.length == 36

/-- The corrections of the five ranges and the resistances of the three drives (R144, R145, R217). -/
def outcome (o : CalOutcome) : Bool := o.corr.length == 5 && o.rs.length == 3

/-- A register of POPQ that R354 allows. -/
def popReg (r : Reg) : Bool := r.val % 4 == 0 && r.val != 0

/-- The limits. A constructor that is not listed has operands of types that allow no more than the spec does. -/
def check : Instr → Bool
  | .poresetRelease _ _ temps => readings temps
  | .sensorSample temps => readings temps
  | .calibrationComplete _ o => outcome o
  | .stageRevert _ a => page a
  | .faultAck _ a _ => page a
  | .quarWrite _ a _ => page a
  | .registerWrite _ a _ => offset a
  | .readClear _ a => offset a
  | .settlingEnd u => decide (u < 0x10000)
  | .weirFrameEnd words _ => decide ((words.map (·.ch)).Nodup)
  | .bar2Request a w n => decide (a + (match w with | some bs => bs.length | none => n) ≤ 0x100000000)
  | .referenceCheckDone ppm => ppm.length == 16
  | .popq _ rd _ => popReg rd
  | .popqi _ rd _ => popReg rd
  | .mac2 _ _ p q _ _ _ => p != q
  | .illegalEncoding _ w => Machine.illegalWord w
  | _ => true

end Sys2Proof.WellFormed

namespace Sys2Proof

/-- The command is one that the device can meet. -/
def Instr.wellFormed (i : Instr) : Bool := WellFormed.check i

end Sys2Proof
end

