-- ==== Sys2Proof/Tests/Slice0.lean ====
section
/-! SUPPORT. Tests: an ill-formed term for each check of WellFormed, small tests whose expected values are worked from spec/, and
for every statement with hypotheses a state that meets them, clause by clause. -/

set_option maxRecDepth 100000
set_option exponentiation.threshold 2000

namespace Sys2Proof.Tests

open Sys2Proof.Machine

/-! ### WellFormed: each check refuses an ill-formed term -/

theorem test_wf_poreset : (Instr.poresetRelease 0 false []).wellFormed = false := by decide
theorem test_wf_sensors : (Instr.sensorSample []).wellFormed = false := by decide
theorem test_wf_weirFrameEnd : (Instr.weirFrameEnd [⟨0, [], [], false⟩, ⟨0, [], [], false⟩] true).wellFormed = false := by decide

theorem test_wf_outcome : (Instr.calibrationComplete 0 ⟨[], [0, 0, 0], 0, 0, 0, 0⟩).wellFormed = false := by decide
theorem test_wf_page : (Instr.stageRevert .host 0x1001).wellFormed = false := by decide
theorem test_wf_ack : (Instr.faultAck .host 0x4000000 0).wellFormed = false := by decide
theorem test_wf_quar : (Instr.quarWrite .mgmt 4 1).wellFormed = false := by decide
theorem test_wf_offset : (Instr.registerWrite .host 0x4000000 (.word 0)).wellFormed = false := by decide
theorem test_wf_read : (Instr.readClear .host 0x4000000).wellFormed = false := by decide
theorem test_wf_settling : (Instr.settlingEnd 0x10000).wellFormed = false := by decide
theorem test_wf_bar2 : (Instr.bar2Request 0xFFFFFFFF none 2).wellFormed = false := by decide
theorem test_wf_reference : (Instr.referenceCheckDone []).wellFormed = false := by decide
theorem test_wf_pop : (Instr.popq .main 3 0).wellFormed = false ∧ (Instr.popqi .main 0 0).wellFormed = false := by decide
theorem test_wf_mac2 : (Instr.mac2 .main 0 1 1 0 0 true).wellFormed = false := by decide
theorem test_wf_illegal : (Instr.illegalEncoding .main 0).wellFormed = false := by decide
theorem test_wf_ok : (Instr.popq .main 28 0).wellFormed = true ∧ (Instr.bar2Request 0xFFFFFFFF none 1).wellFormed = true ∧
    (Instr.mac2 .main 0 1 2 0 0 true).wellFormed = true := by decide

/-! ### Helpers -/

/-- The outcome is a next state, of which `f` holds. -/
def gives (r : Host.Outcome State Fault Refusal) (f : State → Bool) : Bool :=
  match r with
  | .next t => f t
  | _ => false

/-- A device in READY with firmware running and the host's link up. -/
def base : Dev :=
  { State.reset.dev with
    pwr := { State.reset.dev.pwr with
      st := .ready, devOff := false, unitsOff := false, ckSys := true, poreset := false, ilk := true, ilkBall := true, ltime := 1000 }
    host := { perst := false, linkUp := true }
    esc := { running := true, core := { pc := 0x1000 } } }

def up (f : Dev → Dev) : State := { State.reset with dev := f base }

/-- A unit in a state. -/
def put (u : Un) (st : UState) (d : Dev) : Dev := { d with units := SMap.put {} d.units u.addr { last := st } }

/-- Context 3 in RUN. -/
def seq : State := up (put (.ctx 3) .run)

/-- Efyon-S with a core. -/
def core (c : Core) : State := up (fun d => { d with esc := { d.esc with core := c } })

theorem alive_up : (up id).Alive := by decide
theorem via_host : (up id).Via .host := ⟨by decide, .inl rfl⟩
theorem via_mgmt : (up id).Via .mgmt := ⟨by decide, .inr (.inl rfl)⟩
theorem via_main : (up id).Via .efyonS := ⟨by decide, .inr (.inr rfl)⟩

/-! ### Small tests of one step -/

/-- The queue is first in, first out: the front command runs and the rest stays. -/
theorem test_fifo : gives (step { up id with pending := [.nop .main, .halt .main] }) (fun t => t.pending = [.halt .main]) = true := by decide

/-- R339: ADD wraps and sets C and Z; a source is also the destination. -/
theorem test_add_wraps : let s := core { pc := 0x1000, d := [(1, 0xFFFFFFFF), (2, 1)] }
    gives (exec (.add .main 1 1 2) s) (fun t => t.dev.esc.core.dr 1 = 0 ∧ t.dev.esc.core.flags = 0x05 ∧ t.dev.esc.core.pc = 0x1004) = true := by decide

/-- R329: d0 takes no value. -/
theorem test_d0 : let s := core { pc := 0x1000, d := [(2, 7)] }
    gives (exec (.add .main 0 2 2) s) (fun t => t.dev.esc.core.dr 0 = 0) = true := by decide

/-- R340: DIV rounds toward zero, and REM takes the dividend's sign. -/
theorem test_div_sign : (divRes (BitVec.ofInt 32 (-7)) 2).v = BitVec.ofInt 32 (-3) ∧
    (remRes (BitVec.ofInt 32 (-7)) 2).v = BitVec.ofInt 32 (-1) := by decide

/-- R348: BR −1 jumps to its own address − 4 after the delay slot. -/
theorem test_br : gives (exec (.br .main 0x3FFFFFF) (core { pc := 0x1000 })) (fun t => t.dev.esc.core.slot = some 0xFFC ∧ t.dev.esc.core.pc = 0x1004) = true := by decide

/-- R363: on Efyon-L a product is seen at distance 2, not by the next instruction. -/
theorem test_mul_distance : gives (exec (.mul (.seq 3) 1 2 2) (up (fun d =>
      (put (.ctx 3) .run d).setCtx 3 { d := [(2, 5)] }))) (fun t => (t.dev.ctx 3).dr 1 = 0 ∧ ((t.dev.ctx 3).pend.map (·.v)) = [25]) = true := by decide

/-- R345 with m = 16, a word access and a step of m / 2: the offsets run 0, 8, 4, 12, 0. -/
theorem test_bit_reversed : (brevAdd 8 2 4 0 0, brevAdd 8 2 4 8 0, brevAdd 8 2 4 4 0, brevAdd 8 2 4 12 0) = (8, 4, 12, 0) := by
  decide

/-- R344: a modular step from the last element returns to the base. -/
theorem test_modular : ptrStep 0x10C 0x100 0x10 4 = 0x100 ∧ ptrStep 0x100 0x100 0x10 (-4) = 0x10C := by decide

/-- R353: PUSHQE to a queue in RUN with room commits a packet of one item. -/
theorem test_push : gives (exec (.pushEop .host 2 0xAB) (up (fun d => (put (.queue 2) .run d).wr (Dev.qAddr 2 + 0xC) 0x10))) (fun t => ((t.dev.queue 2).pkts.map (·.items)) = [[0xAB]]) = true := by decide

/-- R391: a doorbell sets the pending bit of its source. -/
theorem test_doorbell : gives (exec (.doorbell .host 40) (up id)) (fun t => t.dev.ic.pend.getLsbD 40 = true ∧ t.dev.ic.pend.getLsbD 41 = false) = true := by decide

/-- R281: BAR2 writes above the firmware region. -/
theorem test_bar2 : gives (exec (.bar2Request 0xF0000000 (some [0x11, 0x22]) 2) (up id)) (fun t => Memory.byte t.mem 0xF0000001 = 0x22) = true := by decide

/-- R411: the firmware region is protected. -/
theorem test_bar2_locked : gives (exec (.bar2Request 0x1000 (some [0x11]) 1) (up id)) (fun t => t.mem = [] ∧ t.dev.rb 0x1500C 3 = true) = true := by decide

/-- A request of more than 16 bytes or across a block does not act and sets SPAN (R410). -/
theorem test_span : gives (exec (.registerWrite .host 0x15048 .over) (up id)) (fun t => t.dev.rb 0x1500C 2) = true := by decide

/-- HEAD meets TAIL in RUN: NO_DESC, and source 64 + o once (R420). -/
theorem test_no_desc : gives (exec (.outletTailWrite .host 1 0) (up (put (.outlet 1) .run)))
    (fun t => (t.dev.ol 1).noDesc && t.dev.ic.pend.getLsbD 65) = true := by decide

/-- R435: the CRC-8 of the bytes 0x31 to 0x39 is 0xF4, the check value of the polynomial x⁸ + x² + x + 1. -/
theorem test_pec : pec [0x31, 0x32, 0x33, 0x34, 0x35, 0x36, 0x37, 0x38, 0x39] = 0xF4 := by decide

/-- R504: WR needs level 2. -/
theorem test_level : gives (exec (.monWr 0x2050 0) (up (fun d => d.wr 0x1E040 1))) (fun t => t.dev.mon.ans = some (.err 2)) = true := by decide

/-- R446: a 17th write in flight is dropped. -/
theorem test_crossing : ((up (fun d => d.setCw { d.cw with writes := List.replicate 16 (0x48, 1) })).dev.cwPost 0x48 1).cw.writes.length =
    16 := by decide

/-! ### Hypotheses of the statements -/

/-- `State.CanIssue` as a test. -/
def canB (s : State) (e : CoreId) (imm : Bool) : Bool :=
  let c := s.dev.core e
  s.dev.alive && s.dev.ready e && !c.skip && decide (c.rep ≠ some 0) && (c.imx.isNone || imm) &&
    match e with
    | .main => !s.dev.esc.entering && !s.mainFetchBad c.pc && decide (c.retire.pc.toNat < 0xFFFFFF00)
    | .seq x => !s.dev.seqFetchBad x.val c.pc && c.pend == []

theorem can {s : State} {e : CoreId} {imm : Bool} (h : canB s e imm = true) : s.CanIssue e imm := by
  cases e <;> (simp only [canB, Bool.and_eq_true, Bool.or_eq_true, Bool.not_eq_true', decide_eq_true_eq, Option.isNone_iff_eq_none,
    beq_iff_eq] at h; obtain ⟨⟨⟨⟨⟨h1, h2⟩, h3⟩, h4⟩, h5⟩, h6⟩ := h)
  · exact ⟨h1, h2, h3, h4, h5, h6.1.1, h6.1.2, h6.2⟩
  · exact ⟨h1, h2, h3, h4, h5, h6.1, h6.2⟩

/-- AluResults, ImmediateResults, ProductResults, AccumulatorResults, ShiftAmounts, MoveResults and the other statements on a core:
Efyon-S and a context can issue, with and without IMX. -/
theorem wit_can_issue : (core { pc := 0x1000 }).CanIssue .main false ∧ (core { pc := 0x1000, imx := some 0xFFFF }).CanIssue .main true ∧
    seq.CanIssue (.seq 3) false ∧ (core { pc := 0x1000 }).CanIssue .main true :=
  ⟨can (by decide), can (by decide), can (by decide), can (by decide)⟩

/-- EmptyQueueTicks: a running clock, a stopped one with and without VAON. -/
theorem wit_EmptyQueueTicks : (up id).pending = [] ∧ (up id).dev.pwr.ckSys = true ∧ State.reset.dev.pwr.ckSys = false ∧
    State.reset.dev.pwr.vaonOk = true ∧
    (let s := up (fun d => { d with pwr := { d.pwr with ckSys := false, vaonOk := false } })
     s.dev.pwr.ckSys = false ∧ s.dev.pwr.vaonOk = false) := by decide

/-- A canonical state, and a step of it that answers a next state. -/
theorem wit_StepKeepsCanonical : State.reset.Canonical ∧ ∃ t, step State.reset = .next t := ⟨by show Memory.wf _ = true; decide, _, rfl⟩

/-- DivisionResults: a division by 0 that traps, one by 0 that does not, and one by another number. -/
theorem wit_DivisionResults : ((core { pc := 0x1000, ctrl := 1 }).CanIssue .main false ∧ (core { pc := 0x1000, ctrl := 1 }).dev.esc.core.dr 2 = 0 ∧
      (core { pc := 0x1000, ctrl := 1 }).dev.esc.core.ctrl.getLsbD 0 = true) ∧
    (seq.CanIssue (.seq 3) false ∧ CoreId.seq 3 ≠ .main) ∧
    ((core { pc := 0x1000, ctrl := 1, d := [(2, 1)] }).CanIssue .main false ∧ (core { pc := 0x1000, ctrl := 1, d := [(2, 1)] }).dev.esc.core.dr 2 = 1) :=
  ⟨⟨can (by decide), by decide, by decide⟩, ⟨can (by decide), by decide⟩, can (by decide), by decide⟩

theorem wit_ArithmeticIsExact : (0xFFFFFFFF : Word) ≠ 0 := by decide

theorem wit_ArithmeticEdgeCases : (core { pc := 0x1000, acc := [(0, 0x7FFFFFFFFFFFFFFFFF)], d := [(1, 1)] }).CanIssue .main false ∧
    (core { acc := [(0, 0x7FFFFFFFFFFFFFFFFF)], d := [(1, 1)] }).dev.esc.core.ar 0 = 0x7FFFFFFFFFFFFFFFFF ∧
    (core { d := [(1, 1)] }).dev.esc.core.dr 1 = 1 ∧
    (2 ^ 31 : Int) ≤ (0x000000000080000000 : BitVec 72).toInt ∧ (0xFFFFFFFFFF7FFFFFFF : BitVec 72).toInt < -2 ^ 31 :=
  ⟨can (by decide), by decide, by decide, by decide, by decide⟩

/-- JumpResults: no delay slot and no repetition; the last target below the range of the tokens, the two tokens within their handlers,
a target of that range that R380 turns away, and the tokens outside their handlers. -/
theorem wit_JumpResults : (core { pc := 0x1000 }).CanIssue .main false ∧ (core { pc := 0x1000 }).dev.esc.core.slot = none ∧
    (core { pc := 0x1000 }).dev.esc.core.rep = none ∧ ((core { d := [(5, 0xFFFFFEFF)] }).dev.esc.core.dr 5).toNat < 0xFFFFFF00 ∧
    (let s := fun h => up (fun d => { d with esc := { d.esc with stack := [h], core := { d := [(5, 0xFFFFFFF0), (6, 0xFFFFFFF4)] } } })
     (s (.normal 16)).dev.esc.core.dr 5 = 0xFFFFFFF0 ∧ (s (.normal 16)).dev.esc.inNormal = true ∧
     (s (.fast 0)).dev.esc.core.dr 6 = 0xFFFFFFF4 ∧ (s (.fast 0)).dev.esc.inFast = true) ∧
    (CoreId.seq 3 ≠ .main ∧ ((0x1000 : Word) + (0x3FFFFFF : BitVec 26).signExtend 32 * 4).toNat < 0xFFFFFF00) ∧
    (0xFFFFFF00 ≤ ((core { d := [(5, 0xFFFFFF00)] }).dev.esc.core.dr 5).toNat ∧
      (core { d := [(5, 0xFFFFFFF0)] }).dev.esc.inNormal = false ∧ (core { d := [(5, 0xFFFFFFF4)] }).dev.esc.inFast = false) ∧
    (({ slot := some 8 } : Core).slot = some 8 ∧ ({ slot := some 8 } : Core).rep = none) :=
  ⟨can (by decide), by decide, by decide, by decide, by decide, by decide, by decide, by decide⟩

theorem wit_SkipResults : (core { pc := 0x1000 }).CanIssue .main false ∧
    (let s := core { pc := 0x1000, skip := true }
     s.dev.alive = true ∧ s.dev.ready .main = true ∧ (s.dev.core .main).skip = true ∧ (s.dev.core .main).pend = [] ∧
     s.dev.esc.entering = false) ∧
    (let s := up (fun d => (put (.ctx 3) .run d).setCtx 3 { skip := true })
     s.dev.alive = true ∧ s.dev.ready (.seq 3) = true ∧ (s.dev.core (.seq 3)).skip = true ∧ (s.dev.core (.seq 3)).pend = [] ∧
     s.dev.seqFetchBad 3 (s.dev.ctx 3).pc = false) := ⟨can (by decide), by decide, by decide⟩

theorem wit_PrefixResults : ((core { pc := 0x1000 }).CanIssue .main false ∧ (core { pc := 0x1000 }).CanIssue .main true ∧
      ((core { pc := 0x1000 }).dev.core .main).rep = none ∧ ((core { pc := 0x1000 }).dev.core .main).imx = none) ∧
    ({ rep := some 2 } : Core).rep = some (0 + 2) ∧ ({ rep := some 1 } : Core).rep = some 1 :=
  ⟨⟨can (by decide), can (by decide), by decide, by decide⟩, by decide, by decide⟩

theorem wit_StopResults : ((core { pc := 0x1000 }).CanIssue .main false ∧ (core { pc := 0x1000 }).dev.esc.waits = []) ∧
    (let s := up (fun d => { d with esc := { d.esc with core := { pc := 0x1000 }, waits := [{ pc := 0x1000, mark := 7, arm := 5, fired := true, level := 0 }] } })
     s.CanIssue .main false ∧ s.dev.esc.waits =
      { pc := (s.dev.core .main).unitAt, mark := 7, arm := 5, fired := true, level := s.dev.esc.stack.length } :: []) ∧
    (let s := up (fun d => { d with esc := { d.esc with core := { pc := 0x1000 }, stack := [.normal 16]
                                                        waits := [{ pc := 0x1000, mark := 7, arm := 5, fired := true, level := 0 }] } })
     s.CanIssue .main false ∧ 0 < s.dev.esc.stack.length) ∧ seq.CanIssue (.seq 3) false :=
  ⟨⟨can (by decide), by decide⟩, ⟨can (by decide), by decide⟩, ⟨can (by decide), by decide⟩, can (by decide)⟩

/-- Efyon-S with a0 at an address. -/
def loads (a : Word) : State := core { pc := 0x1000, x := [(0, a)] }

/-- A context in RUN with a0 at an address. -/
def seqLoads (a : Word) : State := up (fun d => (put (.ctx 3) .run d).setCtx 3 { x := [(0, a)] })

/-- MemoryAccesses: the lowest word and the highest byte of a window of Lakebed, and the last word of data memory. -/
theorem wit_MemoryAccesses : ((loads 0x20000000).CanIssue .main false ∧ (((loads 0x20000000).dev.core .main).ptrNext 0 0 0 2).2 = false ∧
      ((loads 0x20000000).dev.core .main).xr 0 + (0 : BitVec 12).signExtend 32 = 0x20000000 ∧
      (loads 0x20000000).dev.lakeSpan 0x20000000 4 = some 0 ∧
      (∀ i < 4, (loads 0x20000000).dev.inPoolRegion (0 + i) = false ∧ (loads 0x20000000).dev.inOcpen (0 + i) = false) ∧
      (loads 0x20000000).dev.mainUe 0x20000000 0 4 = []) ∧
    ((loads 0x2FFFFFFF).CanIssue .main false ∧ (((loads 0x2FFFFFFF).dev.core .main).ptrNext 0 1 0 0).2 = false ∧
      (loads 0x2FFFFFFF).dev.lakeSpan 0x2FFFFFFF 1 = some 0xFFFFFFF ∧ (loads 0x2FFFFFFF).dev.inPoolRegion 0xFFFFFFF = false ∧
      (loads 0x2FFFFFFF).dev.inOcpen 0xFFFFFFF = false ∧ (loads 0x2FFFFFFF).dev.mainUe 0x2FFFFFFF 0xFFFFFFF 1 = []) ∧
    (let u := State.lakeWrite { loads 0x20000000 with dev := (loads 0x20000000).dev.setCore .main ((loads 0x20000000).dev.core .main).retire } 0
       [1, 2, 3, 4]
     u.dev.close.health.load = none ∧ u.dev.close.pwr.fill = false) ∧
    ((seqLoads 0x1FFFC).CanIssue (.seq 3) false ∧ (((seqLoads 0x1FFFC).dev.core (.seq 3)).ptrNext 0 1 0 2).2 = false ∧
      ((seqLoads 0x1FFFC).dev.core (.seq 3)).xr 0 = 0x1FFFC ∧ (0x1FFFC < 0x20000 ∧ 0x1FFFC % 4 = 0) ∧
      (seqLoads 0x1FFFC).dev.ue.contains ((dataMem 0 + 0x1FFFC) / 8) = false) :=
  ⟨⟨can (by decide), by decide, by decide, by decide, by decide, by decide⟩,
    ⟨can (by decide), by decide, by decide, by decide, by decide, by decide⟩, by decide,
    ⟨can (by decide), by decide, by decide, by decide, by decide⟩⟩

theorem wit_PointerUpdates : (∀ k < 32, ((0 : Word) ≠ BitVec.ofNat 32 (2 ^ k))) ∧ (0x80000000 : Word) = BitVec.ofNat 32 (2 ^ 31) ∧
    ((0x10 : Word) ≠ 0 ∧ (0xFFFFFFF0 : Word).toNat + (0x10 : Word).toNat ≤ 2 ^ 32) := by decide

/-- Mac2Results: two words side by side, on Efyon-S and on Efyon-L. -/
theorem wit_Mac2Results : (0 : Ptr) ≠ 1 ∧
    (let s := core { pc := 0x1000, x := [(0, 0x20000000), (1, 0x20000004)] }
     s.CanIssue .main false ∧ ((s.dev.core .main).ptrNext 0 1 0 2).2 = false ∧ ((s.dev.core .main).ptrNext 1 1 0 2).2 = false ∧
     s.dev.lakeSpan ((s.dev.core .main).xr 0).toNat 4 = some 0 ∧ s.dev.lakeSpan ((s.dev.core .main).xr 1).toNat 4 = some 4 ∧
     s.dev.mainUe 0x20000000 0 4 = [] ∧ s.dev.mainUe 0x20000004 4 4 = [] ∧ ∀ i < 8, s.dev.inPoolRegion i = false ∧ s.dev.inOcpen i = false) ∧
    (let s := up (fun d => (put (.ctx 3) .run d).setCtx 3 { x := [(0, 0x1FFF8), (1, 0x1FFFC)] })
     s.CanIssue (.seq 3) false ∧ ((s.dev.core (.seq 3)).ptrNext 0 1 0 2).2 = false ∧ ((s.dev.core (.seq 3)).ptrNext 1 1 0 2).2 = false ∧
     ((s.dev.core (.seq 3)).xr 0).toNat < 0x20000 ∧ ((s.dev.core (.seq 3)).xr 1).toNat < 0x20000 ∧ 0x1FFF8 % 4 = 0 ∧ s.dev.ue = []) :=
  ⟨by decide, ⟨can (by decide), by decide, by decide, by decide, by decide, by decide, by decide, by decide⟩,
    ⟨can (by decide), by decide, by decide, by decide, by decide, by decide, by decide⟩⟩

theorem wit_QueueInstructions : (core { pc := 0x1000 }).CanIssue .main false ∧ (28 : Reg) ∈ ([4, 8, 12, 16, 20, 24, 28] : List Reg) ∧
    ((core { pc := 0x1000 }).dev.core .main).rep = none := ⟨can (by decide), by decide, by decide⟩

theorem wit_IllegalAndSteps : (core { pc := 0x1000 }).CanIssue .main true ∧ seq.CanIssue (.seq 3) true ∧ illegalWord 0xFFFFFFFF = true ∧
    (1 : BitVec 12) ≠ 0 ∧ (core { pc := 0x1000 }).CanIssue .main true ∧
    (up (put (.ctx 3) .parked)).dev.pathOk .host = true ∧ (up (put (.ctx 3) .parked)).dev.ust (.ctx 3) = .parked :=
  ⟨can (by decide), can (by decide), by decide, by decide, can (by decide), by decide, by decide⟩

/-- CoreInstructionsFrame, with the statements on results that use `coreIs`; and an ADD that answers a next state. -/
theorem wit_CoreInstructionsFrame : ((core { pc := 0x1000 }).dev.counted .main).Quiet ∧ (seq.dev.counted (.seq 3)).Quiet ∧
    (core { pc := 0x1000 }).CanIssue .main false ∧ gives (exec (.add .main 1 2 3) (core { pc := 0x1000 })) (fun _ => true) = true :=
  ⟨by unfold Dev.Quiet; decide, by unfold Dev.Quiet; decide, can (by decide), by decide⟩

/-- Efyon-S between two instructions, with source 15 or 1023 pending. -/
def asked (i : Nat) : State := up (fun d => { d with
  ic := { d.ic with pend := bset 0 i true, enS := bset 0 i true }
  esc := { d.esc with core := { pc := 0x1000, x := [(7, 0x20001000)] } } })

theorem wit_FastEntries : ((asked 15).Alive ∧ (asked 15).dev.esc.monHalt = false ∧ (asked 15).dev.fastRequest = some 15 ∧
      (asked 15).dev.esc.entering = false ∧ (asked 15).dev.esc.boundary = true ∧ (asked 15).dev.esc.inFast = false) ∧
    (asked 0).dev.fastRequest = some 0 ∧ (core { rep := some 3 }).dev.esc.core.returnPoint.rep ≠ 0 := by decide

theorem wit_NormalEntry : ∀ i, i = 16 ∨ i = 1023 → (asked i).Alive ∧ (asked i).dev.esc.running = true ∧ (asked i).dev.esc.monHalt = false ∧
    (asked i).dev.normalRequest = some i ∧ i < 1024 ∧ (asked i).dev.esc.entering = false ∧
    (asked i).dev.esc.boundary = true ∧ (asked i).dev.esc.stack = [] ∧
    ((asked i).dev.esc.core.xr 7 - 48).toNat % 16 = 0 ∧
    (asked i).dev.lakeSpan ((asked i).dev.esc.core.xr 7 - 48).toNat 48 = some 0xFD0 := by
  rintro i (rfl | rfl) <;> decide

/-- A state of `up` with changes of the power part. -/
def pwr (f : Pwr → Pwr) : State := up (fun d => { d with pwr := f d.pwr })

/-- A path that may act. -/
def via (s : State) (p : Path) : Bool := s.dev.pathOk p && (p == .host || p == .mgmt || p == .efyonS)

theorem via_of {s : State} {p : Path} (h : via s p = true) : s.Via p := by
  simp only [via, Bool.and_eq_true, Bool.or_eq_true, beq_iff_eq] at h
  exact ⟨h.1, or_assoc.mp h.2⟩

/-- SupplyAndClockEvents, clause by clause; the interlock and the trip also in a reset, and on a device that is OFF. -/
theorem wit_SupplyAndClockEvents : State.reset.dev.pwr.st ≠ .off ∧
    ((up id).dev.pwr.poreset = false ∧ (up id).dev.powered = true) ∧ (up id).dev.pwr.ckSys = true ∧
    ((up id).dev.alive = true ∧ (up id).dev.pwr.devOff = false) ∧
    ¬((pwr (fun p => { p with st := .reset })).dev.alive = true ∧ (pwr (fun p => { p with st := .reset })).dev.pwr.devOff = false) ∧
    (let s := pwr (fun p => { p with st := .reset, devOff := true })
     s.dev.powered = true ∧ s.dev.alive = false) ∧
    (let s := pwr (fun p => { p with st := .starting, devOff := true })
     s.dev.powered = true ∧ s.dev.alive = true ∧ s.dev.pwr.devOff = true) ∧
    ((up id).dev.powered = true ∧ (up id).dev.tripCool = true) ∧
    (up id).dev.alive = true ∧ (up id).dev.readyOk = true ∧ (up id).dev.pwr.ball = false := by decide

theorem wit_StartUp : (State.reset.dev.pwr.poreset = true ∧ State.reset.dev.pwr.st ≠ .off ∧ State.reset.dev.pwr.clockHeld = false) ∧
    (let s := pwr (fun p => { p with st := .reset, clockHeld := true, refclk := false })
     s.dev.pwr.clockHeld = true ∧ s.dev.pwr.poreset = false ∧ s.dev.pwr.railHeld = false) ∧
    (State.reset.dev.pwr.pair = none ∧ (pwr (fun p => { p with pair := some (1, 1), aonRc := true })).dev.pwr.aonRc = true ∧
      (let s := pwr (fun p => { p with pair := some (1, 1), aonRc := false }); s.dev.pwr.pair = some (1, 1) ∧ s.dev.pwr.aonRc = false)) ∧
    (let s := pwr (fun p => { p with st := .starting, devOff := true }); s.dev.alive = true ∧ s.dev.pwr.st = .starting) := by decide

/-- The second half of a start-up: STANDBY with its channels biasing, and none that calibrates. -/
theorem wit_StartReady : let s := pwr (fun p => { p with st := .standby, biasing := true })
    s.dev.alive = true ∧ s.dev.pwr.st ≠ .starting ∧ s.dev.pwr.biasing = true ∧ ∀ n < 512, s.dev.calibrating n = false := by decide

theorem wit_PowerSteps : via (up id) .mgmt = true ∧
    (let s := up (put (.chan 0) .run); s.dev.pwr.st = .ready ∧ s.dev.anyActive true = true) ∧
    ((up id).dev.pwr.st = .ready ∧ (up id).dev.anyActive true = false) ∧
    (pwr (fun p => { p with st := .standby })).dev.pwr.st = .standby ∧
    (let s := pwr (fun p => { p with kept := 2 })
     s.dev.alive = true ∧ s.dev.pwr.kept ≠ 0 ∧ s.dev.inTransition = false ∧ s.dev.pwr.st ≠ .safeOff) ∧
    (let s := pwr (fun p => { p with stopping := true }); s.dev.alive = true ∧ s.dev.pwr.stopping = true ∧ s.dev.pwr.st = .ready) ∧
    (let s := pwr (fun p => { p with st := .entering }); s.dev.alive = true ∧ s.dev.pwr.st = .entering ∧ s.dev.drained = true) ∧
    (let s := up (fun d => { d with pwr := { d.pwr with st := .entering },
                                    fab := { d.fab with pend := [⟨2, [1], 4, 0, none⟩] } } |>.wr (Dev.qAddr 2 + 8) 0x80000000)
     s.dev.alive = true ∧ s.dev.pwr.st = .entering ∧ s.dev.drained = false) ∧
    (let s := pwr (fun p => { p with st := .safeOff, leaving := 3 })
     s.dev.alive = true ∧ s.dev.pwr.st = .safeOff ∧ s.dev.pwr.leaving ≠ 0) ∧
    (let s := pwr (fun p => { p with st := .safeOff, wakeReq := true })
     s.dev.alive = true ∧ s.dev.pwr.st = .safeOff ∧ s.dev.pwr.wakeReq = true ∧ s.dev.pwr.leaving = 0) ∧
    (let s := pwr (fun p => { p with st := .safeOff, wakeReq := true })
     s.dev.alive = true ∧ s.dev.pwr.st = .safeOff ∧ s.dev.pwr.wakeReq = true ∧ s.dev.pwr.leaving = 0) := by decide

theorem wit_ResetCommands : (via (up id) .host = true ∧ (up id).dev.inReset = false ∧ (up id).dev.pwr.campOff.contains 15 = false ∧
      (up id).dev.pwr.campWait.contains 15 = false) ∧
    (let s := pwr (fun p => { p with campWait := [15] }); s.dev.alive = true ∧ s.dev.campReady 15 = true) ∧
    ((up id).dev.alive = true ∧ (up id).dev.esc.running = true ∧ (up id).dev.esc.monHalt = false) ∧
    ((up id).dev.alive = true ∧ (up id).dev.inReset = false) ∧
    (let s := pwr (fun p => { p with st := .starting, devOff := true }); s.dev.alive = true ∧ s.dev.inReset = true) ∧
    (via (up id) .efyonS = true ∧ fld (0x5744 : Word) 15 0 = 0x5744 ∧ fld (0x5745 : Word) 15 0 ≠ 0x5744) ∧
    (via (up id) .host = true ∧ Path.host ≠ .efyonS) := by decide

theorem wit_CampResetDone : let s := pwr (fun p => { p with campOff := [15] })
    s.dev.alive = true ∧ s.dev.pwr.campOff.contains 15 = true ∧ ∀ j < 32, s.dev.calibrating (32 * 15 + j) = false := by decide

theorem wit_HeaderCommands : via (up id) .mgmt = true ∧ via (up id) .host = true ∧ isPage 0x200000 = true ∧ (0x200000 : Nat) ≠ 0x16000 ∧
    hasSt 0x200000 = true ∧ (up id).dev.stageLocked 0x200000 = false ∧ isMain 0x200000 = true ∧ (pageUnit 0x200000).isSome = true ∧
    Path.host ≠ .mgmt ∧ isMain 0x8000 = false := by decide

/-- A member of a field, a root, and a root of one member whose proxy window selects an address. -/
def member : State := up (fun d => d.wr 0x1A040 0x11 |>.updVl (fun v => { v with addr := some 2, up := some 0, joined := true }))
def rootOf (v : Vierma → Vierma) : State := up (fun d => d.wr 0x1A040 0x13 |>.updVl (fun x => v { x with addr := some 1 }))
def rootSel (k : Word) : State := up (fun d => (d.wr 0x1A040 0x13 |>.updVl (fun x => { x with
  addr := some 1, members := [⟨2, 1, true, 0⟩] })).wr 0x1A060 k)

/-- RegisterAccess: writes below the proxy window up to its last word, through it to the own device, to a member and to no device,
and writes that cover no whole register. -/
theorem wit_RegisterAccess : (let s := pwr (fun p => { p with st := .starting }); via s .mgmt = true ∧ s.dev.pwr.st = .starting) ∧
    (up id).dev.pwr.st ≠ .starting ∧ via (up id) .mgmt = true ∧ via (up id) .host = true ∧ 0x1FFFFFC % 4 = 0 ∧
    (via (rootSel 1) .host = true ∧ (rootSel 1).dev.vl.addr = some ((rootSel 1).dev.proxySel .host)) ∧
    ((rootSel 2).dev.vl.addr ≠ some ((rootSel 2).dev.proxySel .host) ∧
      (rootSel 2).dev.proxyAssigned ((rootSel 2).dev.proxySel .host) = true) ∧
    ((rootSel 3).dev.vl.addr ≠ some ((rootSel 3).dev.proxySel .host) ∧
      (rootSel 3).dev.proxyAssigned ((rootSel 3).dev.proxySel .host) = false) ∧
    0x50FFFF % 4 ≠ 0 ∧ (0x514001 % 4 ≠ 0 ∧ 0x514000 ≤ 0x514001) := by decide

/-- A register whose one field is RW: a value that it takes, and one that it does not. -/
theorem wit_RegisterValue : slotOf 0x1D044 = none ∧ isPage (0x1D044 - 0x1D044 % 0x1000) = true ∧
    ((up id).dev.deviceCmd .host 0x1D044 1).isNone = true ∧
    ∃ x : Field, fieldsAt 0x1D044 = [x] ∧ x.acc = .rw ∧ x.ok (fld 1 x.hi x.lo) = true ∧ x.ok (fld 0 x.hi x.lo) = false :=
  ⟨by decide, by decide, by decide, _, rfl, by decide, by decide, by decide⟩

/-- A channel whose lowered declaration counts from its settling on. -/
def lowered (l : List Task) : State := up (fun d =>
  { put (.chan 511) .run d with settling := [((Un.chan 511).addr, true)], stove := { d.stove with tasks := l } })

theorem wit_SettlingEnd : Un.ofId 0x2000 = some .device ∧ SMap.get false (up id).dev.settling Un.device.addr = false ∧
    SMap.get false (up (fun d => { d with settling := [(Un.device.addr, true)] })).dev.settling Un.device.addr = true ∧
    Un.ofId 0xAFFF = none ∧ stillKey 0xAFFF = some 0xA000 ∧ Un.ofId 0x41FF = some (.chan 511) ∧
    (SMap.get false (lowered []).dev.settling (Un.chan 511).addr = true ∧ (lowered []).dev.unsettled (.chan 511) = false ∧
      (lowered []).dev.taskOf 1 511 true = none) ∧
    (let y : Task := { kind := 1, unit := 511, mw := 1, zones := [], dur := none, req := 0, adm := some 0 }
     SMap.get false (lowered [y]).dev.settling (Un.chan 511).addr = true ∧ (lowered [y]).dev.unsettled (.chan 511) = false ∧
     (lowered [y]).dev.taskOf 1 511 true = some y ∧ (lowered [y]).dev.decl 511 = 0 ∧ 0 < y.mw ∧ (lowered [y]).dev.ust (.chan 511) = .run) := by
  decide

/-- Pitches: each controller command by the controller's state, and the two ends of a check. -/
theorem wit_Pitches : via (up id) .host = true ∧ ((up (fun d => d.setCtl 16 { ps := .armed })).dev.ctl 16).ps.locks = true ∧
    (((up id).dev.ctl 16).ps.locks = false ∧ (up id).dev.pitchBusy 16 = false ∧ ((up id).dev.ctl 16).ps ≠ .passed) ∧
    (let s := up (fun d => d.setCtl 0 { ps := .armed }); (s.dev.ctl 16).ps.locks = false ∧ s.dev.pitchBusy 16 = true) ∧
    (let s := up (fun d => d.setCtl 16 { ps := .passed })
     (s.dev.ctl 16).ps.locks = false ∧ s.dev.pitchBusy 16 = false ∧ (s.dev.ctl 16).ps = .passed ∧ s.dev.noInstant 16 = false) ∧
    (let s := up (fun d => (d.setCtl 16 { ps := .passed }).wr 0x1304 2)
     (s.dev.ctl 16).ps.locks = false ∧ s.dev.pitchBusy 16 = false ∧ (s.dev.ctl 16).ps = .passed ∧ s.dev.noInstant 16 = true) ∧
    (let s := up (fun d => d.setCtl 16 { ps := .checking }); s.dev.alive = true ∧ (s.dev.ctl 16).ps = .checking) ∧
    (let s := up (fun d => d.setCtl 16 { ps := .armed })
     s.dev.alive = true ∧ (s.dev.ctl 16).ps = .armed ∧ s.dev.pitchDue 16 = true) := by decide

/-- Channel 511 with its flaps in a phase. -/
def chan (p : FlapPhase) (c : ChanDyn) : State :=
  up (fun d => (put (.chan 511) .run d).setCh 511 { c with fF := { ph := p }, fS := { ph := p } })

/-- HardOpen: a flap that is closed, one that closes, one that this cycle began to close, and another channel. -/
theorem wit_HardOpen : (((chan .closed {}).dev.ch 511).flap .force).ph = .closed ∧
    ((((chan .closing {}).dev.ch 511).flap .sense).ph = .closing ∧ ((chan .closing {}).dev.ch 511).closeAt ≠ some (chan .closing {}).dev.now) ∧
    (((chan .closing { closeAt := some 1000 }).dev.ch 511).flap .force).ph = .closing ∧
    ((chan .closing { closeAt := some 1000 }).dev.ch 511).closeAt = some (chan .closing { closeAt := some 1000 }).dev.now ∧
    (0 : Nat) ≠ 511 := by decide

theorem wit_FlapEvents : (chan .closing {}).dev.alive = true ∧ (((chan .closing {}).dev.ch 511).flap .force).ph = .closing ∧
    (((chan .opening {}).dev.ch 511).flap .sense).ph = .opening ∧ ((chan .closed { ramp := .toHeld }).dev.ch 511).ramp ≠ .none ∧
    ((chan .closed { ramp := .toHeld }).dev.ch 511).ramp = .toHeld ∧
    (let s := up (fun d => d.setCh 511 { ramp := .toOpen true false })
     (s.dev.ch 511).ramp = .toOpen true false ∧ s.dev.ust (.chan 511) ≠ .run) := by decide

/-- A channel in RUN that senses with four wires, its flaps closed and its amplifier on; COMP as given. -/
def sensing (comp : Word) (c : ChanDyn) : State :=
  up (fun d => ((((put (.chan 511) .run d).setCh 511 { c with fF := { ph := .closed }, fS := { ph := .closed }, ampOn := true }).wr
    (chanPage 511 + 0x40) 0x1001).wr (chanPage 511 + 0x4C) comp))

theorem wit_ChannelEvents : (chan .closed {}).dev.alive = true ∧ ((chan .closed {}).dev.ch 511).fF.ph = .closed ∧
    (let e := (sensing 0 {}).dev.words 511 0 0 1000
     e.ust (.chan 511) = .run ∧ e.chWire 511 = true ∧ (e.ch 511).fF.ph = .closed ∧ (e.ch 511).fS.ph = .closed ∧
     (e.ch 511).ampOn = true ∧ e.chMode 511 ≠ 0 ∧ (e.ch 511).localSense = false ∧ e.rf (chanPage 511 + 0x4C) 23 0 = 0) ∧
    (let e := (sensing 1 {}).dev.words 511 0 0 1000
     e.ust (.chan 511) = .run ∧ e.rf (chanPage 511 + 0x4C) 23 0 ≠ 0 ∧ (e.ch 511).complyRec = false ∧
     e.rf (chanPage 511 + 0x4C) 25 24 ≠ 1) ∧
    (let e := (sensing 0x1000001 {}).dev.words 511 0 0 1000
     e.ust (.chan 511) = .run ∧ e.rf (chanPage 511 + 0x4C) 23 0 ≠ 0 ∧ (e.ch 511).complyRec = false ∧
     e.rf (chanPage 511 + 0x4C) 25 24 = 1) ∧
    (let e := (sensing 1 { complyRec := true }).dev.words 511 0 0 1000
     e.ust (.chan 511) = .run ∧ (e.ch 511).complyRec = true) := by decide

/-- Apertures of one half and of two, and a calibration in progress. -/
theorem wit_ApertureEnd : (let s := up (fun d => ((put (.chan 511) .run d).setCh 511 { ap := true }).wr (chanPage 511 + 0x6C) 1)
      s.dev.alive = true ∧ (s.dev.ch 511).ap = true ∧ (s.dev.ch 511).apAt = none ∧ s.dev.ust (.chan 511) = .run ∧
      ([⟨5, 6, 0, 1, false⟩] : List HalfSum).length = halvesOf (s.dev.rf (chanPage 511 + 0x68) 23 16) ∧
      (∀ h ∈ ([⟨5, 6, 0, 1, false⟩] : List HalfSum), h.n = s.dev.rf (chanPage 511 + 0x6C) 20 0) ∧
      s.dev.rf (chanPage 511 + 0x68) 23 16 = 0 ∧ bit (s.dev.rd (chanPage 511 + 0x74)) 15 = false) ∧
    (let s := up (fun d => (((put (.chan 511) .run d).setCh 511 { ap := true }).wr (chanPage 511 + 0x6C) 1).wr (chanPage 511 + 0x68) 0x10000)
     ([⟨5, 6, 0, 1, false⟩, ⟨7, 6, 0, 1, true⟩] : List HalfSum).length = halvesOf (s.dev.rf (chanPage 511 + 0x68) 23 16)) ∧
    (let t : Task := { kind := 3, unit := 511, mw := 600, zones := [], dur := some 1, req := 0, adm := some 0 }
     let s := up (fun d => { d.setCh 511 { cal := 1 } with stove := { d.stove with tasks := [t] } })
     s.dev.alive = true ∧ (s.dev.ch 511).cal ≠ 0 ∧ s.dev.taskOf 3 511 true ≠ none) := by decide

/-- Channel 511 in RUN with HI of the voltage and LO of the current at 0, and CMP_CTL. -/
def windows (ctl : Word) : Dev :=
  (up (fun d => (((put (.chan 511) .run d).wr (chanPage 511 + 0x54) 0).wr (chanPage 511 + 0x60) 0).wr (chanPage 511 + 0x64) ctl)).dev

/-- ComparatorEntry: a word that enters a window under each action, and one at the threshold that enters none. -/
theorem wit_ComparatorEntry : ((windows 0).cmpEnters 511 true 1 = [0] ∧ (windows 0).cmpAct 511 0 = 0) ∧
    ((windows 2).cmpEnters 511 true 1 = [0] ∧ (windows 2).cmpAct 511 0 = 2) ∧
    ((windows 4).cmpEnters 511 false 0xFFFFFFFF = [3] ∧ (windows 4).cmpAct 511 3 ≠ 0 ∧ (windows 4).cmpAct 511 3 ≠ 2) ∧
    (windows 0).cmpEnters 511 true 0 = [] ∧
    ((windows 0).ust (.chan 511) = .run ∧ ((windows 0).ch 511).cmp.getLsbD 0 = false ∧ (windows 0).cmpBeyond 511 0 (satWord 1) = true) := by
  decide

theorem wit_CalibrationCommands : (let s := up (put (.chan 511) .ready)
      via s .host = true ∧ (s.dev.ch 511).cal = 0 ∧ s.dev.calAllowed 511 = true) ∧
    (let s := up (put (.chan 511) .run); via s .host = true ∧ (s.dev.ch 511).cal = 0 ∧ s.dev.calAllowed 511 = false) := by decide

/-- A phase that this cycle moves from 0 to 1 on a virtual source, with a mark at position 1. -/
def moving (mv : Travel) (regs : List (Nat × Word)) : State := up (fun d =>
  { d with regs := regs, cps := { d.cps with hist := [⟨999, 0, true, 6, mv, 0⟩], seen := 0 } })

theorem wit_ZStuck : (let s := up (fun d => (d.wr 0x4040 0x10001).setEnc 0 { d.enc 0 with z := true, zRun := 5 })
      s.dev.alive = true ∧ s.dev.encEn 0 = true ∧ (s.dev.enc 0).zStuck = false ∧ (s.dev.enc 0).z = true ∧ 4 < (s.dev.enc 0).zRun) ∧
    (let s := up (fun d => (d.wr 0x4040 0x10001).setEnc 0 { d.enc 0 with z := true, zRun := 4 })
     s.dev.alive = true ∧ s.dev.encEn 0 = true ∧ (s.dev.enc 0).zStuck = false ∧ (s.dev.enc 0).zRun ≤ 4) := by decide

theorem wit_PhaseCommands : (let s := up (fun d => d.wr 0x4040 0x10001)
      s.dev.alive = true ∧ s.dev.encEn 0 = true ∧ s.dev.encZmode 0 ≠ 0 ∧ (s.dev.enc 0).zStuck = false ∧ (s.dev.enc 0).lineZ = false) ∧
    (up (fun d => d.wr 0x4080 1)).dev.rb 0x4080 0 = true ∧
    ((up (fun d => d.wr 0x40A0 1)).dev.rb 0x40A0 0 = true ∧ (up (fun d => d.wr 0x40A0 1)).dev.cps.pulse.stuck = false) ∧
    (let s := up (fun d => d.wr 0x3040 1)
     s.dev.alive = true ∧ s.dev.cps.stalled = false ∧ s.dev.phSrc ≠ 0 ∧ s.dev.phSrc ≠ 6 ∧ s.dev.stallDue = true) ∧
    (let s := up (fun d => (d.wr 0x3040 1).setCps { d.cps with lastAcc := some 1000 })
     s.dev.alive = true ∧ s.dev.cps.stalled = false ∧ s.dev.phSrc ≠ 0 ∧ s.dev.phSrc ≠ 6 ∧ s.dev.stallDue = false) ∧
    (moving (.extrap 1 1 1) []).dev.cps.hist = [⟨999, 0, true, 6, .extrap 1 1 1, 0⟩] ∧
    (1 ≤ ((moving (.extrap 1 1 1) []).dev.now - 999).toNat + 0 ∧ ((moving (.extrap 1 1 2) []).dev.now - 999).toNat + 0 < 2) ∧
    (moving (.virtual 0 0x10000) [(0x5040, 1), (0x5048, 1)]).dev.markHit 0 = some (1, 0, false) ∧ (up id).dev.markHit 255 = none ∧
    (via (up (fun d => d.wr 0x3040 1)) .host = true ∧ (up (fun d => d.wr 0x3040 1)).dev.phSrc ≠ 0) := by decide

theorem wit_QuadratureSteps : let d := (up (fun d => (d.wr 0x4040 1).wr 0x4044 4)).dev
    d.encEn 0 = true ∧ ((d.enc 0).lineA = false ∧ (d.enc 0).lineB = false ∧ (d.enc 0).lineZ = false) ∧
    ((d.setEnc 0 { lineA := true }).enc 0).lineA = true ∧ ((d.enc 0).a = false ∧ (d.enc 0).b = false) ∧
    (d.enc 0).count + 1 < d.encCpt 0 ∧ d.encCpt 0 ≤ ((d.setEnc 0 { count := 3 }).enc 0).count + 1 ∧
    0 < ((d.setEnc 0 { count := 3 }).enc 0).count ∧ (d.enc 0).count = 0 ∧
    ((if true = (d.enc 0).a then true == false else true != false) != d.rb (encAt 0) 8) = true ∧
    ((if false = (d.enc 0).a then false == true else false != true) != d.rb (encAt 0) 8) = false := by decide

/-- MarkTest: each MODE and DIR, an interval that holds a position and one that does not, and travel over the wrap. -/
theorem wit_MarkTest : (up id).dev.cps.markWas = [] ∧ (up (fun d => d.wr 0x5048 0x1)).dev.rf 0x5048 2 0 = 1 ∧
    (up (fun d => d.wr 0x5048 0x12)).dev.rf 0x5048 2 0 = 2 ∧ (up (fun d => d.wr 0x5048 0x23)).dev.rf 0x5048 2 0 = 3 ∧
    (up id).dev.rf 0x5048 2 0 = 0 ∧ (up (fun d => d.wr 0x5048 0x1)).dev.rf 0x5048 5 4 = 0 ∧
    (up (fun d => d.wr 0x5048 0x12)).dev.rf 0x5048 5 4 = 1 ∧ (up (fun d => d.wr 0x5048 0x23)).dev.rf 0x5048 5 4 = 2 ∧
    (up (fun d => d.wr 0x5048 0x1)).dev.rb 0x5048 8 = false ∧ gridCount 3 10 (3, 13) = 2 ∧ gridCount 3 10 (4, 12) = 0 ∧
    ((∃ x ∈ crossed (2 ^ 48 - 1) 2, x.1 ≤ 0 ∧ 0 ≤ x.2) ∧ 0 = (2 ^ 48 - 1 + 1) % 2 ^ 48) ∧
    ((∃ x ∈ crossed 0 (-1), x.1 ≤ 2 ^ 48 - 1 ∧ 2 ^ 48 - 1 ≤ x.2) ∧ 2 ^ 48 - 1 = (0 + 2 ^ 48 - 1) % 2 ^ 48) := by decide

/-! ### Weir -/

/-- The configuration of a run: one lead frame, one frame of 1 µs chips. -/
def wcfg (field : Bool) : WeirCfg :=
  { wcfg := if field then 0x10011000 else 0x00011000, amp := 0, avg := 1, rconn := 0, rres := 0, riso := 0, limits := 0,
    settle := 0, dc := 0, ref := 0, recq := 0, fstore := 0, pos := 0 }

/-- A run of channel 511, and its place in the run. -/
def weirRun (r f : Nat) (field : Bool) (g : WeirData → WeirData) : State := up (fun d => { d with weir := { d.weir with
  rstate := r, admitted := true, frames := f, run := some (g { cfg := wcfg field, parts := [(511, 0x40000000)] }) } })

/-- A start that becomes a run. -/
theorem wit_WeirStart : let s := up (fun d => ((put (.chan 511) .run d).wr (chanPage 511 + 0x40) 3).wr (wsPage 15 + 0x80 + 31 * 4) 0x40000000)
    via s .host = true ∧ s.dev.weirBusy = false ∧ s.dev.bankOk (s.dev.weirCfg 0) = true ∧ s.dev.rf 0x1A04C 2 0 = 0 ∧
    (List.range 512).filter (fun n => s.dev.ust (.chan n) == .run && s.dev.chMode n == 3) = [511] ∧
    s.dev.ratio (s.dev.weirCfg 0).drive 511 ≠ 0 := by decide

/-- A busy engine, and aborts with no run, of a run that ends already, between two chip boundaries, at one, and before the drive. -/
theorem wit_WeirAbort : (via (weirRun 1 0 false id) .host = true ∧ (weirRun 1 0 false id).dev.weirBusy = true) ∧
    (via (up id) .host = true ∧ (up id).dev.weir.run = none) ∧
    ((weirRun 4 2 false (fun w => { w with sent := true })).dev.weir.run.map (·.sent) = some true) ∧
    (let s := weirRun 3 1 false (fun w => { w with start := 500 })
     s.dev.weirDriving = true ∧ s.dev.weir.run.all (fun w => !w.sent && w.stop.isNone && s.dev.chipBound w != s.dev.now) = true) ∧
    (let s := weirRun 3 1 false (fun w => { w with start := 1000 })
     s.dev.weir.run.all (fun w => !w.sent && w.stop.isNone && s.dev.chipBound w == s.dev.now) = true) ∧
    (weirRun 1 0 false id).dev.weirDriving = false := by decide

/-- The steps of a run: ready and not, a frame of the lead and one that counts, in a field without synchronisation, the drive's end,
and the commit with its end now and later. -/
theorem wit_WeirRun : (let s := weirRun 1 0 false id
      let s := { s with dev := (put (.chan 511) .run s.dev).wr (chanPage 511 + 0x40) 3 }
      s.dev.alive = true ∧ s.dev.weirReady = true ∧ s.dev.weirIn 511 = true) ∧ ((weirRun 1 0 false id).dev.alive = true ∧ (weirRun 1 0 false id).dev.weirReady = true) ∧
    (weirRun 1 0 true id).dev.weirReady = false ∧
    ((weirRun 2 0 false id).dev.weir.rstate = 2 ∧ (wcfg false).field = false) ∧
    ((weirRun 3 1 true id).dev.weir.rstate = 3 ∧ (wcfg true).field = true) ∧
    (weirRun 3 1 false id).dev.weir.run.all (fun w => !w.notMeas 511) = true ∧
    ((weirRun 3 2 false id).dev.weir.frames = (wcfg false).lead + (wcfg false).frames ∧
      (weirRun 3 2 false id).dev.weir.run.all (fun w => w.stop.isNone) = true) ∧
    (weirRun 3 2 true id).dev.weir.frames = (wcfg true).lead + (wcfg true).frames ∧
    ((weirRun 4 2 false id).dev.weir.rstate = 4 ∧
      (weirRun 4 2 false id).dev.weir.run.all (fun w => !w.sent && !w.cfg.refEn && w.drops == []) = true) ∧
    (let s := weirRun 4 2 false (fun w => { w with sent := true })
     s.dev.weir.run.all (fun w => w.sent && !s.dev.weirWaits w) = true ∧
     s.dev.weir.run.all (fun w => ({ s.dev with fab := { s.dev.fab with pend := [⟨0, [1], 4, 0xAFFF, none⟩] } } : Dev).weirWaits w) =
       true) := by decide

/-- A stream whose channel is biased, and one output that waits, due and not. -/
def waiting (p : BitVec 48) (cut : Bool) : State :=
  up (fun d => (put (.chan 511) .ready d).updStrm 15 63 (fun x => { x with waits := [⟨0, p, 0, false, cut⟩] }))

theorem wit_ReedbedCommands : (waiting 0 true).dev.alive = true ∧ streamChan 15 63 = 511 ∧
    ((waiting 0 true).dev.ust (.chan 511)).biased = true ∧ ((up id).dev.ust (.chan 511)).biased = false ∧
    ((waiting 0 true).dev.cmpWord 511 (63 % 2 == 0) 0 1000).rbOn 15 = false ∧
    ((waiting 0 true).dev.strm 15 63).waits = [⟨0, 0, 0, false, true⟩] ∧
    0 ≤ phDiff (0 + BitVec.ofNat 48 ((waiting 0 true).dev.phLag 15 63)) (waiting 0 true).dev.tracked.pos ∧
    phDiff (5 + BitVec.ofNat 48 ((waiting 5 false).dev.phLag 15 63)) (waiting 5 false).dev.tracked.pos < 0 ∧
    (let s := up (fun d => ((put (.camp 15) .ready d).wr (rbPage 15 + 0x40) 1).setReed 15 { loading := true })
     (s.dev.reed 15).loading = true ∧ (s.dev.setReed 15 { s.dev.reed 15 with loading := false }).rbOn 15 = true) ∧
    (let s := up (fun d => d.setReed 15 { loading := true })
     (s.dev.reed 15).loading = true ∧ (s.dev.setReed 15 { s.dev.reed 15 with loading := false }).rbOn 15 = false) ∧
    ((up id).dev.reed 15).loading = false ∧ via (up id) .host = true := by decide

theorem wit_FloatCommands : (let s := up (fun d => (d.wr (flAt 2047 + 0xC) 2).updFl 2047 (fun x => { x with openEdge := some 5 }))
     s.dev.alive = true ∧ (s.dev.fl 2047).openEdge = some 5 ∧ s.dev.flGmode 2047 = 2) ∧
    ((up id).dev.alive = true ∧ ((up id).dev.fl 2047).openEdge = none ∧ via (up id) .host = true) := by decide

theorem wit_StoveEvents :
    let t : Task := { kind := 1, unit := 511, mw := 1, zones := [], dur := some 5, req := 0, adm := some 0 }
    let s := up (fun d => { put (.chan 511) .run d with stove := { d.stove with tasks := [t] } })
    let w := up (fun d => { d with stove := { d.stove with tasks := [{ t with adm := none }] } } |>.wr 0x805C 1)
    (s.dev.alive = true ∧ s.dev.taskOf 1 511 true = some t ∧ t.dur ≠ none ∧ s.dev.ust (.chan 511) = .run) ∧
    (w.dev.alive = true ∧ w.dev.taskOf 1 511 false = some { t with adm := none } ∧ w.dev.rd 0x805C ≠ 0) := by decide

/-! ### Queues, timers, interrupts -/

theorem wit_QueueCommands : via (up id) .host = true ∧ ((up id).dev.path .host).pkt = none ∧
    (let s := up (fun d => d.setPath .host { pkt := some { q := 1023, items := [1] } })
     via s .host = true ∧ (s.dev.path .host).pkt = some { q := 1023, items := [1] }) ∧ ((up (fun d => d.putQueue 1023 { rd := 1 })).dev.queue 1023).rd ≠ 0 ∧
    (up (put (.queue 1023) .ready)).dev.qState 1023 ≠ .run ∧
    (let s := up (fun d => { put (.queue 1023) .run d with fab := { d.fab with pend := [⟨1023, [1], 4, 0, none⟩] } } |>.wr
      (Dev.qAddr 1023 + 0xC) 16)
     s.dev.alive = true ∧ (s.dev.fab.pend.filter (fun y => y.q == 1023)).head? = some ⟨1023, [1], 4, 0, none⟩ ∧ s.dev.qState 1023 = .run ∧
     cellsOf ([1] : List Word).length ≤ s.dev.credit 1023) ∧
    (let s := up (fun d => (d.wr (Dev.qAddr 1023 + 8) 0x10000000).putQueue 1023 { pkts := [{ items := [1] }, { items := [2] }] })
     s.dev.alive = true ∧ s.dev.spillDue 1023 = true ∧ spillPick (s.dev.queue 1023).pkts ≠ none) ∧
    (let s := up (fun d => (d.wr (Dev.qAddr 1023 + 8) 0x10).putQueue 1023 { pkts := [{ items := [1], spilled := true }] })
     s.dev.alive = true ∧ (s.dev.queue 1023).pkts.find? (·.spilled) = some { items := [1], spilled := true } ∧
     s.dev.ownCells 1023 + ({ items := [1], spilled := true } : Packet).cells ≤ s.dev.rf (Dev.qAddr 1023 + 8) 16 0) := by decide

theorem wit_TimerCommands :
    (let s := up (fun d => (put (.timer 31) .run d |>.wr (tmAt 31 + 0xC) 1).updTm 31 (fun x => { x with running := true, outM := true }))
     s.dev.alive = true ∧ s.dev.ust (.timer 31) = .run ∧ (s.dev.tm 31).running = true ∧ s.dev.tmPre 31 ≠ 0 ∧ (s.dev.tm 31).outM = true ∧
     (s.dev.tmMatch 31).toNat ≤ (s.dev.tmTop 31).toNat ∧ via s .host = true) ∧
    (let s := up (fun d => d.wr 0xE04C 0x101)
     s.dev.alive = true ∧ (s.dev.tin 3).level ≠ true ∧ s.dev.tinEn 3 = true ∧ s.dev.rf 0xE04C 23 8 ≠ 0 ∧ (s.dev.tin 3).stuck = false ∧ s.dev.tinQuiet 3 = true) ∧
    (let s := up (fun d => { d with pwr := { d.pwr with unitsOff := true } })
     via s .host = true ∧ s.dev.ust (.timer 31) = .off ∧ (up id).dev.ust (.timer 31) ≠ .off) ∧
    (let d := (up (fun d => (d.wr (tmAt 31 + 0x18) 5).wr (tmAt 31 + 0x10) 1)).dev
     (d.tm 31).count.toNat < (d.tmTop 31).toNat) ∧
    ((up (fun d => d.updTm 31 (fun x => { x with count := 0xFFFFFFFFFFFFFFFF }))).dev.tmTop 31).toNat ≤ 0xFFFFFFFFFFFFFFFF := by decide

theorem wit_InterruptCommands : via (up id) .host = true ∧ (0x3FF : Word).toNat < 1024 ∧ 1024 ≤ (0x400 : Word).toNat ∧
    (via (asked 1023) .efyonS = true ∧ (asked 1023).dev.ic.claimable .efyonS = some 1023) ∧
    (let s := up (fun d => { d with ic := { d.ic with pend := bset 0 0 true, enH := bset 0 0 true } })
     via s .host = true ∧ s.dev.ic.claimable .host = some 0) ∧ Path.host ≠ .efyonS := by
  decide

/-- ClaimTakesLowest: a source in range. -/
theorem wit_ClaimTakesLowest : (1023 : Nat) < 1024 ∧ (asked 1023).dev.ic.pend.getLsbD 1023 = true := by decide

/-! ### Host port, management bus, Campwatch -/

theorem wit_HostLinkEvents : ((up id).dev.host.perst = false ∧ (up id).dev.alive = true ∧ (up id).dev.inReset = false) ∧
    (let s := pwr (fun p => { p with st := .starting, causes := 16 })
     s.dev.host.perst = false ∧ s.dev.alive = true ∧ s.dev.inReset = true ∧ s.dev.pwr.causes % 16 = 0) ∧
    (let s := pwr (fun p => { p with st := .starting, causes := 2 })
     s.dev.host.perst = false ∧ s.dev.alive = true ∧ s.dev.inReset = true ∧ s.dev.pwr.causes % 16 ≠ 0) ∧
    (let s := pwr (fun p => { p with st := .reset }); s.dev.host.perst = false ∧ s.dev.alive = false) ∧
    (up (fun d => d.setHost { perst := true })).dev.host.perst = true ∧
    ((up id).dev.pwr.refclk = true ∧ (up id).dev.pwr.factory = false) ∧ (pwr (fun p => { p with factory := true })).dev.pwr.factory = true ∧
    (up id).dev.host.linkUp = true ∧ (up id).dev.host.cfg.aspmL1 = true ∧ (up id).dev.outbound = false ∧
    (up (fun d => d.setHost { d.host with cfg := { d.host.cfg with aspmL1 := false } })).dev.host.cfg.aspmL1 = false := by decide

theorem wit_Bar2Requests : (up id).dev.pathOk .host = true ∧ (up id).dev.bar2Locked 0xFFFFFFFF = false ∧
    (up id).dev.bar2Locked 0xFFFFFFF = true ∧ (up id).dev.ueIn 0xFFFFFFFF 1 = [] ∧ (up id).dev.inPoolRegion 0xFFFFFFFF = false ∧
    (up id).dev.inOcpen 0xFFFFFFFF = false ∧ (up id).dev.close.health.load = none ∧ (up id).dev.close.pwr.fill = false := by decide

/-- An outlet in RUN with a buffer, which the queue 1023 feeds. -/
def outlet15 : State := up (fun d =>
  let d := (((put (.outlet 15) .run d).wr (olAt 15 + 0xC) 1).setOl 15
    { tail := 2, buf := some { addr := 64, len := 16384, openAt := d.now - 1000 } })
  let d := (put (.queue 1023) .run d).wr (Dev.qAddr 1023 + 8) 0x01F00000
  { d with host := { d.host with busMaster := true }
           fab := { d.fab with queues := [(1023, { pkts := [{ items := [1, 2, 3], order := 0 }] })] } })

theorem wit_OutletCommands : let s := outlet15
    via s .host = true ∧ s.dev.alive = true ∧ s.dev.ust (.outlet 15) = .run ∧
    (s.dev.ol 15).buf = some { addr := 64, len := 16384, openAt := s.dev.now - 1000 } ∧ s.dev.rf (olAt 15 + 0xC) 23 0 ≠ 0 ∧
    s.dev.rf (olAt 15 + 0xC) 23 0 * 1000 ≤ (s.dev.now - (s.dev.now - 1000)).toNat ∧ s.dev.canMaster = true ∧
    (1 : BitVec 16) ≠ (s.dev.ol 15).head ∧ 1 ≤ 2 ^ s.dev.rf (olAt 15 + 8) 20 16 ∧ 2 ^ s.dev.rf (olAt 15 + 8) 20 16 < 9 ∧
    (∀ y ∈ ([(64, 16384)] : List (Nat × Nat)).take (min 8 ((2 : BitVec 16) - 0).toNat), y.1 % 64 = 0 ∧ 16384 ≤ y.2) := by decide

theorem wit_OutletCommands_packet : let s := outlet15
    s.dev.olQueues 15 = [1023] ∧ (s.dev.queue 1023).pkts = [{ items := [1, 2, 3], order := 0 }] ∧ (s.dev.queue 1023).lossTag = false ∧
    (s.dev.ol 15).kick ≠ 1 ∧ (up id).dev.ust (.outlet 15) ≠ .run ∧
    (up (fun d => put (.outlet 15) .run d)).dev.canMaster = false := by decide

theorem wit_MgmtCommands : via (up id) .mgmt = true ∧ via (up id) .host = true ∧ Path.mgmt ≠ .host ∧ Path.mgmt ≠ .efyonS ∧
    (let s := up (fun d => { d with mgmt := { d.mgmt with atnPend := 0x20 } } |>.wr 0x18048 0x0A000020)
     s.dev.alive = true ∧ s.dev.mgmt.backoff = none ∧ s.dev.mgmt.atnPend &&& (s.dev.rd 0x18048).truncate 6 ≠ 0) ∧
    (let m : Mgmt := { fetched := some ⟨1, 4, some [0xC1]⟩, sent := [4, 1, 2, 3, 4, 9], backoff := some (5, 10000000), atnActive := true }
     let s := up (fun d => { d with mgmt := m })
     s.dev.alive = true ∧ s.dev.mgmt.fetched = some ⟨1, 4, some [0xC1]⟩ ∧ s.dev.mgmt.backoff = some (5, 10000000) ∧
     s.dev.mgmt.atnActive = true) := by decide

/-- R430, R434: a commit at the repeated START that writes CLK.RESET ends the transaction; nothing is read, and the MGMT page
has its reset values. -/
theorem test_mgmt_reset_abandons :
    let x : MgmtXfer := { bytes := [0xA0, 0x50, 0x01, 0x00, 0x53, 0x4B], readN := 2, err := some .proto }
    let d := (up id).dev.mgmtXfer x
    d.pwr.st = .starting ∧ d.mgmt.busy = false ∧ d.mgmt.sent = [] ∧ d.mgmt.xfers = 0 ∧ d.rd 0x1800C = 0 := by decide

theorem wit_CampwatchCommands : (up id).dev.pwr.st ≠ .off ∧
    (let s := up (fun d => ({ d with pwr := { d.pwr with aonCnt := 4 } } : Dev).wr 0x1909C 0x040001C0)
     bit (s.dev.rd (0x19080 + 4 * 7)) 7 = true ∧ (s.dev.sns 7).level ≠ (false != bit (s.dev.rd (0x19080 + 4 * 7)) 6) ∧
     fld (s.dev.rd (0x19080 + 4 * 7)) 31 24 ≤ (s.dev.pwr.aonCnt - 1).toNat + 1 ∧ (s.dev.pwr.aonCnt - 1).toNat < 2 ^ 47 ∧
     fld (s.dev.rd (0x19080 + 4 * 7)) 15 8 ≠ 0 ∧
     ((s.dev.setSns 7 { level := true }).sns 7).level = true ∧ ((s.dev.setSns 7 { level := true }).sns 7).stuck = false) ∧
    (let s := up (fun d => (d.setCw { d.cw with table := [(2040, 0x80000000)], due := [255] }).wr 0x190CC 0x80000000)
     bit (s.dev.pollWord (8 * 255)) 31 = true ∧ s.dev.rb (0x190C0 + 4 * (255 / 64)) 31 = true ∧ 255 ∈ s.dev.cw.due ∧ 255 ∉ s.dev.cw.first) ∧
    (let s := up (fun d => (d.setCw { d.cw with table := [(2040, 0x80000000)] }).wr 0x190CC 0x80000000)
     bit (s.dev.pollWord (8 * 255)) 31 = true ∧ s.dev.rb (0x190C0 + 4 * (255 / 64)) 31 = true ∧ 255 ∉ s.dev.cw.due ∧ 255 ∉ s.dev.cw.first ∧
     255 ∈ (s.dev.setCw { s.dev.cw with first := [255] }).cw.first) ∧
    (let s := up (fun d => d.setCw { d.cw with cur := some ⟨255, [0x00400001], 0, 0⟩ })
     s.dev.cw.cur = some ⟨255, [0x00400001], 0, 0⟩ ∧ fld (([0x00400001] : List Word).getD 0 0) 24 22 = ([0x55] : List Byte).length) ∧
    (let s := up (fun d => (d.setCw { d.cw with wakeDrv := true }).wr 0x1904C 1)
     s.dev.cw.wakeDrv = true ∧ s.dev.rf 0x1904C 15 0 ≠ 0) ∧
    (let s := up (fun d => ((put (.queue 0) .run d |>.wr 0x19040 0x80000000).wr (Dev.qAddr 0 + 0xC) 16).setCw
       { d.cw with batch := [⟨0, 0xB0, 0, 0, 0, 0, none, 0⟩] })
     s.dev.alive = true ∧ s.dev.cw.batch = [⟨0, 0xB0, 0, 0, 0, 0, none, 0⟩] ∧ s.dev.pwr.ckSys = true ∧ s.dev.rb 0x19040 31 = true ∧
     s.dev.qState (s.dev.rf 0x19040 9 0) = .run ∧ 1 ≤ s.dev.credit (s.dev.rf 0x19040 9 0)) ∧ via (up id) .host = true := by decide

/-- CampwatchCrossing: the ring with its last free place, and full. -/
theorem wit_CampwatchCrossing : let e : BatchEntry := ⟨0, 0xB0, 0, 0, 0, 0, none, 0⟩
    (List.replicate 2815 e).length < 2816 ∧ (List.replicate 2816 e).length = 2816 ∧
    (up (fun d => d.setCw { d.cw with writes := List.replicate 15 (0x48, 1) })).dev.cw.writes.length < 16 := by simp; decide

/-! ### Vierma, health, monitor -/

theorem wit_ViermaCommands : (member.dev.alive = true ∧ member.dev.portOn 0 = true) ∧ (member.dev.root = false ∧ member.dev.inField = true) ∧
    (let s := up (fun d => d.setPort 3 { link := 2, role := 3 }); (s.dev.port 3).link = 2 ∧ (s.dev.port 3).role = 3) ∧
    (let s := up (fun d => d.updVl (fun v => { v with addr := some 2, up := some 0 }))
     s.dev.root = false ∧ s.dev.vl.addr.isSome = true ∧ s.dev.vl.up.isSome = true ∧ s.dev.vl.joined = false ∧
     s.dev.anyActive false = false) ∧
    (up (put (.chan 0) .run)).dev.anyActive false = true ∧
    ((rootOf id).dev.root = true ∧ (2 : BitVec 18).toNat ≠ 1 ∧ (0x3FFFF : BitVec 18).toNat ≠ 1) ∧
    ((weirRun 1 0 true id).dev.weir.rstate = 1 ∧ (wcfg true).field = true) ∧ (member.dev.vl.addr.isSome = true ∧ 0x1FFFFFF < 0x2000000) ∧
    Path.efyonS.num ∈ (up (fun d => d.updVl (fun v => { v with proxy := [Path.efyonS.num] }))).dev.vl.proxy := by decide

theorem wit_FieldEvents : via (rootOf id) .host = true ∧ (0x4B52 : BitVec 16) ≠ 0x4B53 ∧
    ((rootOf (fun v => { v with resetAt := some 5 })).dev.inField = true ∧
      (rootOf (fun v => { v with resetAt := some 5 })).dev.vl.resetAt = some 5 ∧ (5 : Time) ≤ member.dev.now ∧
      member.dev.now = (rootOf (fun v => { v with resetAt := some 5 })).dev.now) ∧
    (member.dev.alive = true ∧ member.dev.root = false ∧ member.dev.inField = true) ∧ (999 < member.dev.now ∧ member.dev.now ≤ 1000) ∧
    (let s := rootOf (fun v => { v with evs := [(255, some ⟨1000, [(1, true)], false⟩)] })
     s.dev.alive = true ∧ s.dev.event 255 = some ⟨1000, [(1, true)], false⟩ ∧ s.dev.root = true ∧
     (1000 : Time).toNat ≤ s.dev.now.toNat + s.dev.bcastLat + 1000 ∧ s.dev.now.toNat + s.dev.bcastLat + 1000 < (100000 : Time).toNat ∧
     ∀ b ∈ 1 :: s.dev.vl.members.map (·.addr), ([(1, true)] : List (Nat × Bool)).find? (fun x => x.1 == b) = some (b, true)) ∧
    (let s := rootOf (fun v => { v with evs := [(255, some ⟨1000, [(1, true), (2, false)], false⟩)], members := [⟨2, 1, true, 0⟩] })
     1 :: s.dev.vl.members.map (·.addr) = [1] ++ 2 :: [] ∧
     ([(1, true), (2, false)] : List (Nat × Bool)).find? (fun x => x.1 == 1) = some (1, true) ∧
     ([(1, true), (2, false)] : List (Nat × Bool)).find? (fun x => x.1 == 2) ≠ some (2, true)) ∧
    (rootOf (fun v => { v with evs := [(255, some ⟨1000, [], true⟩)] })).dev.event 255 = some ⟨(rootOf id).dev.now, [], true⟩ := by decide

theorem wit_HealthCommands : ScrubMem.basin ≠ .lakebed ∧ ScrubResult.corrected ≠ .uncorrectable ∧
    ((up id).dev.alive = true ∧ (up id).dev.esc.running = true) ∧ (up (fun d => d.wr 0x1C070 2)).dev.rb 0x1C070 1 = true ∧
    (up (fun d => d.updHealth (fun h => { h with refRun := true }))).dev.health.refRun = true ∧
    (up (fun d => d.updHealth (fun h => { h with op := 1 }))).dev.health.op = 1 ∧
    (up (fun d => d.updHealth (fun h => { h with op := 2 }))).dev.health.op = 2 ∧
    (via (up id) .host = true ∧ (up id).dev.health.op = 0 ∧ (up id).dev.imgSlot = 0) ∧
    (let s := up (fun d => d.wr 0x1C08C 0x20078)
     s.dev.imgSlot ≠ 0 ∧ s.dev.imgSlot ≠ 3 ∧ s.dev.imgSlot ≠ s.dev.pwr.slot ∧ 8 ≤ s.dev.rf 0x1C08C 6 0 ∧
     ∀ r ∈ s.dev.lakeRegions, overlap (s.dev.rf 0x1C08C 6 0) 1 r.1 r.2 = false) ∧
    (up (fun d => d.wr 0x1C08C 0x20007)).dev.rf 0x1C08C 6 0 < 8 ∧
    (let s := up (fun d => d.wr 0x1C08C 0x10000)
     s.dev.imgSlot = 1 ∧ s.dev.imgSlot ≠ s.dev.pwr.slot ∧ (s.dev.slot s.dev.imgSlot).magic = true ∧ (s.dev.slot s.dev.imgSlot).st = .good) ∧
    (let s := up (fun d => (d.wr 0x1C08C 0x20000).setSlot 2 {}); (s.dev.slot s.dev.imgSlot).magic = false) ∧
    (up id).dev.health.loaded = none ∧ (up (fun d => d.updHealth (fun h => { h with loaded := some 2 }))).dev.health.loaded = some 2 := by
  decide

/-- The monitor's port on, at a level. -/
def port (f : Monitor → Monitor) : State := up (fun d => (d.updMon f).wr 0x1E040 1)

/-- MonitorLines: each level, and both sides of each condition that a line's effect depends on. -/
theorem wit_MonitorLines : ((port id).dev.alive = true ∧ (port id).dev.rb 0x1E040 0 = true) ∧ (port id).dev.mon.level < 1 ∧
    (1 ≤ (port (fun m => { m with level := 1 })).dev.mon.level ∧ (port (fun m => { m with level := 1 })).dev.mon.level < 2) ∧
    2 ≤ (port (fun m => { m with level := 2 })).dev.mon.level ∧ (port id).dev.mon.chal = none ∧
    (port (fun m => { m with chal := some (2, 7, 1000) })).dev.mon.chal = some (2, 7, 1000) ∧
    ((port id).dev.mon.lockout = false ∧ (port (fun m => { m with lockout := true })).dev.mon.lockout = true) ∧
    (noPeek 0x1FFFFFC = false ∧ noPeek 0x14040 = true ∧ 0x1FFFFFC + 4 * 1 ≤ 0x2000000 ∧ 0x2000000 < 0x1FFFFFC + 4 * 2) ∧
    ((up id).dev.esc.running = true ∧ (up id).dev.esc.monHalt = false) ∧
    (up (fun d => { d with esc := { d.esc with monHalt := true } })).dev.esc.monHalt = true := by decide

/-- KEY within 10 s of its challenge with the right response, a wrong one, a third wrong one, and too late. -/
theorem wit_MonitorKey : ∃ (s : State) (r : Word), s.Alive ∧ s.dev.rb 0x1E040 0 = true ∧ s.dev.mon.chal = some (2, 7, 1000) ∧
    s.dev.mon.key ≠ 0 ∧ ¬10000000000 < (s.dev.now - 1000).toNat ∧ r = unlockResponse s.dev.mon.key 7 2 ∧
    r + 1 ≠ unlockResponse s.dev.mon.key 7 2 ∧ s.dev.mon.wrong < 2 ∧ ¬(port (fun m => { m with wrong := 2 })).dev.mon.wrong < 2 ∧
    10000000000 < (s.dev.now - 1001).toNat :=
  ⟨port (fun m => { m with chal := some (2, 7, 1000), key := 1 }), _, by decide, by decide, by decide, by decide, by decide, rfl,
    by intro h; simp at h, by decide, by decide, by decide⟩

theorem wit_TapCommands : ((up (fun d => d.wr 0x1E040 4)).dev.alive = true ∧ (up (fun d => d.wr 0x1E040 4)).dev.rf 0x1E040 3 2 = 1) ∧
    (up (fun d => d.wr 0x1E040 8)).dev.rf 0x1E040 3 2 = 2 ∧ (up id).dev.rf 0x1E040 3 2 ≠ 2 ∧ (0x1FFFFFC % 4 = 0 ∧ 0x1FFFFFC < 0x2000000) ∧
    noPeek 0x1FFFFFC = false ∧ (port id).dev.rb 0x1E040 0 = true ∧ (port (fun m => { m with baudNew := true })).dev.mon.baudNew = true ∧
    (let s := up (fun d => { d with esc := { d.esc with monHalt := true } } |>.wr 0x1E040 0x10000)
     s.dev.esc.monHalt = true ∧ s.dev.rf 0x1E040 31 16 ≠ 0) := by decide

end Sys2Proof.Tests
end

section
/-! PROOFS. Register access by a path: what REGISTER_WRITE, READ_CLEAR, LTIME_LO_READ and SETTLING_END come to, one lemma for each
operation that they share, and the statement RegisterAccess assembled from them. -/

namespace Sys2Proof.Machine

/-! ### Commands through what they do to the device -/

/-- Only what an action makes of the present device counts. -/
theorem State.act_congr {s : State} {f g : Dev → Dev} (h : f s.dev = g s.dev) : s.act f = s.act g := by
  simp only [State.act, h]

/-- A value that a path has read lies with the path. -/
def Dev.answered (p : Path) (r : Dev × Word) : Dev := r.1.setPath p { r.1.path p with ans := r.2 }

theorem exec_registerWrite {s : State} {p : Path} (h : s.Via p) {off : Nat} {x : BusData} {f : Dev → Dev}
    (hf : s.dev.storeAt p off x = f s.dev) : exec (.registerWrite p off x) s = .next (s.act f).runSteps := by
  show Host.Outcome.next (s.viaPath p (fun d => d.storeAt p off x)).runSteps = _
  rw [State.viaPath_of h, State.act_congr hf]

theorem exec_readClear {s : State} {p : Path} (h : s.Via p) {off : Nat} (ho : off < 0x2000000) :
    exec (.readClear p off) s =
      .next (s.act (fun d => Dev.answered p (d.regRead p (if off - off % 4 = 0x14040 then off else off - off % 4)))) := by
  show Host.Outcome.next (s.read p _) = _
  rw [State.read_of h (by split <;> omega)]
  rfl

/-- READ_CLEAR of the first byte of a register. -/
theorem exec_readClear_aligned {s : State} {p : Path} (h : s.Via p) {off : Nat} (ho : off < 0x2000000) (h4 : off % 4 = 0)
    {f : Dev → Dev × Word} (hf : s.dev.regRead p off = f s.dev) :
    exec (.readClear p off) s = .next (s.act (fun d => Dev.answered p (f d))) := by
  rw [exec_readClear h ho, h4, Nat.sub_zero, ite_self]
  exact congrArg _ (State.act_congr (congrArg (Dev.answered p) hf))

theorem exec_settlingEnd {s : State} (h : s.Alive) {n : Nat} {u : Un} (hu : Un.ofId n = some u) {f : Dev → Dev}
    (hf : (if SMap.get false s.dev.settling u.addr then s.dev.settleEnd u else s.dev) = f s.dev) :
    exec (.settlingEnd n) s = .next (s.act f) := by
  show execSettlingEnd n s = _
  rw [execSettlingEnd, State.live_of h, hu]
  exact congrArg _ (State.act_congr hf)

/-- SETTLING of a page whose unit has no state. -/
theorem exec_settlingEnd_still {s : State} (h : s.Alive) {n a : Nat} (hu : Un.ofId n = none) (ha : stillKey n = some a) :
    exec (.settlingEnd n) s = .next (s.act (fun d => { d with settling := SMap.put false d.settling a false })) := by
  show execSettlingEnd n s = _
  rw [execSettlingEnd, State.live_of h, hu, ha]

/-! ### Writes of a path -/

theorem Dev.storeAt_word (d : Dev) (p : Path) {a : Nat} (h : a % 4 = 0) (v : Word) :
    d.storeAt p a (.word v) = d.busWrite p a v := if_pos h

/-- A write that covers no whole register, outside the producer ports (R410). -/
theorem Dev.storeAt_partial (d : Dev) (p : Path) {a : Nat} (v : Word) (h : a % 4 ≠ 0) (hp : a < 0x510000 ∨ 0x514000 ≤ a) :
    d.storeAt p a (.word v) = if p = .host then d.fault 0x15000 1 else d := by
  unfold Dev.storeAt
  dsimp only
  rw [if_neg h, if_neg (by omega)]
  rfl

/-- A write through the proxy window: by the selected address it acts here, at a member, or nowhere (R475, R476). -/
theorem Dev.busWrite_window (d : Dev) {p : Path} (hp : p = .host ∨ p = .efyonS) {a : Nat} (h1 : 0x2000000 ≤ a)
    (h2 : a < 0x4000000) (v : Word) :
    d.busWrite p a v =
      if d.vl.addr = some (d.proxySel p) then d.regWrite p (a - 0x2000000) v
      else if d.proxyAssigned (d.proxySel p) then d else d.fault 0x1A000 4 := by
  unfold Dev.busWrite
  rw [if_neg (by omega)]
  rcases hp with rfl | rfl
  all_goals
    rw [if_pos (by simp [h2])]
    rfl

/-- A path that reaches the registers finds CK_SYS serving them. -/
theorem State.Via.alive {s : State} {p : Path} (h : s.Via p) : s.Alive := by
  obtain ⟨hok, -⟩ := h
  simp only [Dev.pathOk, Bool.and_eq_true] at hok
  exact hok.1

/-- The paths that reach the proxy window. -/
theorem State.Via.proxied {s : State} {p : Path} (h : s.Via p) (hm : p ≠ .mgmt) : p = .host ∨ p = .efyonS := by
  obtain ⟨-, hp⟩ := h
  tauto

/-! ### A register whose one field is RW -/

theorem writeFields_rw (p : Path) {x : Field} (hx : x.acc = .rw) (cur v : Word) :
    writeFields p [x] cur v =
      if x.ok (fld v x.hi x.lo) then (setFld cur x.hi x.lo (fld v x.hi x.lo), false) else (cur, true) := by
  simp [writeFields, hx]

/-- A register of a device page that is no command register takes a plain write. -/
theorem Dev.regWrite_plain (d : Dev) (p : Path) {a : Nat} (v : Word) (h1 : a < 0x100000) (h2 : a / 0x1000 ≠ 0x16)
    (h3 : 0x40 ≤ a % 0x1000) (h4 : a % 0x1000 < 0x800) (hs : slotOf a = none) (hp : isPage (a - a % 0x1000) = true)
    (hc : d.deviceCmd p a v = none) : d.regWrite p a v = d.plainWrite p a v := by
  rw [Dev.regWrite_cmd d p v hs hp (by omega) h2 h3 h4, if_pos h1, hc]
  rfl

/-- A valid value stands in its register, and no other register changes. -/
theorem Dev.rd_plainWrite_valid (d : Dev) (p : Path) {a : Nat} (v : Word) {x : Field} (hf : fieldsAt a = [x]) (hx : x.acc = .rw)
    (hv : x.ok (fld v x.hi x.lo) = true) (b : Nat) :
    (d.plainWrite p a v).rd b = if b = a then setFld (d.rd a) x.hi x.lo (fld v x.hi x.lo) else d.rd b := by
  simp only [Dev.plainWrite, hf, writeFields_rw p hx, hv, if_true, Bool.false_eq_true, if_false]
  by_cases hb : b = a
  · subst hb
    split
    · rename_i he
      simp [he]
    · simp
  · rw [if_neg hb]
    split
    · rfl
    · exact Dev.rd_wr_ne d hb _

/-- The page of a register outside the slots records a common fault (R91). -/
theorem Dev.common_page (d : Dev) {a : Nat} (k : Nat) (hs : slotOf a = none) (hp : isPage (a - a % 0x1000) = true) :
    d.common a k = d.fault (a - a % 0x1000) (31 - k) := by
  simp only [Dev.common, hs, hp, if_true]

/-- An invalid value sets INVALID alone (R6). -/
theorem Dev.plainWrite_invalid (d : Dev) (p : Path) {a : Nat} (v : Word) {x : Field} (hs : slotOf a = none)
    (hp : isPage (a - a % 0x1000) = true) (hf : fieldsAt a = [x]) (hx : x.acc = .rw) (hv : x.ok (fld v x.hi x.lo) = false) :
    d.plainWrite p a v = d.fault (a - a % 0x1000) 31 := by
  simp only [Dev.plainWrite, hf, writeFields_rw p hx, hv, Bool.false_eq_true, if_false, if_true]
  exact Dev.common_page d 0 hs hp

/-! ### Reads of a path -/

/-- A register that a filter drops is not listed. -/
theorem SMap.find?_filter_of_not {α : Type} (q : Nat → Bool) {k : Nat} (h : q k = false) (m : SMap α) :
    SMap.find? (m.filter (fun kv => q kv.1)) k = none := by
  induction m with
  | nil => rfl
  | cons x m ih =>
    rw [List.filter_cons]
    split
    · rename_i hx
      have hk : x.1 ≠ k := by rintro rfl; simp [h] at hx
      simp [SMap.find?, hk, ih]
    · exact ih

/-- Until firmware starts a register that the start-up resets shows its reset value. -/
theorem Dev.rd_unstarted (d : Dev) {a : Nat} (h : keepReg true a = false) : d.unstarted.rd a = ({} : Dev).rd a := by
  simp only [Dev.unstarted, Dev.rd, SMap.get, SMap.find?_filter_of_not _ h]
  rfl

theorem keepReg_of_reset {a : Nat} (h : 0x2058 < a) (hr : a < 0x19000 ∨ 0x1B000 ≤ a ∧ a < 0x800000) :
    keepReg true a = false := by
  simp [keepReg]
  omega

theorem Dev.regRead_unstarted (d : Dev) (p : Path) {a : Nat} (h : d.readsReset a = true) :
    d.regRead p a = (d, d.unstarted.view p a) := if_pos h

theorem Dev.readsReset_starting {d : Dev} (h : d.pwr.st = .starting) {a : Nat} (h1 : a < 0x510000) (h2 : a ≠ 0x2060)
    (h3 : a ≠ 0x2064) (h4 : ¬(0x19000 ≤ a ∧ a < 0x1A000)) : d.readsReset a = true := by
  simp [Dev.readsReset, h, h1, h2, h3]
  omega

theorem Dev.readsReset_started {d : Dev} (h : d.pwr.st ≠ .starting) (a : Nat) : d.readsReset a = false := by
  simp [Dev.readsReset, h]

/-- A register of a FAB page: what it shows, and its RC fields clear. -/
theorem Dev.regRead_fab (d : Dev) (p : Path) {a : Nat} (hr : d.readsReset a = false) (hs : slotOf a = none) (h1 : 0x10000 ≤ a)
    (h2 : a < 0x14000) : d.regRead p a = (d.readClear a, d.view p a) := by
  unfold Dev.regRead
  simp only [hr, hs]
  rw [if_neg (by simp), if_neg (by omega), if_neg (by omega), if_neg (by omega), if_neg (by omega), if_neg (by omega),
    if_neg (by omega), if_neg (by omega), if_neg (by omega), if_neg (by omega), if_neg (by omega), if_neg (by omega),
    if_neg (by omega), if_neg (by omega), if_neg (by omega), if_neg (by omega)]

/-- LOSS_MD, LOSS_BE, LOSS_ST, EVICTED and HELD_EV of the FAB page (R310): each is one RC field of 32 bits. -/
theorem fabLoss_facts : ∀ k : Fin 5, slotOf (0x10080 + 4 * k.val) = none ∧ isStaged (0x10080 + 4 * k.val) = false ∧
    isPage (0x10080 + 4 * k.val - (0x10080 + 4 * k.val) % 0x1000) = true ∧
    Field.mask .rc (fieldsAt (0x10080 + 4 * k.val)) = 0xFFFFFFFF ∧ readMask (0x10080 + 4 * k.val) = 0xFFFFFFFF := by decide

/-- The page computes none of these counts: the register holds it. -/
theorem Dev.deviceView_fabLoss (d : Dev) (p : Path) : ∀ k : Fin 5, d.deviceView p (0x10080 + 4 * k.val) = 0
  | 0 | 1 | 2 | 3 | 4 => rfl

/-- A read of such a count answers it and leaves 0 (R4). -/
theorem Dev.regRead_fabLoss (d : Dev) (p : Path) (h : d.pwr.st ≠ .starting) (k : Fin 5) :
    d.regRead p (0x10080 + 4 * k.val) = (d.wr (0x10080 + 4 * k.val) 0, d.rd (0x10080 + 4 * k.val)) := by
  obtain ⟨hs, hst, hp, hrc, hm⟩ := fabLoss_facts k
  have hk := k.isLt
  have hones (w : Word) : w &&& 0xFFFFFFFF = w := BitVec.and_allOnes
  have hclear : d.readClear (0x10080 + 4 * k.val) = d.wr (0x10080 + 4 * k.val) 0 := by
    have hn : ¬ 0x510000 ≤ 0x10080 + 4 * k.val := by omega
    have hnone : d.rd (0x10080 + 4 * k.val) &&& ~~~(w32 0xFFFFFFFF) = 0 := BitVec.and_zero
    simp [Dev.readClear, hst, hrc, hn, hnone]
  have hview : d.view p (0x10080 + 4 * k.val) = d.rd (0x10080 + 4 * k.val) := by
    rw [Dev.view_device d p hs hp (by omega) (by omega) (by omega) (by omega), hm, hones, Dev.deviceView_fabLoss]
    exact BitVec.or_zero
  rw [Dev.regRead_fab d p (Dev.readsReset_started h _) hs (by omega) (by omega), hclear, hview]

/-- A read of LTIME_LO latches the high half for the path (R72). -/
theorem Dev.regRead_ltimeLo (d : Dev) (p : Path) :
    d.regRead p 0x2060 = (d.setPath p { d.path p with ltHi := some (hi32 d.now) }, lo32 d.now) := by
  have hr : d.readsReset 0x2060 = false := by simp [Dev.readsReset]
  unfold Dev.regRead
  simp only [hr, Bool.false_eq_true, if_false, if_true, Dev.view_ltimeLo]

/-! ### Settling -/

/-- SETTLING of the page or slot at an address has fallen. -/
def Dev.settled (d : Dev) (a : Nat) : Dev := { d with settling := SMap.put false d.settling a false }

/-- A unit other than a channel holds no task that its settling could wait for. -/
theorem Dev.settleEnd_noChan (d : Dev) {u : Un} (h : ∀ c, u ≠ .chan c) : d.settleEnd u = d.settled u.addr := by
  cases u with
  | chan c => exact absurd rfl (h c)
  | _ => rfl

/-- A settled channel without an admitted task. -/
theorem Dev.settleEnd_untasked (d : Dev) {c : Nat} (hu : d.unsettled (.chan c) = false) (ht : d.taskOf 1 c true = none) :
    d.settleEnd (.chan c) = d.settled (Un.chan c).addr := by
  have ht' : (d.settled (Un.chan c).addr).taskOf 1 c true = none := ht
  simp only [Dev.settled] at ht'
  simp only [Dev.settleEnd, hu, ht', Bool.false_eq_true, if_false]
  rfl

/-- A channel that is settled waits for no admission (R268). -/
theorem Dev.taskOf_of_settled {d : Dev} {c : Nat} (h : d.unsettled (.chan c) = false) : (d.taskOf 1 c false).isNone = true := by
  simp only [Dev.unsettled, Bool.or_eq_false_iff] at h
  simpa using h.1

/-- A settled channel in RUN whose declaration has become 0 gives its task back (R261). -/
theorem Dev.settleEnd_released (d : Dev) {c : Nat} {y : Task} (hu : d.unsettled (.chan c) = false)
    (ht : d.taskOf 1 c true = some y) (hk : d.decl c = 0) (hy : 0 < y.mw) (hr : d.ust (.chan c) = .run) :
    d.settleEnd (.chan c) = (d.settled (Un.chan c).addr).releaseAdm 1 c := by
  have hn := Dev.taskOf_of_settled hu
  have ht' : (d.settled (Un.chan c).addr).taskOf 1 c true = some y := ht
  have hk' : (d.settled (Un.chan c).addr).decl c = 0 := hk
  have hn' : ((d.settled (Un.chan c).addr).taskOf 1 c false).isNone = true := hn
  have hr' : (d.settled (Un.chan c).addr).ust (.chan c) = .run := hr
  unfold Dev.settleEnd
  rw [if_neg (by simp [hu])]
  simp only [Dev.settled] at ht' hk' hn' hr' ⊢
  simp only [ht', hk', hn', hr', hy, and_self, if_true]

/-! ### The statement -/

/-- A word through the proxy window, by what the window's address selects (R475, R476). -/
theorem exec_registerWrite_window {s : State} {p : Path} (h : s.Via p) (hm : p ≠ .mgmt) {off : Nat} (v : Word) (h4 : off % 4 = 0)
    (h1 : 0x2000000 ≤ off) (h2 : off < 0x4000000) {f : Dev → Dev}
    (hf : (if s.dev.vl.addr = some (s.dev.proxySel p) then s.dev.regWrite p (off - 0x2000000) v
      else if s.dev.proxyAssigned (s.dev.proxySel p) then s.dev else s.dev.fault 0x1A000 4) = f s.dev) :
    exec (.registerWrite p off (.word v)) s = .next (s.act f).runSteps :=
  exec_registerWrite h (by rw [Dev.storeAt_word _ p h4, Dev.busWrite_window _ (h.proxied hm) h1 h2, hf])

/-- Settles O34: each command through what it makes of the present device, by the lemma of the operation that the clause
names. -/
theorem registerAccess : Obligations.RegisterAccess := by
  unfold Obligations.RegisterAccess
  refine ⟨fun s p off v h => ⟨fun h4 => ⟨fun ho => ?below, fun h1 h2 hm => ⟨fun hown => ?own, fun hother hasg => ?member,
      fun hother hasg => ?nobody⟩⟩,
    fun h4 hport => exec_registerWrite h (Dev.storeAt_partial _ p v h4 hport),
    exec_registerWrite h rfl, exec_registerWrite h rfl,
    fun d x h1 h2 h3 h4 hs hp hc hf hx => ?field,
    fun ho => exec_readClear h ho,
    fun hst h1 h2 h3 hcw h4 => ⟨?starting, rfl, fun a ha hr => Dev.rd_unstarted _ (keepReg_of_reset ha hr)⟩,
    fun hst k hk => ?counter, ?ltime, fun n u hu => ⟨fun hno => ?settled, fun hyes hc => ?other, ?channel⟩,
    fun n a hu ha => exec_settlingEnd_still h.alive hu ha⟩,
    fun d p a v h4 hport => d.storeAt_partial p v h4 hport⟩
  case below => exact exec_registerWrite h (by rw [Dev.storeAt_word _ p h4, Dev.busWrite_reg _ h.2 ho])
  case own => exact exec_registerWrite_window h hm v h4 h1 h2 (if_pos hown)
  case member => exact exec_registerWrite_window h hm v h4 h1 h2 ((if_neg hother).trans (if_pos hasg))
  case nobody => exact exec_registerWrite_window h hm v h4 h1 h2 ((if_neg hother).trans (if_neg (by simp [hasg])))
  case field =>
    rw [Dev.regWrite_plain d p v h1 h2 h3 h4 hs hp hc]
    refine ⟨fun hv => ?_, Dev.plainWrite_invalid d p v hs hp hf hx⟩
    have hrd := Dev.rd_plainWrite_valid d p v hf hx hv
    exact ⟨(hrd off).trans (if_pos rfl), fun a ha => (hrd a).trans (if_neg ha)⟩
  case starting =>
    exact exec_readClear_aligned h (by omega) h4 (Dev.regRead_unstarted _ p (Dev.readsReset_starting hst h1 h2 h3 hcw))
  case counter =>
    exact exec_readClear_aligned h (by omega) (by omega) (Dev.regRead_fabLoss _ p hst ⟨k, hk⟩)
  case ltime =>
    refine (congrArg Host.Outcome.next (State.read_of h (by decide))).trans (congrArg _ (State.act_congr ?_))
    simp only [Dev.regRead_ltimeLo, Dev.path_setPath, Dev.setPath_setPath]
  case settled => exact exec_settlingEnd h.alive hu (if_neg (by simp [hno]))
  case other => exact exec_settlingEnd h.alive hu ((if_pos hyes).trans (Dev.settleEnd_noChan _ hc))
  case channel =>
    rintro c rfl hyes hun
    refine ⟨fun ht => ?_, fun y ht hk hy hr => ?_⟩
    · exact exec_settlingEnd h.alive hu ((if_pos hyes).trans (Dev.settleEnd_untasked _ hun ht))
    · exact exec_settlingEnd h.alive hu ((if_pos hyes).trans (Dev.settleEnd_released _ hun ht hk hy hr))

end Sys2Proof.Machine
end

section
/-! PROOFS. Campwatch: what its commands and events come to, what the crossing and the ring keep, and the statement
CampwatchCommands assembled from them. -/

namespace Sys2Proof.Machine

/-! ### Writes in flight through a fault (R446) -/

@[simp] theorem Dev.count_cw (d : Dev) (a hi lo k : Nat) : (d.count a hi lo k).cw = d.cw := rfl

@[simp] theorem Dev.faultBit_cw (d : Dev) (page b : Nat) : (d.faultBit page b).cw = d.cw := rfl

@[simp] theorem Dev.icUpd_cw (d : Dev) (f : IntCtl → IntCtl) : (d.icUpd f).cw = d.cw := by
  simp only [Dev.icUpd, Dev.hostWake]
  split
  · split <;> rfl
  · rfl

@[simp] theorem Dev.watchWake_writes (d : Dev) (i : Nat) : (d.watchWake i).cw.writes = d.cw.writes := by
  unfold Dev.watchWake
  split <;> rfl

@[simp] theorem Dev.msgRaw_writes (d : Dev) (i : Nat) (rise : Bool) : (d.msgRaw i rise).cw.writes = d.cw.writes := by
  unfold Dev.msgRaw
  dsimp only
  split
  · simp
  · split <;> simp

@[simp] theorem Dev.msg_writes (d : Dev) (i : Nat) (rise : Bool) : (d.msg i rise).cw.writes = d.cw.writes := by
  unfold Dev.msg
  dsimp only
  split <;> simp

@[simp] theorem Dev.fault_writes (d : Dev) (page b : Nat) : (d.fault page b).cw.writes = d.cw.writes := by
  unfold Dev.fault
  dsimp only
  split
  · rfl
  · split <;> simp

@[simp] theorem Dev.cwDiscard_writes (d : Dev) (e : BatchEntry) : (d.cwDiscard e).cw.writes = d.cw.writes := rfl

@[simp] theorem Dev.cwDiscard_batch (d : Dev) (e : BatchEntry) : (d.cwDiscard e).cw.batch = d.cw.batch := rfl

@[simp] theorem Dev.addCause_writes (d : Dev) (cause : Nat) : (d.addCause cause).cw.writes = d.cw.writes := rfl

@[simp] theorem Dev.cwMerge_writes (d : Dev) (input cause : Nat) (a : BitVec 48) :
    (d.cwMerge input cause a).1.cw.writes = d.cw.writes := rfl

@[simp] theorem Dev.cwJoin_writes (d : Dev) (a : BitVec 48) (ty src : Nat) (p5 p6 p7 : Word) :
    (d.cwJoin a ty src p5 p6 p7).cw.writes = d.cw.writes := by
  unfold Dev.cwJoin
  dsimp only
  split
  · rfl
  · split
    · split <;> rfl
    · rfl

@[simp] theorem Dev.cwLost_writes (d : Dev) : d.cwLost.cw.writes = d.cw.writes := by
  have hm := d.cwMerge_writes 15 5 d.pwr.aonCnt
  unfold Dev.cwLost
  split
  next e k he =>
    rw [he] at hm
    dsimp only
    split <;> simpa using hm
  next e he =>
    rw [he] at hm
    exact hm

@[simp] theorem Dev.cwRaise_writes (d : Dev) (b : Nat) : (d.cwRaise b).1.cw.writes = d.cw.writes := by
  unfold Dev.cwRaise
  split <;> simp

@[simp] theorem Dev.wakeRecord_writes (d : Dev) (cause : Nat) : (d.wakeRecord cause).cw.writes = d.cw.writes := by
  unfold Dev.wakeRecord
  dsimp only
  generalize hj : Dev.cwJoin _ _ _ _ _ _ _ = e
  have he : e.cw.writes = d.cw.writes := by simp [← hj]
  have hr := (e.cwRaise_writes 4).trans he
  split
  · split
    all_goals
      next hf =>
        rw [hf] at hr
        simpa using hr
  · split <;> simpa using he

@[simp] theorem Dev.wakeAction_writes (d : Dev) (cause : Nat) : (d.wakeAction cause).cw.writes = d.cw.writes := by
  unfold Dev.wakeAction
  extract_lets add drive
  have hadd (e : Dev) : (add e).cw.writes = e.cw.writes := by
    simp only [add]
    split <;> simp
  have hdrive (e : Dev) : (drive e).cw.writes = e.cw.writes := by
    simp only [drive]
    split <;> split <;> simp
  split
  next => rfl
  next => rfl
  next => exact hdrive d
  next => exact (Dev.fault_writes _ _ _).trans (hadd d)
  next =>
    split
    · exact (Dev.fault_writes _ _ _).trans (hadd d)
    · exact hdrive _
  next => exact (Dev.fault_writes _ _ _).trans (hadd d)

@[simp] theorem Dev.cwFault_writes (d : Dev) (b : Nat) : (d.cwFault b).cw.writes = d.cw.writes := by
  have h := d.cwRaise_writes b
  unfold Dev.cwFault
  split
  next e he => rw [he] at h; simpa using h
  next e he => rw [he] at h; exact h

/-! ### The crossing and the ring (R446, R455) -/

theorem Dev.cwPost_room {d : Dev} (h : d.cw.writes.length < 16) (o : Nat) (v : Word) :
    d.cwPost o v = d.setCw { d.cw with writes := d.cw.writes ++ [(o, v)] } := if_pos h

theorem Dev.cwPost_full {d : Dev} (h : 16 ≤ d.cw.writes.length) (o : Nat) (v : Word) : d.cwPost o v = d.cwFault 5 :=
  if_neg (by omega)

theorem Dev.cwWrite_release (d : Dev) : (d.cwWrite 0x48 1).cw.wakeDrv = false := rfl

theorem Dev.cwWrite_empty (d : Dev) : (d.cwWrite 0x48 2).cw.batch = [] := rfl

theorem Dev.cwJoin_room {d : Dev} (h : d.cw.batch.length < 2816) (a : BitVec 48) (ty src : Nat) (p5 p6 p7 : Word) :
    (d.cwJoin a ty src p5 p6 p7).cw.batch = d.cw.batch ++ [⟨a, ty, src, p5, p6, p7, (d.pairAt a).1, (d.pairAt a).2⟩] := by
  have hf : d.cwFull = false := by simp [Dev.cwFull, h]
  simp [Dev.cwJoin, hf]

/-- The full ring gives up its oldest entry or keeps the new one out, as BMODE says. -/
theorem Dev.cwJoin_full {d : Dev} (h : 2816 ≤ d.cw.batch.length) (a : BitVec 48) (ty src : Nat) (p5 p6 p7 : Word) :
    (d.cwJoin a ty src p5 p6 p7).cw.batch = if d.rb 0x19040 13
      then d.cw.batch.tail ++ [⟨a, ty, src, p5, p6, p7, (d.pairAt a).1, (d.pairAt a).2⟩] else d.cw.batch := by
  have hf : d.cwFull = true := by simp [Dev.cwFull, h]
  rw [show 0x19040 = cwPage + 0x40 from rfl]
  unfold Dev.cwJoin
  simp only [hf, Bool.not_true, Bool.false_eq_true, if_false]
  split
  · split
    next old rest hb => simp [hb]
    next hb => simp [hb] at h
  · rfl

/-! ### Events of the island and the drain -/

/-- An event of the island, by what it makes of the present device. -/
theorem State.island_next {s : State} (h : s.dev.pwr.st ≠ .off) {f g : Dev → Dev} (hf : f s.dev = g s.dev) :
    (Host.Outcome.next (s.island f) : Host.Outcome State Fault Refusal) = .next (s.act g) := by
  rw [State.island_of h, State.act_congr hf]

/-- A path's write, by what the register makes of the present device. -/
theorem State.write_next {s : State} {p : Path} (h : s.Via p) {a : Nat} (ha : a < 0x2000000) {v : Word} {g : Dev → Dev}
    (hf : s.dev.regWrite p a v = g s.dev) :
    (Host.Outcome.next (s.write p a v) : Host.Outcome State Fault Refusal) = .next (s.act g) := by
  rw [State.write_of h ha, State.act_congr hf]

theorem Dev.senseStuck_active {d : Dev} {n : Nat} (hen : bit (d.rd (snsCfg n)) 7 = true) (ht : fld (d.rd (snsCfg n)) 15 8 ≠ 0)
    (hl : (d.sns n).level = true) (hs : (d.sns n).stuck = false) :
    d.senseStuck n = ((d.setSns n { d.sns n with stuck := true, stuckAt := some (d.pwr.aonCnt, !d.rb 0x1900C 1) }).cwFault
      1).cwInput n 2 (0x100 + n) :=
  if_pos (by simp [hen, ht, hl, hs])

theorem Dev.pollDue_first {d : Dev} {e : Nat} (h : e ∈ d.cw.first) : d.pollDue e = d.cwEdge :=
  if_pos (by simpa using h)

/-- POLL_DUE of an entry that has polled before. -/
theorem Dev.pollDue_arm {d : Dev} {e : Nat} (h : e ∉ d.cw.first) : d.pollDue e = d.pollArm e :=
  if_neg (by simpa using h)

theorem Dev.polls?_of {d : Dev} {e : Nat} (hen : bit (d.pollWord (8 * e)) 31 = true)
    (hport : d.rb (0x190C0 + 4 * (e / 64)) 31 = true) : d.polls? e = true :=
  Bool.and_eq_true_iff.mpr ⟨hen, hport⟩

theorem Dev.pollArm_waiting {d : Dev} {e : Nat} (hp : d.polls? e = true) (h : e ∈ d.cw.due) :
    d.pollArm e = ((d.count (0x190D0 + 4 * (e / 64)) 31 16).cwFault 2).cwInput (8 + e / 64) 4 0xFFF := by
  unfold Dev.pollArm
  rw [if_neg (by simp [hp]), if_pos (by simpa using h)]
  rfl

theorem Dev.pollArm_joins {d : Dev} {e : Nat} (hp : d.polls? e = true) (h : e ∉ d.cw.due) :
    d.pollArm e = (d.setCw { d.cw with due := (e :: d.cw.due).insertionSort (· ≤ ·) }).pollNext := by
  unfold Dev.pollArm
  rw [if_neg (by simp [hp]), if_neg (by simpa using h)]

/-- The bytes that SDI returned, one for each that the entry asks for, are the response. -/
theorem range_map_getD (bytes : List Byte) : (List.range bytes.length).map (fun i => bytes.getD i 0) = bytes :=
  List.ext_getElem (by simp) (fun i _ h => by simp [h])

/-- The end of a transfer that returned a byte for each that its entry asks for. -/
theorem Dev.pollDone_cur {d : Dev} {x : PollXfer} (hc : d.cw.cur = some x) {bytes : List Byte}
    (hn : fld (x.words.getD 0 0) 24 22 = bytes.length) : d.pollDone bytes =
      let r := bytes.foldl (fun acc b => acc * 256 + b.toNat) 0
      let d := d.setCw { d.cw with cur := none }
      (if bit (x.words.getD 0 0) 30 && r == 0 then
        ((d.count (0x190D0 + 4 * (x.entry / 64)) 15 0).cwFault 3).cwInput (8 + x.entry / 64) 3 0xFFF x.start
      else d.pollValueIn x.entry x.words x.start r).pollNext := by
  unfold Dev.pollDone
  simp only [hc, hn, range_map_getD]
  rfl

theorem Dev.wakeHoldEnd_driven {d : Dev} (hw : d.cw.wakeDrv = true) (hh : d.rf 0x1904C 15 0 ≠ 0) :
    d.wakeHoldEnd = d.releaseWake := if_pos (by simp [hw, hh])

/-- The drain engine commits the oldest entry where the queue takes it (R456). -/
theorem Dev.drainRecord_commits {d : Dev} {b : BatchEntry} {rest : List BatchEntry} (ha : d.alive = true)
    (hb : d.cw.batch = b :: rest) (hck : d.pwr.ckSys = true) (hen : d.rb 0x19040 31 = true)
    (hq : d.qState (d.rf 0x19040 9 0) = .run) (hcr : 1 ≤ d.credit (d.rf 0x19040 9 0)) : d.drainRecord =
      let q := d.rf 0x19040 9 0
      let loss := SMap.get false d.cw.lossDue b.src || d.isLossDue (0xC000 + b.src) q
      let d := d.setCw { d.cw with batch := rest, lossDue := SMap.put false d.cw.lossDue b.src false }
      (d.setLossDue (0xC000 + b.src) q false).commit q (d.cwRecord b loss) 4 (some (0xC000 + b.src)) := by
  unfold Dev.drainRecord
  simp only [hb, cwPage]
  exact if_pos (by simp [ha, hck, hen, hq, hcr])

/-! ### The statement -/

/-- Settles O55: each command and event by the lemma of the operation that it runs; the writes in flight, RELEASE, EMPTY and the
ring by their own. -/
theorem campwatchCommands : Obligations.CampwatchCommands := by
  unfold Obligations.CampwatchCommands
  refine ⟨fun s p n level a e bytes v => ⟨fun h => ⟨?apply, fun _ _ _ _ => ?change, fun hen ht hl hs => ?stuck,
      fun hf => ?first, fun hf hen hport => ⟨fun hd => ?waiting, fun hd => ?joins⟩, fun i ws t cfg hc hn => ?done,
      fun hw hh => ?hold⟩,
    fun b rest ha hb hck hen hq hcr => ?drain,
    fun h => ⟨?release, ?empty, ?tblWrite, ?tblRead, ?aonLo⟩⟩,
    fun d o v => ⟨fun h => d.cwPost_room h o v, fun h => ⟨d.cwPost_full h o v, ?kept⟩, d.cwWrite_release, d.cwWrite_empty,
      fun a ty src p5 p6 p7 h => d.cwJoin_room h a ty src p5 p6 p7,
      fun a ty src p5 p6 p7 h => d.cwJoin_full h.ge a ty src p5 p6 p7⟩⟩
  case apply => exact State.island_next h rfl
  case change => exact State.island_next h rfl
  case stuck => exact State.island_next h (Dev.senseStuck_active hen ht hl hs)
  case first => exact State.island_next h (Dev.pollDue_first hf)
  case waiting => exact State.island_next h ((Dev.pollDue_arm hf).trans (Dev.pollArm_waiting (Dev.polls?_of hen hport) hd))
  case joins => exact State.island_next h ((Dev.pollDue_arm hf).trans (Dev.pollArm_joins (Dev.polls?_of hen hport) hd))
  case done => exact State.island_next h (Dev.pollDone_cur hc hn)
  case hold => exact State.island_next h (Dev.wakeHoldEnd_driven hw hh)
  case drain =>
    exact congrArg _ ((State.live_of ha _).trans (State.act_congr (Dev.drainRecord_commits ha hb hck hen hq hcr)))
  case release => exact State.write_next h (by decide) (Dev.regWrite_cwCmd _ p 1)
  case empty => exact State.write_next h (by decide) (Dev.regWrite_cwCmd _ p 2)
  case tblWrite => exact State.write_next h (by decide) (Dev.regWrite_tblData _ p v)
  case tblRead => exact congrArg _ (State.read_of h (by decide))
  case aonLo => exact congrArg _ (State.read_of h (by decide))
  case kept => rw [Dev.cwPost_full h, Dev.cwFault_writes]

end Sys2Proof.Machine
end

section
/-! PROOFS. Power requests and the ends of the power transitions, one lemma for each operation, and the statement PowerSteps
assembled from them. -/

namespace Sys2Proof.Machine

/-! ### Commands through what they do to the device -/

/-- An event of a powered device, by what it makes of the present one. -/
theorem State.live_next {s : State} (h : s.Alive) {f g : Dev → Dev} (hf : f s.dev = g s.dev) :
    (Host.Outcome.next (s.live f) : Host.Outcome State Fault Refusal) = .next (s.act g) := by
  rw [State.live_of h, State.act_congr hf]

/-! ### Power requests (R62, R66) -/

/-- What every write of PWR_REQ clears (R66). -/
def Dev.reqCleared (d : Dev) : Dev := { d with pwr := { d.pwr with refused := false, drainTimeout := false } }

/-- A request for the state `t`: it begins the return from SAFE_OFF, is kept behind a transition, or acts at once. -/
def Dev.pwrAsk (d : Dev) (t : Nat) : Dev :=
  if d.pwr.st == .safeOff && !d.inTransition then
    (if t = 5 then d.reqCleared
     else { d.reqCleared with pwr := { d.reqCleared.pwr with leaving := t }, cw := { d.cw with wakeDrv := true } })
  else if d.inTransition then { d.reqCleared with pwr := { d.reqCleared.pwr with kept := t } } else d.reqCleared.pwrDo t

theorem Dev.pwrRequest_target (d : Dev) {p : Path} (hp : p = .host ∨ p = .mgmt ∨ p = .efyonS) {t : Nat} (ht : t ≠ 0) :
    d.pwrRequest p t = d.pwrAsk t := by
  rcases hp with rfl | rfl | rfl
  all_goals exact if_neg ht

theorem Dev.pwrRequest_withdraw (d : Dev) {p : Path} (hp : p = .host ∨ p = .mgmt ∨ p = .efyonS) :
    d.pwrRequest p 0 = { d.reqCleared with pwr := { d.reqCleared.pwr with kept := 0 } } := by
  rcases hp with rfl | rfl | rfl
  all_goals rfl

/-- A write of PWR_REQ with a target that the register lists. -/
theorem Dev.regWrite_pwrTarget (d : Dev) {p : Path} (hp : p = .host ∨ p = .mgmt ∨ p = .efyonS) {v : Word}
    (ht : fld v 2 0 = 0 ∨ fld v 2 0 = 2 ∨ fld v 2 0 = 3 ∨ fld v 2 0 = 5) :
    d.regWrite p 0x2044 v = d.pwrRequest p (fld v 2 0) := by
  rw [Dev.regWrite_pwrReq]
  rcases hp with rfl | rfl | rfl
  all_goals exact if_pos ht

/-- A path's command that asks for a state. -/
theorem State.write_pwrAsk {s : State} {p : Path} (h : s.Via p) {v : Word} (ht : fld v 2 0 = 2 ∨ fld v 2 0 = 3 ∨ fld v 2 0 = 5) :
    (Host.Outcome.next (s.write p 0x2044 v) : Host.Outcome State Fault Refusal) = .next (s.act (fun d => d.pwrAsk (fld v 2 0))) :=
  State.write_next h (by decide) ((Dev.regWrite_pwrTarget _ h.2 (.inr ht)).trans (Dev.pwrRequest_target _ h.2 (by omega)))

/-- In READY an active unit refuses a request for STANDBY or CAMPWATCH (R62, R64). -/
theorem Dev.pwrDo_refused {d : Dev} (hst : d.pwr.st = .ready) (ha : d.anyActive true = true) :
    d.pwrDo 2 = { d with pwr := { d.pwr with refused := true } } ∧ d.pwrDo 5 = { d with pwr := { d.pwr with refused := true } } := by
  constructor
  all_goals simp only [Dev.pwrDo, hst, ha, if_true]

theorem Dev.pwrDo_standby {d : Dev} (hst : d.pwr.st = .ready) (ha : d.anyActive true = false) :
    d.pwrDo 2 = { d.parkAll with pwr := { d.parkAll.pwr with stopping := true } } := by
  simp only [Dev.pwrDo, hst, ha, Bool.false_eq_true, if_false]

theorem Dev.pwrDo_campwatch {d : Dev} (hst : d.pwr.st = .ready) (ha : d.anyActive true = false) :
    d.pwrDo 5 = { d.parkAll with pwr := { d.parkAll.pwr with st := .entering } } := by
  simp only [Dev.pwrDo, hst, ha, Bool.false_eq_true, if_false]

theorem Dev.pwrDo_ready {d : Dev} (hst : d.pwr.st = .standby) : d.pwrDo 3 = { d with pwr := { d.pwr with st := .ready } } := by
  simp only [Dev.pwrDo, hst]

/-! ### The ends of the transitions (R62, R64) -/

theorem Dev.keptRun_kept {d : Dev} (hk : d.pwr.kept ≠ 0) (ht : d.inTransition = false) (hst : d.pwr.st ≠ .safeOff) :
    d.keptRun = ({ d with pwr := { d.pwr with kept := 0 } } : Dev).pwrDo d.pwr.kept :=
  if_pos ⟨hk, by simp [ht], hst⟩

theorem Dev.clocksStopped_stopping {d : Dev} (hs : d.pwr.stopping = true) (hst : d.pwr.st = .ready) :
    d.clocksStopped = { d with pwr := { d.pwr with stopping := false, st := .standby } } :=
  if_pos (by simp [hs, hst])

theorem Dev.drainDone_drained {d : Dev} (hst : d.pwr.st = .entering) (hd : d.drained = true) : d.drainDone = d.enterSafeOff :=
  if_pos (by simp [hst, hd])

theorem Dev.drainLate_undrained {d : Dev} (hst : d.pwr.st = .entering) (hd : d.drained = false) :
    d.drainLate = { d with pwr := { d.pwr with st := .standby, drainTimeout := true } } :=
  if_pos (by simp [hst, hd])

/-- The return from SAFE_OFF: by a wake event while no request leaves it, or by the request. -/
theorem Dev.safeOffWake_leaves {d : Dev} {event : Bool} (hst : d.pwr.st = .safeOff)
    (hw : if event = true then d.pwr.wakeReq = true ∧ d.pwr.leaving = 0 else d.pwr.leaving ≠ 0) :
    d.safeOffWake event = d.leaveSafeOff (if event = true then d.rf 0x19044 17 16 else d.pwr.leaving) := by
  cases event with
  | true =>
    obtain ⟨hreq, hleave⟩ := hw
    exact if_neg (by simp [hst, hreq, hleave])
  | false =>
    have hleave : d.pwr.leaving ≠ 0 := hw
    exact if_neg (by simp [hst, hleave])

/-! ### The statement -/

/-- Settles O31: a request by the lemmas of PWR_REQ, the end of a transition by the lemma of its operation. STANDBY
becomes READY with the request itself (notes/assumptions/81). -/
theorem powerSteps : Obligations.PowerSteps := by
  unfold Obligations.PowerSteps
  refine ⟨fun s p h => ⟨State.write_pwrAsk h (v := 2) (by decide), State.write_pwrAsk h (v := 3) (by decide),
      State.write_pwrAsk h (v := 5) (by decide), ?withdraw,
      fun d hst ha => Dev.pwrDo_refused hst ha,
      fun d hst ha => ⟨Dev.pwrDo_standby hst ha, Dev.pwrDo_campwatch hst ha⟩,
      fun d hst => Dev.pwrDo_ready hst⟩,
    fun s h => ⟨fun hk ht hst => State.live_next h (Dev.keptRun_kept hk ht hst),
      fun hs hst => State.live_next h (Dev.clocksStopped_stopping hs hst),
      fun hst hd => State.live_next h (Dev.drainDone_drained hst hd),
      fun hst hd => State.live_next h (Dev.drainLate_undrained hst hd),
      fun event hst hw => State.live_next h (Dev.safeOffWake_leaves hst hw)⟩⟩
  case withdraw =>
    exact State.write_next h (by decide) ((Dev.regWrite_pwrTarget _ h.2 (.inl rfl)).trans (Dev.pwrRequest_withdraw _ h.2))

end Sys2Proof.Machine
end

section
/-! PROOFS. Supplies, clocks, the interlock and the thermal trip: what each event makes of the device, and the statement
SupplyAndClockEvents assembled from them. -/

namespace Sys2Proof.Machine

/-! ### Events through what they do to the device -/

/-- An event outside the wrappers, by what it makes of the present device. -/
theorem State.act_next {s : State} {f g : Dev → Dev} (hf : f s.dev = g s.dev) :
    (Host.Outcome.next (s.act f) : Host.Outcome State Fault Refusal) = .next (s.act g) := by
  rw [State.act_congr hf]

/-- A loss of Lakebed, by what the event makes of the rest of the present device. -/
theorem State.actWiped_next {s : State} {f g : Dev → Dev} (hf : f s.dev = g s.dev) :
    (Host.Outcome.next (s.actWiped f) : Host.Outcome State Fault Refusal) = .next (s.actWiped g) := by
  simp only [State.actWiped, hf]

/-! ### Supplies (R34, R46, R51, R57) -/

theorem Dev.vaonLoss_on {d : Dev} (h : d.pwr.st ≠ .off) :
    d.vaonLoss =
      let e := (d.wipe false).noPowerNow d.pwr.st
      { e with pwr := { e.pwr with st := .off, vaonOk := false, pair := none, pairOld := [], trip := false, tripHot := false } } :=
  if_neg (by simpa using h)

theorem Dev.poresetLow_powered {d : Dev} (hr : d.pwr.poreset = false) (hp : d.powered = true) :
    d.poresetLow = let e := d.holdReset 1; { e with pwr := { e.pwr with poreset := true } } := by
  simp only [Dev.poresetLow, hr, hp, Bool.false_eq_true, if_false, if_true]

theorem Dev.railFault_powered {d : Dev} (hr : d.pwr.poreset = false) (hp : d.powered = true) (rail : Rail) :
    d.railFault rail =
      let e := (d.hardOpenAll.holdReset 2).loseWear
      { e with pwr := { e.pwr with railLog := some ⟨rail, d.now⟩, railHeld := true } } :=
  if_neg (by simp [hr, hp])

theorem Dev.clockFault_powered {d : Dev} (hr : d.pwr.poreset = false) (hp : d.powered = true) (cause : ClockCause) :
    d.clockFault cause =
      let e := (d.hardOpenAll.holdReset 3).downCore
      { e with pwr := { e.pwr with clockHeld := true, refclk := cause != .refclk,
                                   pllLoss := e.pwr.pllLoss || (d.pwr.ckSys && cause != .refclk) } } :=
  if_neg (by simp [hr, hp])

/-- POWER_DOWN of a powered module; only SAFE_OFF has put the wear counts into flash. -/
theorem Dev.powerDown_powered {d : Dev} (hp : d.powered = true) :
    d.powerDown =
      let w := if d.pwr.st == .safeOff then d else d.loseWear
      let e := w.latchPair.wipe false
      { e with pwr := { e.pwr with st := .campwatch, poreset := true, railHeld := false, clockHeld := false,
                                   causes := mergeCauses (if w.inReset then w.pwr.causes else 0) 2,
                                   trip := false, tripHot := false }
               cw := { e.cw with enter := some e.pwr.aonCnt } } :=
  if_neg (by simp [hp])

/-- A supply event that a powered module outside PORESET# alone takes. -/
theorem ite_unpowered {s : State} (hr : s.dev.pwr.poreset = false) (hp : s.dev.powered = true) (t : State) :
    (if s.dev.pwr.poreset || !s.dev.powered then s else t) = t :=
  if_neg (by simp [hr, hp])

theorem exec_poresetAssert {s : State} (hr : s.dev.pwr.poreset = false) :
    exec .poresetAssert s = .next (s.actWiped Dev.poresetLow) :=
  congrArg _ (if_neg (by simp [hr]))

theorem exec_railFault {s : State} (hr : s.dev.pwr.poreset = false) (hp : s.dev.powered = true) (rail : Rail) :
    exec (.railFault rail) s = .next (s.actWiped (fun d => d.railFault rail)) :=
  congrArg _ (ite_unpowered hr hp _)

theorem exec_clockFault {s : State} (hr : s.dev.pwr.poreset = false) (hp : s.dev.powered = true) (cause : ClockCause) :
    exec (.clockFault cause) s = .next (s.actWiped (fun d => d.clockFault cause)) :=
  congrArg _ (ite_unpowered hr hp _)

theorem exec_powerDown {s : State} (hp : s.dev.powered = true) : exec .powerDown s = .next (s.actWiped Dev.powerDown) :=
  congrArg _ (if_pos hp)

/-! ### The island's clock and the pair of LTIME (R47, R55) -/

theorem Dev.aonFail_on {d : Dev} (h : d.pwr.st ≠ .off) :
    d.aonFail =
      let e : Dev := { d with pwr := { d.pwr with aonRc := true,
                                                  warmRec := d.pwr.warmRec.map (fun r => { r with rcClear := false }) } }
      (if e.alive then (e.wb 0x2048 27 true).msg 16 else e).cwInput 15 6 0xFFF :=
  if_neg (by simpa using h)

theorem Dev.aonReturn_on {d : Dev} (h : d.pwr.st ≠ .off) : d.aonReturn = { d with pwr := { d.pwr with aonRc := false } } :=
  if_neg (by simpa using h)

/-- The pair before the new one joins the older ones. -/
theorem Dev.latchPair_running {d : Dev} (h : d.pwr.ckSys = true) :
    d.latchPair =
      { d with pwr := { d.pwr with pair := some (d.pwr.ltime, d.pwr.aonCnt), pairColds := d.pwr.colds
                                   pairOld := (match d.pwr.pair with
                                     | some (l, a) => (l, a, d.pwr.pairColds) :: d.pwr.pairOld
                                     | none => d.pwr.pairOld).take 8 } } :=
  if_pos h

/-! ### Interlock, thermal trip and READY (R39–R42) -/

/-- The faults of the interlock and the trip stand in a device that serves its registers and has left OFF. -/
theorem Dev.faults_stand {d : Dev} (ha : d.alive = true) (ho : d.pwr.devOff = false) : (d.alive && !d.pwr.devOff) = true := by
  simp [ha, ho]

theorem Dev.faults_ignored {d : Dev} (h : ¬(d.alive = true ∧ d.pwr.devOff = false)) : ¬(d.alive && !d.pwr.devOff) = true := by
  simpa using h

theorem Dev.ilkRise_live {d : Dev} (ha : d.alive = true) (ho : d.pwr.devOff = false) :
    d.ilkRise = { d with pwr := { d.pwr with ilkBall := true, ilk := true } } :=
  if_pos (Dev.faults_stand ha ho)

theorem Dev.ilkFall_live {d : Dev} (ha : d.alive = true) (ho : d.pwr.devOff = false) :
    d.ilkFall =
      let e := ({ d with pwr := { d.pwr with ilkBall := false, ilk := false } } : Dev).ballFall
      ((e.holdUnits e.runChans).hardOpenAll).fault 0 4 :=
  if_pos (Dev.faults_stand ha ho)

/-- Elsewhere the interlock is ignored but for its level (R40). -/
theorem Dev.ilkRise_reset {d : Dev} (h : ¬(d.alive = true ∧ d.pwr.devOff = false)) :
    d.ilkRise = { d with pwr := { d.pwr with ilkBall := true } } :=
  if_neg (Dev.faults_ignored h)

theorem Dev.ilkFall_reset {d : Dev} (h : ¬(d.alive = true ∧ d.pwr.devOff = false)) :
    d.ilkFall = { d with pwr := { d.pwr with ilkBall := false } } :=
  if_neg (Dev.faults_ignored h)

theorem Dev.thermalTrip_live {d : Dev} (ha : d.alive = true) (ho : d.pwr.devOff = false) :
    d.thermalTrip = (({ d with pwr := { d.pwr with trip := true, tripHot := true } } : Dev).ballFall.hardOpenAll).tripFaults :=
  if_pos (Dev.faults_stand ha ho)

/-- In a reset only the latch moves. -/
theorem Dev.thermalTrip_reset {d : Dev} (h : d.alive = false ∨ d.pwr.devOff = true) :
    d.thermalTrip = { d with pwr := { d.pwr with trip := true, tripHot := true } } :=
  if_neg (Dev.faults_ignored (d := d) (by rintro ⟨ha, ho⟩; simp [ha, ho] at h))

theorem Dev.thermalClear_cool {d : Dev} (h : d.tripCool = true) :
    d.thermalClear = { d with pwr := { d.pwr with tripHot := false } } :=
  if_pos h

theorem exec_thermalTrip {s : State} (h : s.dev.powered = true) : exec .thermalTrip s = .next (s.act Dev.thermalTrip) :=
  congrArg _ (if_pos h)

theorem exec_thermalTripClear {s : State} (h : s.dev.powered = true) :
    exec .thermalTripClear s = .next (s.act Dev.thermalClear) :=
  congrArg _ (if_pos h)

theorem Dev.ballRise_ball {d : Dev} (hr : d.readyOk = true) (hb : d.pwr.ball = false) : d.ballRise.pwr.ball = true := by
  simp only [Dev.ballRise, hr, hb, Bool.not_false, Bool.and_self, if_true]

/-! ### The statement -/

/-- Settles O29: each event by what its operation makes of the present device. That the trip's latch is lost with its supply, and
that a trip in a reset moves the latch alone, is the model's choice (notes/assumptions/85). -/
theorem supplyAndClockEvents : Obligations.SupplyAndClockEvents := by
  unfold Obligations.SupplyAndClockEvents
  refine ⟨fun s rail cause => ⟨rfl, rfl, fun h => State.actWiped_next (Dev.vaonLoss_on h),
      fun hr hp => ⟨?poreset, ?rail, ?clock⟩, fun hp => ?down⟩,
    fun s => ⟨fun h => ⟨State.act_next (Dev.aonFail_on h), State.act_next (Dev.aonReturn_on h)⟩,
      fun h => State.act_next (Dev.latchPair_running h),
      ⟨fun ⟨ha, ho⟩ => ⟨State.act_next (Dev.ilkRise_live ha ho), State.act_next (Dev.ilkFall_live ha ho)⟩,
        fun h => ⟨State.act_next (Dev.ilkRise_reset h), State.act_next (Dev.ilkFall_reset h)⟩⟩,
      fun hp => ⟨fun ha ho => ?trip, fun h => ?latch, fun hc => ?cool⟩,
      fun h hr hb => ⟨congrArg _ (State.live_of h _), Dev.ballRise_ball hr hb⟩⟩⟩
  case poreset => exact (exec_poresetAssert hr).trans (State.actWiped_next (Dev.poresetLow_powered hr hp))
  case rail => exact (exec_railFault hr hp rail).trans (State.actWiped_next (Dev.railFault_powered hr hp rail))
  case clock => exact (exec_clockFault hr hp cause).trans (State.actWiped_next (Dev.clockFault_powered hr hp cause))
  case down => exact (exec_powerDown hp).trans (State.actWiped_next (Dev.powerDown_powered hp))
  case trip => exact (exec_thermalTrip hp).trans (State.act_next (Dev.thermalTrip_live ha ho))
  case latch => exact (exec_thermalTrip hp).trans (State.act_next (Dev.thermalTrip_reset h))
  case cool => exact (exec_thermalTripClear hp).trans (State.act_next (Dev.thermalClear_cool hc))

end Sys2Proof.Machine
end

section
/-! PROOFS. The host port's link: that a reset of the port leaves the power part alone, what each event of the link and each
configuration write makes of the device, and the statement HostLinkEvents assembled from them. -/

namespace Sys2Proof.Machine

/-! ### The power part through a reset of the port (R424) -/

/-- What every step of a loop keeps, the loop keeps. -/
theorem forEach_keeps {σ α β : Type} {g : σ → β} {f : α → σ → σ} (h : ∀ a s, g (f a s) = g s) (l : List α) (s : σ) :
    g (forEach l f s) = g s := by
  induction l generalizing s with
  | nil => rfl
  | cons a l ih => exact (ih (f a s)).trans (h a s)

theorem Dev.pitchCancel_power (d : Dev) (k result : Nat) (off : Word) : (d.pitchCancel k result off).rest.pwr = d.rest.pwr := by
  unfold Dev.pitchCancel Dev.fabRec
  rw [Dev.rest_fabCommit]
  rfl

theorem Dev.pitchReset_power (d : Dev) (reach : Nat → Bool) : (d.pitchReset reach).rest.pwr = d.rest.pwr :=
  forEach_keeps (g := fun d : Dev => d.rest.pwr) (fun k d => d.pitchCancel_power k 13 0) _ d

theorem Dev.rest_reoffer (d : Dev) (h : Bool) : (d.reoffer h).rest = d.rest := by
  unfold Dev.reoffer
  extract_lets c hit e
  refine (forEach_keeps (fun w x => ?_) (List.range 32) e).trans (Dev.rest_icUpd d _)
  split
  · exact Dev.rest_icUpd x _
  · rfl

/-- A reset of the port can raise a wake request, and leaves the rest of the power part. -/
theorem Dev.portReset_power (d : Dev) : d.portReset.rest.pwr = d.rest.pwr :=
  (congrArg Dev.pwr (Dev.rest_reoffer _ true)).trans (d.pitchReset_power isOutletId)

theorem Dev.portReset_st (d : Dev) : d.portReset.pwr.st = d.pwr.st :=
  (congrArg Pwr.st d.portReset_power :)

theorem Dev.portReset_biasing (d : Dev) : d.portReset.pwr.biasing = d.pwr.biasing :=
  (congrArg Pwr.biasing d.portReset_power :)

@[simp] theorem Dev.portReset_causes (d : Dev) : d.portReset.pwr.causes = d.pwr.causes :=
  (congrArg Pwr.causes d.portReset_power :)

@[simp] theorem Dev.portReset_alive (d : Dev) : d.portReset.alive = d.alive := by
  simp only [Dev.alive, Dev.portReset_st]

@[simp] theorem Dev.portReset_inReset (d : Dev) : d.portReset.inReset = d.inReset := by
  simp only [Dev.inReset, Dev.portReset_st, Dev.portReset_biasing, Dev.portReset_causes]

/-! ### PERST# (R51, R52, R424) -/

/-- The port with PERST# low: the link is down. -/
def Dev.perstHeld (d : Dev) : Dev :=
  d.setHost { d.host with perst := true, linkUp := false, speed := 0, lanes := 0, l1 := false, l1Exit := false }

@[simp] theorem Dev.perstHeld_pwr (d : Dev) : d.perstHeld.pwr = d.pwr := rfl

@[simp] theorem Dev.perstHeld_alive (d : Dev) : d.perstHeld.alive = d.alive := rfl

@[simp] theorem Dev.perstHeld_inReset (d : Dev) : d.perstHeld.inReset = d.inReset := rfl

theorem Dev.perstLow_again {d : Dev} (h : d.host.perst = true) : d.perstLow = d := if_pos h

theorem Dev.perstLow_dead {d : Dev} (h : d.host.perst = false) (ha : d.alive = false) : d.perstLow = d.perstHeld := by
  have hh : ¬d.perstHeld.alive = true := by simp [ha]
  simp only [Dev.perstLow, h, ha, Bool.false_eq_true, if_false]
  exact if_neg hh

theorem Dev.perstLow_alive {d : Dev} (h : d.host.perst = false) (ha : d.alive = true) :
    d.perstLow = d.portReset.perstHeld.sideReset 8 := by
  have hh : d.portReset.perstHeld.alive = true := by simp [ha]
  simp only [Dev.perstLow, h, ha, Bool.false_eq_true, if_false, if_true]
  exact if_pos hh

/-- A reset of everything outside VAON absorbs one of another reach (R52). -/
theorem Dev.sideReset_absorbed {d : Dev} (hr : d.inReset = true) (hc : d.pwr.causes % 16 ≠ 0) (b : Nat) :
    d.sideReset b = d.startAgain := by
  simp only [Dev.sideReset, hr, hc, if_true, ne_eq, not_false_eq_true]

theorem Dev.sideReset_merged {d : Dev} (hr : d.inReset = true) (hc : d.pwr.causes % 16 = 0) (b : Nat) :
    d.sideReset b = ({ d with pwr := { d.pwr with causes := d.pwr.causes ||| 2 ^ b } } : Dev).startAgain := by
  simp only [Dev.sideReset, hr, hc, if_true, ne_eq, not_true_eq_false, if_false]

theorem Dev.sideReset_alone {d : Dev} (hr : d.inReset = false) (b : Nat) : d.sideReset b = d.wb 0x204C b true :=
  if_neg (by simp [hr])

/-! ### Events of the link -/

/-- An event of a link that is up, by what it makes of the present device. -/
theorem State.onLink_next {s : State} (h : s.Alive) (hl : s.dev.host.linkUp = true) {f g : Dev → Dev} (hf : f s.dev = g s.dev) :
    (Host.Outcome.next (s.live (fun d => d.onLink f)) : Host.Outcome State Fault Refusal) = .next (s.act g) :=
  State.live_next h ((if_pos hl).trans hf)

theorem Dev.hostLink_trains {d : Dev} (hp : d.host.perst = false) (hr : d.pwr.refclk = true) (hf : d.pwr.factory = false)
    (speed lanes : Nat) :
    d.hostLink speed lanes = (d.setHost { d.host with linkUp := true, speed := speed, lanes := lanes }).inD0 :=
  if_neg (by simp [hp, hr, hf])

theorem Dev.hostLink_untrained {d : Dev} (h : d.host.perst = true ∨ d.pwr.refclk = false ∨ d.pwr.factory = true)
    (speed lanes : Nat) : d.hostLink speed lanes = d :=
  if_pos (by simpa [or_assoc] using h)

/-- The device's request for L1 (R415). -/
def Dev.l1Enter (d : Dev) : Dev :=
  if d.host.cfg.aspmL1 && !d.outbound then d.setHost { d.host with l1 := true } else d

theorem Dev.l1Enter_idle {d : Dev} (ha : d.host.cfg.aspmL1 = true) (ho : d.outbound = false) :
    d.l1Enter = d.setHost { d.host with l1 := true } :=
  if_pos (by simp [ha, ho])

theorem Dev.l1Enter_prevented {d : Dev} (h : d.host.cfg.aspmL1 = false ∨ d.outbound = true) : d.l1Enter = d :=
  if_neg (by rintro hb; simp only [Bool.and_eq_true, Bool.not_eq_true'] at hb; simp [hb] at h)

theorem exec_l1Entry {s : State} (h : s.Alive) (hl : s.dev.host.linkUp = true) {f : Dev → Dev} (hf : s.dev.l1Enter = f s.dev) :
    exec .l1Entry s = .next (s.act f) :=
  State.onLink_next h hl hf

/-! ### The statement -/

/-- Settles O51: PERST# by what the reset of the port leaves of the power part, the other events by the lemma of their operation;
a configuration write takes its item. FLR and the hot reset leave RST_CAUSE (notes/assumptions/48), L1 is entered on the sender's
word (notes/assumptions/100), and configuration space is read by the names of its fields (notes/assumptions/108). -/
theorem hostLinkEvents : Obligations.HostLinkEvents := by
  unfold Obligations.HostLinkEvents
  refine fun s speed lanes x => ⟨fun hp => ⟨fun ha hr hc => ?absorbed, fun ha hr hc => ?merged, fun ha hr => ?alone,
      fun ha => State.act_next (Dev.perstLow_dead hp ha)⟩,
    fun hp => State.act_next (Dev.perstLow_again hp), rfl,
    fun h => ⟨fun hp hr hf => State.live_next h (Dev.hostLink_trains hp hr hf _ _),
      fun hn => State.live_next h (Dev.hostLink_untrained hn _ _),
      fun hl => ⟨fun ha ho => exec_l1Entry h hl (Dev.l1Enter_idle ha ho), fun hn => exec_l1Entry h hl (Dev.l1Enter_prevented hn),
        State.onLink_next h hl rfl, State.onLink_next h hl rfl, State.onLink_next h hl rfl, State.onLink_next h hl rfl,
        State.onLink_next h hl rfl, ?config⟩,
      fun _ => ⟨rfl, rfl, rfl, rfl, rfl, rfl, rfl⟩,
      fun hp => State.live_next h (if_neg (by simp [hp]))⟩⟩
  case absorbed =>
    exact State.act_next ((Dev.perstLow_alive hp ha).trans (Dev.sideReset_absorbed (by simp [hr]) (by simpa using hc) 8))
  case merged =>
    exact State.act_next ((Dev.perstLow_alive hp ha).trans (Dev.sideReset_merged (by simp [hr]) (by simpa using hc) 8))
  case alone => exact State.act_next ((Dev.perstLow_alive hp ha).trans (Dev.sideReset_alone (by simp [hr]) 8))
  case config =>
    refine State.onLink_next h hl ?_
    cases x <;> rfl

end Sys2Proof.Machine
end

section
/-! PROOFS. Header commands of a page by a path: where the header's registers lead, what an acknowledge leaves of FAULT, and the
statement HeaderCommands assembled from them. -/

namespace Sys2Proof.Machine

/-! ### Pages -/

theorem isPage_aligned {page : Nat} (h : isPage page = true) : page % 0x1000 = 0 := by
  simp only [isPage, Bool.and_eq_true, beq_iff_eq] at h
  exact h.2

/-- Pages with a header lie below the slots. -/
theorem isPage_below_slots {page : Nat} (h : isPage page = true) : page < 0x400000 := by
  by_contra hn
  have h0 : pageId page = 0 := by
    unfold pageId
    rw [if_neg (by omega), if_neg (by omega), if_neg (by omega)]
  simp [isPage, h0] at h

theorem pageBase_page {page : Nat} (h : isPage page = true) : pageBase page = page := by
  have := isPage_aligned h
  unfold pageBase
  omega

/-- No slot lies in a header, in either view. -/
theorem slotOf_header {page o : Nat} (h : isPage page = true) (ho : o < 0x40 ∨ 0x800 ≤ o ∧ o < 0x840) :
    slotOf (page + o) = none := by
  have h0 := isPage_aligned h
  have h1 := isPage_below_slots h
  unfold slotOf
  dsimp only
  rw [if_neg (by omega), if_neg (by omega), if_neg (by omega)]

/-- A path's write of a header register, by what it makes of the present device. -/
theorem State.write_header {s : State} {p : Path} (h : s.Via p) {page o : Nat} (hp : isPage page = true) (h16 : page ≠ 0x16000)
    (ho : o < 0x40 ∨ 0x800 ≤ o ∧ o < 0x840) {v : Word} {g : Dev → Dev} (hg : s.dev.headerWrite p page o v = g s.dev) :
    (Host.Outcome.next (s.write p (pageBase page + o) v) : Host.Outcome State Fault Refusal) = .next (s.act g) := by
  have h1 := isPage_below_slots hp
  rw [pageBase_page hp]
  exact State.write_next h (by omega)
    ((Dev.regWrite_header _ p v hp (by omega) (slotOf_header hp ho) h16 ho).trans hg)

/-! ### Revert and quarantine (R79, R109) -/

/-- STAGE_STAT.REVERT while no controller locks the page. -/
theorem Dev.stageStat_revert {d : Dev} {page : Nat} (hst : hasSt page = true) (hl : d.stageLocked page = false) :
    d.stageStat page 2 = d.revertPage page := by
  have hlost : bit 2 2 = false := by decide
  have hrevert : bit 2 1 = true := by decide
  simp only [Dev.stageStat, hlost, hrevert, hst, hl, Bool.false_and, Bool.and_true, Bool.false_eq_true, if_true, if_false]

theorem Dev.headerWrite_quar (d : Dev) {p : Path} {page : Nat} {u : Un} (v : Word) (hu : pageUnit page = some u)
    (hm : isMain page = true) : d.headerWrite p page 0x18 v = if p = .mgmt then d.quarPage u v else d := by
  simp [Dev.headerWrite, hu, hm]

/-! ### Acknowledges (R91) -/

/-- Bits set one by one where a condition holds. -/
theorem foldl_setBit_bit (q : Nat → Bool) {b : Nat} (hb : b < 32) (l : List Nat) (hl : ∀ i ∈ l, i < 32) (m : Word) :
    (l.foldl (fun (m : Word) i => if q i then setBit m i true else m) m).getLsbD b =
      (m.getLsbD b || (decide (b ∈ l) && q b)) := by
  induction l generalizing m with
  | nil => simp
  | cons i l ih =>
    obtain ⟨hi, hl⟩ := List.forall_mem_cons.mp hl
    rw [List.foldl_cons, ih hl]
    by_cases he : b = i
    · subst he
      cases hq : q b with
      | false => simp
      | true => rw [if_pos rfl, setBit_bit m true hi hb]; simp
    · have hsame : (if q i then setBit m i true else m).getLsbD b = m.getLsbD b := by
        split
        · rw [setBit_bit m true hi hb, if_neg he]
        · rfl
      simp [hsame, he]

/-- The bits of FAULT that an acknowledge clears. -/
def Dev.ackMask (d : Dev) (page : Nat) (v : Word) : Word :=
  (List.range 32).foldl (fun (m : Word) b =>
    if bit (d.rd (page + 0xC)) b && bit v b && !d.persists page b then setBit m b true else m) 0

theorem Dev.ackMask_bit (d : Dev) (page : Nat) (v : Word) {b : Nat} (hb : b < 32) :
    (d.ackMask page v).getLsbD b = ((d.rd (page + 0xC)).getLsbD b && v.getLsbD b && !d.persists page b) := by
  refine (foldl_setBit_bit (fun b => bit (d.rd (page + 0xC)) b && bit v b && !d.persists page b) hb _ (by simp) 0).trans ?_
  simp [hb, bit]

/-- An acknowledge outside the main pages, which moves no unit's state. -/
theorem Dev.rd_faultAck_side (d : Dev) {page : Nat} (v : Word) (hm : isMain page = false) :
    (d.faultAck page v).rd (page + 0xC) = d.rd (page + 0xC) &&& ~~~(d.ackMask page v) := by
  have hack : d.faultAck page v = if d.ackMask page v = 0 then d
      else d.wr (page + 0xC) (d.rd (page + 0xC) &&& ~~~(d.ackMask page v)) := by
    unfold Dev.faultAck
    simp only [hm, Bool.false_and, Bool.false_eq_true, if_false]
    cases pageUnit page <;> rfl
  rw [hack]
  split
  next hz => rw [hz]; exact BitVec.and_allOnes.symm
  next => exact Dev.rd_wr d _ _

/-! ### The statement -/

/-- Settles O33: each command by the header register that it writes, and an acknowledge by the bits that it clears. At the page of
the island it is a posted write (notes/assumptions/63). -/
theorem headerCommands : Obligations.HeaderCommands := by
  unfold Obligations.HeaderCommands
  refine ⟨fun s p page v h hp h16 => ⟨fun hst hl => ?revert, ?ack, fun u hu hm => ⟨fun hpm => ?quar, fun hpm => ?quarOther⟩⟩,
    fun d page v hm b hb => ?bits⟩
  case revert => exact State.write_header h hp h16 (.inr (by decide)) (Dev.stageStat_revert hst hl)
  case ack => exact State.write_header h hp h16 (.inl (by decide)) rfl
  case quar => exact State.write_header h hp h16 (.inl (by decide)) ((Dev.headerWrite_quar _ v hu hm).trans (if_pos hpm))
  case quarOther => exact State.write_header h hp h16 (.inl (by decide)) ((Dev.headerWrite_quar _ v hu hm).trans (if_neg hpm))
  case bits =>
    rw [Dev.rd_faultAck_side d v hm, BitVec.getLsbD_and, BitVec.getLsbD_not, Dev.ackMask_bit d page v hb]
    cases (d.rd (page + 0xC)).getLsbD b <;> simp [hb]

end Sys2Proof.Machine
end

section
/-! PROOFS. Pitch controllers: what each command does by the controller's state, the end of a check, the instant, and the
statement Pitches assembled from them. -/

namespace Sys2Proof.Machine

/-! ### Commands by a path (R111) -/

/-- CMD is the first register of its controller. -/
theorem pitchCmdAt_facts (k : Ctl) :
    pitchCmdAt k < 0x2000000 ∧ pitchCmdAt k % 0x20 = 0 ∧ (pitchCmdAt k - 0x1100) / 0x20 = k.val := by
  have hk := k.isLt
  unfold pitchCmdAt
  omega

/-- What a code in CMD does. -/
def Dev.pitchCmd (d : Dev) (k code : Nat) : Dev :=
  match code with
  | 0 => d
  | 1 => d.pitchStart k false
  | 2 => d.pitchStart k true
  | 3 => d.pitchDisarm k
  | 4 => d.pitchDiscard k
  | _ => d.invalid 0x1000

theorem Dev.pitchWrite_cmd (d : Dev) (p : Path) (k : Ctl) (v : Word) :
    d.pitchWrite p (pitchCmdAt k) v = d.pitchCmd k.val (fld v 3 0) := by
  obtain ⟨-, hcmd, hk⟩ := pitchCmdAt_facts k
  simp only [Dev.pitchWrite, hcmd, hk]
  rfl

/-- A path's write of CMD, by what it makes of the present device. -/
theorem State.write_pitchCmd {s : State} {p : Path} (h : s.Via p) (k : Ctl) {v : Word} {g : Dev → Dev}
    (hg : s.dev.pitchCmd k.val (fld v 3 0) = g s.dev) :
    (Host.Outcome.next (s.write p (pitchCmdAt k) v) : Host.Outcome State Fault Refusal) = .next (s.act g) :=
  State.write_next h (pitchCmdAt_facts k).1 ((Dev.regWrite_pitch _ p k v).trans ((Dev.pitchWrite_cmd _ p k v).trans hg))

/-! ### CHECK and ARM by the controller's state (R99) -/

theorem Dev.pitchStart_locked {d : Dev} {k : Nat} (h : (d.ctl k).ps.locks = true) (arm : Bool) : d.pitchStart k arm = d :=
  if_pos h

/-- A controller of overlapping scope is CHECKING or ARMED (R101). -/
theorem Dev.pitchStart_busy {d : Dev} {k : Nat} (h : (d.ctl k).ps.locks = false) (hb : d.pitchBusy k = true) (arm : Bool) :
    d.pitchStart k arm = d.pitchFail k 9 := by
  simp [Dev.pitchStart, h, hb]

/-- A check begins: CHECK, or ARM of a controller that is not PASSED. -/
theorem Dev.pitchStart_checks {d : Dev} {k : Nat} (h : (d.ctl k).ps.locks = false) (hb : d.pitchBusy k = false) {arm : Bool}
    (ha : arm = true → (d.ctl k).ps ≠ .passed) :
    d.pitchStart k arm = d.setCtl k { d.ctl k with ps := .checking, arming := arm } := by
  have hn : ¬(arm && (d.ctl k).ps == .passed) = true := by simpa using ha
  simp [Dev.pitchStart, h, hb, hn]

/-- ARM of a PASSED controller, by whether its instant can still occur (R103). -/
theorem Dev.pitchStart_passed {d : Dev} {k : Nat} (hb : d.pitchBusy k = false) (hp : (d.ctl k).ps = .passed) :
    d.pitchStart k true = if d.noInstant k then d.pitchFail k 10 else d.setCtl k { d.ctl k with ps := .armed } := by
  simp [Dev.pitchStart, hb, hp, PState.locks]

@[simp] theorem Dev.ctl_pitchFail (d : Dev) (k code : Nat) :
    (d.pitchFail k code).ctl k = { d.ctl k with ps := .failed, result := code, offender := 0, arming := false } :=
  Dev.ctl_setCtl d k _

/-! ### DISARM and DISCARD by the controller's state (R99, R111) -/

theorem Dev.pitchDisarm_locked {d : Dev} {k : Nat} (h : (d.ctl k).ps.locks = true) : d.pitchDisarm k = d.pitchCancel k 12 0 :=
  if_pos h

theorem Dev.pitchDisarm_unlocked {d : Dev} {k : Nat} (h : (d.ctl k).ps.locks = false) : d.pitchDisarm k = d :=
  if_neg (by simp [h])

theorem Dev.pitchDiscard_locked {d : Dev} {k : Nat} (h : (d.ctl k).ps.locks = true) : d.pitchDiscard k = d :=
  if_pos h

/-! ### The end of a check (R100) -/

theorem Dev.ctl_checkEnd_failed {d : Dev} {k : Nat} (h : (d.ctl k).ps = .checking) {f : Finding} (hf : (d.check k).1 = some f) :
    (d.checkEnd k).ctl k = { d.ctl k with ps := .failed, result := f.code, offender := f.off, arming := false } := by
  simp [Dev.checkEnd, h, hf]

/-- The check found nothing: ARM goes on to the instant, CHECK stops at PASSED. -/
theorem Dev.ctl_checkEnd_passed {d : Dev} {k : Nat} (h : (d.ctl k).ps = .checking) (hf : (d.check k).1 = none) :
    ((d.checkEnd k).ctl k).ps = (if (d.ctl k).arming then .armed else .passed) ∧ ((d.checkEnd k).ctl k).result = 0 := by
  simp [Dev.checkEnd, h, hf]

/-! ### The statement -/

/-- Settles O35: the commands through CMD of their controller, then each by the controller's state, and the two ends of a check
by what it found. -/
theorem pitches : Obligations.Pitches := by
  unfold Obligations.Pitches
  refine ⟨fun s p k h => ⟨State.write_pitchCmd h k rfl, State.write_pitchCmd h k rfl, State.write_pitchCmd h k rfl,
      State.write_pitchCmd h k rfl,
      fun d => ⟨fun hl => ?locked, fun hl => ⟨Dev.pitchDisarm_unlocked hl, fun hb => ?busy, fun hb => ?free⟩⟩⟩,
    fun s k h => ⟨fun _ => State.live_next h rfl, fun harm hdue => ?instant,
      fun d hc => ⟨fun f hf => Dev.ctl_checkEnd_failed hc hf, fun hn => Dev.ctl_checkEnd_passed hc hn⟩⟩⟩
  case locked =>
    exact ⟨Dev.pitchStart_locked hl _, Dev.pitchStart_locked hl _, Dev.pitchDiscard_locked hl,
      congrArg Dev.pitch (Dev.pitchDisarm_locked hl)⟩
  case busy => rw [Dev.pitchStart_busy hl hb, Dev.ctl_pitchFail]
  case free =>
    refine ⟨?_, fun hp => ?_, fun hp hi => ?_, fun hp hi => ?_⟩
    · rw [Dev.pitchStart_checks hl hb (by simp), Dev.ctl_setCtl]
    · rw [Dev.pitchStart_checks hl hb (fun _ => hp), Dev.ctl_setCtl]
    · simp [Dev.pitchStart_passed hb hp, hi]
    · simp [Dev.pitchStart_passed hb hp, hi]
  case instant => exact State.live_next h ((if_pos hdue).trans (if_neg (by simp [harm])))

end Sys2Proof.Machine
end

section
/-! PROOFS. The flaps of a channel: what a hard open leaves of each flap, what a flap operation makes of the flap's class and wear,
and the statements HardOpen and FlapEvents. -/

namespace Sys2Proof.Machine

/-! ### Channels through updates and through what leaves them alone -/

@[simp] theorem Dev.ch_updCh (d : Dev) (n : Nat) (f : ChanDyn → ChanDyn) : (d.updCh n f).ch n = f (d.ch n) := Dev.ch_setCh d n _

theorem Dev.ch_updCh_ne (d : Dev) {n m : Nat} (h : m ≠ n) (f : ChanDyn → ChanDyn) : (d.updCh n f).ch m = d.ch m :=
  Dev.ch_setCh_ne d h _

/-- Messages, faults and records move no channel. -/
theorem Dev.ch_of_rest {d e : Dev} (h : d.rest = e.rest) (n : Nat) : d.ch n = e.ch n :=
  (congrArg (fun x : Dev => x.ch n) h : d.rest.ch n = e.rest.ch n)

theorem Dev.ch_fault (d : Dev) (page b n : Nat) : (d.fault page b).ch n = d.ch n := Dev.ch_of_rest (Dev.rest_fault d page b) n

theorem Dev.ch_chanRec (d : Dev) (m ty fl : Nat) (t : Time) (a b c : Word) (n : Nat) : (d.chanRec m ty fl t a b c).ch n = d.ch n :=
  Dev.ch_of_rest (Dev.rest_record d _ _ _ _ _ _ _ _ _) n

/-- The end of a task moves no channel by itself. -/
theorem Dev.ch_release (d : Dev) (kind unit n : Nat) : (d.release kind unit).ch n = d.ch n := by
  unfold Dev.release
  split <;> rfl

/-! ### Hard open (R130) -/

/-- What a hard open leaves of a flap; `fresh` says that this very cycle began to close it. -/
def FlapDyn.hardOpened (fresh : Bool) (y : FlapDyn) : FlapDyn :=
  match y.ph with
  | .closed => { y with ph := .opening, hard := true }
  | .closing => { y with ph := if fresh then .opened else .opening, hard := true }
  | _ => y

theorem FlapDyn.hardOpened_shut (fresh : Bool) (y : FlapDyn) : (y.hardOpened fresh).shut = false := by
  cases h : y.ph <;> cases fresh <;> simp [FlapDyn.hardOpened, FlapDyn.shut, h]

theorem FlapDyn.hardOpened_wear (fresh : Bool) (y : FlapDyn) : (y.hardOpened fresh).wear = y.wear := by
  cases h : y.ph <;> simp [FlapDyn.hardOpened, h]

theorem FlapDyn.hardOpened_closed (fresh : Bool) {y : FlapDyn} (h : y.ph = .closed) :
    y.hardOpened fresh = { y with ph := .opening, hard := true } := by
  simp [FlapDyn.hardOpened, h]

theorem FlapDyn.hardOpened_closing (fresh : Bool) {y : FlapDyn} (h : y.ph = .closing) :
    y.hardOpened fresh = { y with ph := if fresh then .opened else .opening, hard := true } := by
  simp [FlapDyn.hardOpened, h]

/-- The channel behind its hard open. -/
theorem Dev.ch_hardOpen (d : Dev) (n : Nat) :
    (d.hardOpen n).ch n =
      { d.ch n with
        fF := (d.ch n).fF.hardOpened ((d.ch n).closeAt == some d.now)
        fS := (d.ch n).fS.hardOpened ((d.ch n).closeAt == some d.now)
        ampOn := false, ramp := .none, relDue := false, hardAt := some d.now } := by
  unfold Dev.hardOpen
  rw [Dev.ch_release, Dev.ch_updCh]
  cases hF : (d.ch n).fF.ph <;> cases hS : (d.ch n).fS.ph <;>
    simp [FlapDyn.hardOpened, ChanDyn.flap, ChanDyn.setFlap, hF, hS]

theorem Dev.flap_hardOpen (d : Dev) (n : Nat) (f : Flap) :
    ((d.hardOpen n).ch n).flap f = ((d.ch n).flap f).hardOpened ((d.ch n).closeAt == some d.now) := by
  rw [Dev.ch_hardOpen]
  cases f <;> rfl

theorem Dev.ch_hardOpen_ne (d : Dev) {n m : Nat} (h : m ≠ n) : (d.hardOpen n).ch m = d.ch m := by
  unfold Dev.hardOpen
  rw [Dev.ch_release, Dev.ch_updCh_ne d h]

/-- Settles O37: by what a hard open leaves of the channel and of each of its flaps. -/
theorem hardOpen : Obligations.HardOpen := by
  unfold Obligations.HardOpen
  intro d n
  dsimp only
  refine ⟨?_, ?_, ?_, ?_, ?_, fun f hf => ?closed, fun f hf => ?closing, ?_, ?_, fun m hm => Dev.ch_hardOpen_ne d hm⟩
  case closed => simp [Dev.flap_hardOpen, FlapDyn.hardOpened_closed _ hf]
  case closing => simp [Dev.flap_hardOpen, FlapDyn.hardOpened_closing _ hf]
  all_goals simp [Dev.ch_hardOpen, FlapDyn.hardOpened_shut, FlapDyn.hardOpened_wear]

/-! ### Class and wear of a flap operation (R131) -/

@[simp] theorem ChanDyn.flap_setFlap (x : ChanDyn) (f : Flap) (y : FlapDyn) : (x.setFlap f y).flap f = y := by
  cases f <;> rfl

/-- A saturating counter stops at its largest value. -/
theorem satU_eq_min (n v : Nat) : satU n v = min v (2 ^ n - 1) := by
  have h : 0 < 2 ^ n := Nat.two_pow_pos n
  unfold satU
  split <;> omega

/-- The flap behind an operation: its new phase, its class by what the channel's words show, and its wear. -/
def Dev.operated (d : Dev) (n : Nat) (f : Flap) (iNa vUv : Nat) (ph : FlapPhase) : FlapDyn :=
  let y := (d.ch n).flap f
  let z := flapClass (min iNa (iFs (d.chIr n) * 1000)) (min vUv (vFs (d.chVr n)))
  { y with ph := ph, cls := z, wear := min (y.wear + wearUnits z) (2 ^ 32 - 1) }

/-- Only the flap moves; a hot operation's fault and record leave the channels alone. -/
theorem Dev.ch_flapOp (d : Dev) (n : Nat) (f : Flap) (op iNa vUv : Nat) (ph : FlapPhase) (m : Nat) :
    (d.flapOp n f op iNa vUv ph).ch m = (d.updCh n (fun x => x.setFlap f (d.operated n f iNa vUv ph))).ch m := by
  unfold Dev.flapOp Dev.operated
  simp only [Dev.seen, satU_eq_min]
  split
  · rfl
  · rw [Dev.ch_chanRec, Dev.ch_fault]

/-! ### Flap and ramp events (R128–R130) -/

theorem Dev.flapSettled_closing {d : Dev} {n : Nat} {f : Flap} (h : ((d.ch n).flap f).ph = .closing) (iNa vUv : Nat) :
    d.flapSettled n f iNa vUv = (d.flapOp n f 0 iNa vUv .closed).tryForce n :=
  if_neg (by simp [h])

theorem Dev.flapIsolated_opening {d : Dev} {n : Nat} {f : Flap} (h : ((d.ch n).flap f).ph = .opening) (iNa vUv : Nat) :
    d.flapIsolated n f iNa vUv =
      (d.flapOp n f (if ((d.ch n).flap f).hard then 2 else 1) iNa vUv .opened).startClose n :=
  if_neg (by simp [h])

/-- A ramp by which the channel leaves its force for good: its task ends, and the flaps that the ramp was to open lose their
drive. -/
theorem Dev.rampDone_leaves {d : Dev} {n : Nat} (hr : (d.ch n).ramp ≠ .none)
    (h : (d.ch n).ramp = .toHeld ∨ d.ust (.chan n) ≠ .run) :
    d.rampDone n = (d.setCh n ({ d.ch n with ampOn := false, ramp := .none, relDue := false }.dropFlaps
      ((d.ch n).ramp.opens .force) ((d.ch n).ramp.opens .sense))).release 1 n := by
  have hruns : (d.ust (.chan n) == .run && !d.pwr.campWait.contains (n / 32) && (d.ch n).ramp != .toHeld) = false := by
    rcases h with h | h <;> simp [h]
  exact (if_neg (by simp [hr])).trans (if_pos (by rw [hruns]; rfl))

/-- Settles O36: each event by the lemma of its operation, and a flap operation by what it leaves of the flap. -/
theorem flapEvents : Obligations.FlapEvents := by
  unfold Obligations.FlapEvents
  refine ⟨fun s n f iNa vUv h => ⟨fun hph => ?_, fun hph => ?_, fun _ => State.live_next h rfl, fun hr => ?held,
      fun a b hr hu => ?opened⟩,
    fun d n f op iNa vUv ph => ⟨?flap, fun m hm => ?frame⟩⟩
  · exact State.live_next h (Dev.flapSettled_closing hph iNa vUv)
  · exact State.live_next h (Dev.flapIsolated_opening hph iNa vUv)
  case held =>
    rw [Dev.rampDone_leaves (by simp [hr]) (.inl hr)]
    simp [hr, Ramp.opens, ChanDyn.dropFlaps]
  case opened =>
    rw [Dev.rampDone_leaves (by simp [hr]) (.inr hu)]
    simp [hr, Ramp.opens]
  case flap =>
    rw [Dev.ch_flapOp, Dev.ch_updCh, ChanDyn.flap_setFlap]
    rfl
  case frame => rw [Dev.ch_flapOp, Dev.ch_updCh_ne d hm]

end Sys2Proof.Machine
end

section
/-! PROOFS. Words, protection, compliance, apertures and calibration of a channel: one lemma for each branch of an event, and the
statement ChannelEvents. -/

namespace Sys2Proof.Machine

/-- Two updates of a channel are one. -/
theorem Dev.updCh_updCh (d : Dev) (n : Nat) (f g : ChanDyn → ChanDyn) :
    (d.updCh n f).updCh n g = d.updCh n (fun x => g (f x)) := by
  simp [Dev.updCh, Dev.setCh, Dev.ch]

/-- Registers are no part of a channel. -/
theorem Dev.rf_updCh (d : Dev) (n : Nat) (f : ChanDyn → ChanDyn) (a hi lo : Nat) : (d.updCh n f).rf a hi lo = d.rf a hi lo := rfl

/-! ### Protection (R125, R135) -/

theorem Dev.overvoltage_shut {d : Dev} {n : Nat} (h : (d.ch n).fF.ph = .closed ∨ (d.ch n).fS.ph = .closed) (f : Flap)
    (v i : Word) (t : Time) :
    d.overvoltage n f v i t =
      (((d.words n v i t).hardOpen n).chanFault n 6).protectRec n (match f with | .force => 1 | .sense => 2) v i t := by
  have hshut : ¬((d.ch n).fF.ph != .closed && (d.ch n).fS.ph != .closed) = true := by
    rcases h with h | h <;> simp [h]
  cases f <;> exact if_neg hshut

/-- The channel forces and senses with four wires, so that a lost contact of its sense wire shows (R125). -/
def Dev.sensesRemote (d : Dev) (n : Nat) : Prop :=
  d.ust (.chan n) = .run ∧ d.chWire n = true ∧ (d.ch n).fF.ph = .closed ∧ (d.ch n).fS.ph = .closed ∧ (d.ch n).ampOn = true ∧
    d.chMode n ≠ 0 ∧ (d.ch n).localSense = false

theorem Dev.senseLoss_remote {d : Dev} {n : Nat} {v i : Word} {t : Time} (h : (d.words n v i t).sensesRemote n) :
    d.senseLoss n v i t =
      (((d.words n v i t).updCh n (fun x => { x with localSense := true })).fault (chanPage n) 3).protectRec n 3 v i t := by
  obtain ⟨hrun, hwire, hF, hS, hamp, hmode, hlocal⟩ := h
  exact if_pos (by simp [hrun, hwire, hF, hS, hamp, hmode, hlocal])

/-! ### Compliance (R134) -/

/-- A limit acts in RUN: the status bit shows it, and the entry record waits for COMP.TIME, or has been written. -/
theorem Dev.complyEntry_shows {d : Dev} {n : Nat} {v i : Word} {t : Time} {held : Bool}
    (hrun : (d.words n v i t).ust (.chan n) = .run)
    (h : held = false ∨ (d.words n v i t).rf (chanPage n + 0x4C) 23 0 = 0 ∨ ((d.words n v i t).ch n).complyRec = true) :
    d.complyEntry n held v i t = (d.words n v i t).updCh n (fun x => { x with comply := true }) := by
  unfold Dev.complyEntry
  dsimp only
  rw [if_neg (by simp [hrun]), if_pos]
  simpa [Dev.rf_updCh, or_assoc] using h

/-- The limit has been held for COMP.TIME: the period is recorded, and COMP_STOP makes it a fault. -/
theorem Dev.complyEntry_records {d : Dev} {n : Nat} {v i : Word} {t : Time}
    (hrun : (d.words n v i t).ust (.chan n) = .run) (htime : (d.words n v i t).rf (chanPage n + 0x4C) 23 0 ≠ 0)
    (hrec : ((d.words n v i t).ch n).complyRec = false) :
    d.complyEntry n true v i t =
      (let e := fun (p5 : Nat) =>
         ((d.words n v i t).updCh n (fun x => { x with comply := true, complyRec := true })).chanRec n 0x41
           (ovlFlag [satWord v, satWord i]) t (w32 p5) (satWord v) (satWord i)
       if (d.words n v i t).rf (chanPage n + 0x4C) 25 24 = 1 then (e 2).chanFault n 4 else e 0) := by
  unfold Dev.complyEntry
  dsimp only
  rw [if_neg (by simp [hrun]), if_neg (by simp [Dev.rf_updCh, htime, hrec]), Dev.updCh_updCh, Dev.rf_updCh]
  by_cases hstop : (d.words n v i t).rf (chanPage n + 0x4C) 25 24 = 1
  · simp [hstop]
  · simp [hstop, beq_false_of_ne hstop]

theorem Dev.complyExit_quiet {d : Dev} {n : Nat} {v i : Word} {t : Time} {long : Bool}
    (h : long = false ∨ ((d.words n v i t).ch n).complyRec = false) :
    d.complyExit n long v i t = (d.words n v i t).updCh n (fun x => { x with comply := false }) :=
  if_pos (by simpa using h)

/-- The end of a recorded period is recorded as well. -/
theorem Dev.complyExit_records {d : Dev} {n : Nat} {v i : Word} {t : Time}
    (h : ((d.words n v i t).ch n).complyRec = true) :
    d.complyExit n true v i t =
      ((d.words n v i t).updCh n (fun x => { x with comply := false, complyRec := false })).chanRec n 0x41
        (ovlFlag [satWord v, satWord i]) t (w32 1) (satWord v) (satWord i) := by
  unfold Dev.complyExit
  dsimp only
  rw [if_neg (by simp [h]), Dev.updCh_updCh]
  rfl

/-! ### Apertures (R141, R143) -/

/-- An aperture of one half and no partner gives the means of its half. -/
theorem Dev.apEnd_single {d : Dev} {n : Nat} {h : HalfSum} (ovl : Bool) (t : Time) (hap : (d.ch n).ap = true)
    (hat : (d.ch n).apAt = none) (hrun : d.ust (.chan n) = .run) (hrev : d.rf (chanPage n + 0x68) 23 16 = 0)
    (hlen : h.n = d.rf (chanPage n + 0x6C) 20 0) (hpair : bit (d.rd (chanPage n + 0x74)) 15 = false) :
    d.apEnd n [h] ovl t =
      (let vm := satRes (roundAway ((h.v : Rat) * 256 / (h.n : Nat)))
       let im := satRes (roundAway ((h.i : Rat) * 256 / (h.n : Nat)))
       (d.setCh n { d.ch n with ap := false, apLost := false, vmean := wInt vm.1, imean := wInt im.1 }).chanRec n 0x45
         (ovl.toNat * 0x20) t
         (w32 ((vm.2 || im.2).toNat * 128 + ovl.toNat * 64 + h.comply.toNat * 32 + (d.ch n).apLost.toNat * 16))
         (wInt vm.1) (wInt im.1)) := by
  unfold Dev.apEnd
  simp [hap, hat, hrun, hrev, ← hlen, hpair, halvesOf, halfSum]

/-! ### Calibration (R145) -/

theorem Dev.calDone_running {d : Dev} {n : Nat} (hc : (d.ch n).cal ≠ 0) (ht : d.taskOf 3 n true ≠ none) (o : CalOutcome) :
    d.calDone n o = d.changeH (Un.ofChan n) (fun e => e.calEnd n (d.ch n).cal o) :=
  if_neg (by simp [hc, ht])

/-! ### Comparators (R133) -/

/-- A window is entered by a word beyond its threshold, in RUN, whose status was clear. -/
theorem Dev.mem_cmpEnters (d : Dev) (n : Nat) (w : Fin 4) (v : Word) :
    w.val ∈ d.cmpEnters n (decide (w.val < 2)) v ↔
      d.ust (.chan n) = .run ∧ (d.ch n).cmp.getLsbD w.val = false ∧ d.cmpBeyond n w.val (satWord v) = true := by
  have hw : w.val ∈ (if decide (w.val < 2) = true then [0, 1] else [2, 3]) := by revert w; decide
  by_cases hrun : d.ust (.chan n) = .run
  · simp only [Dev.cmpEnters, hrun, bne_self_eq_false, Bool.false_eq_true, if_false, List.mem_filter, hw, true_and,
      Bool.and_eq_true, Bool.not_eq_true']
  · simp [Dev.cmpEnters, hrun]

/-- The status of a window sets with the word that enters it. -/
def Dev.entered (d : Dev) (n : Nat) (w : Fin 4) (v : Word) : Dev :=
  (d.chanWord n (decide (w.val < 2)) v).updCh n (fun x => { x with cmp := bset x.cmp w.val true })

/-- A word that enters one window: the window's status sets, and its action is by ACT. -/
theorem Dev.cmpEntry_enters {d : Dev} {n : Nat} {w : Fin 4} {v : Word}
    (h : d.cmpEnters n (decide (w.val < 2)) v = [w.val]) (t : Time) :
    d.cmpEntry n w.val v t =
      (let act := d.cmpAct n w.val
       let e := d.entered n w v
       let r := e.chanRec n 0x40 (ovlFlag [satWord v]) t (w32 ((if act = 2 then 4 else 0) + w.val)) (satWord v)
         (wInt (d.cmpThr n w.val))
       if act = 0 then e else if act = 2 then r.chanFault n 5 else r) := by
  unfold Dev.cmpEntry Dev.cmpWord
  rw [h]
  rfl

theorem Dev.cmpEntry_none {d : Dev} {n : Nat} {w : Fin 4} {v : Word}
    (h : d.cmpEnters n (decide (w.val < 2)) v = []) (t : Time) :
    d.cmpEntry n w.val v t = d.chanWord n (decide (w.val < 2)) v := by
  unfold Dev.cmpEntry Dev.cmpWord
  rw [h]
  rfl

/-! ### The statement -/

/-- Settles O38: each event by the lemma of the branch of its operation that the clause is about, and a comparator by the windows
that the word enters. -/
theorem channelEvents : Obligations.ChannelEvents := by
  unfold Obligations.ChannelEvents
  refine ⟨fun s n f v i w t l ovl long o h => ⟨fun hshut => ?openHard, fun hrun hwire hF hS hamp hmode hlocal => ?sense,
      State.live_next h rfl, fun hrun => ⟨fun hq => ?shows, fun htime hrec => ⟨fun hstop => ?record, fun hstop => ?stop⟩⟩,
      fun hq => ?quiet, fun hrec => ?exit, fun hap hat hrun => ⟨fun _ _ _ => State.live_next h rfl,
        fun _ hrev hlen hpair => ?aperture⟩,
      fun hc ht => State.live_next h (Dev.calDone_running hc ht o)⟩,
    fun d n w v t => ⟨d.mem_cmpEnters n w v, fun hin => ⟨fun h0 => ?nothing, fun h2 => ?fault, fun h0 h2 => ?note⟩,
      fun hnone => Dev.cmpEntry_none hnone t⟩⟩
  case openHard => exact State.live_next h (Dev.overvoltage_shut hshut f v i t)
  case sense => exact State.live_next h (Dev.senseLoss_remote ⟨hrun, hwire, hF, hS, hamp, hmode, hlocal⟩)
  case shows => exact State.live_next h (Dev.complyEntry_shows hrun hq)
  case record => exact State.live_next h ((Dev.complyEntry_records hrun htime hrec).trans (if_neg hstop))
  case stop => exact State.live_next h ((Dev.complyEntry_records hrun htime hrec).trans (if_pos hstop))
  case quiet => exact State.live_next h (Dev.complyExit_quiet hq)
  case exit => exact State.live_next h (Dev.complyExit_records hrec)
  case aperture => exact State.live_next h (Dev.apEnd_single ovl t hap hat hrun hrev hlen hpair)
  case nothing => exact (Dev.cmpEntry_enters hin t).trans (if_pos h0)
  case fault => rw [Dev.cmpEntry_enters hin]; simp [h2, Dev.entered]
  case note => rw [Dev.cmpEntry_enters hin]; simp [h0, h2, Dev.entered]

end Sys2Proof.Machine
end

section
/-! PROOFS. CAL_CMD by a path (R144, R145), and the statement CalibrationCommands. -/

namespace Sys2Proof.Machine

/-- A channel that may calibrate and does not yet: the calibration takes its place. -/
theorem Dev.calStart_allowed {d : Dev} {n kind : Nat} (hk : kind ≠ 0) (hc : (d.ch n).cal = 0) (ha : d.calAllowed n = true) :
    d.calStart n kind = d.calQueue n kind :=
  (if_neg (by simp [hk, hc])).trans (if_pos ha)

/-- A channel in another state refuses, and records it. -/
theorem Dev.calStart_refused {d : Dev} {n kind : Nat} (hk : kind ≠ 0) (hc : (d.ch n).cal = 0) (ha : d.calAllowed n = false) :
    d.calStart n kind = (d.updCh n (fun x => { x with calKind := kind, calResult := 5 })).calRec n 0 5 kind 0 0 :=
  (if_neg (by simp [hk, hc])).trans (if_neg (by simp [ha]))

/-- The task of a calibration that takes its place asks for the duration of its kind. -/
theorem Dev.calQueue_eq (d : Dev) (n kind : Nat) :
    d.calQueue n kind =
      (let e := d.updCh n (fun x => { x with cal := kind, calKind := kind, calResult := 1 })
       if e.refBusy (n / 32) then e.setStove { e.stove with calQ := e.stove.calQ ++ [n] }
       else e.request 3 n 600 [(n / 32, 600000000)] (some (calDur kind))) := by
  simp only [Dev.calQueue, Dev.calAsk, Dev.ch_updCh]

/-- A path's write of CAL_CMD, by what it makes of the present device. -/
theorem State.write_cal {s : State} {p : Path} (h : s.Via p) (n : Chan) {v : Word} {g : Dev → Dev}
    (hg : s.dev.calStart n.val (fld v 1 0) = g s.dev) :
    (Host.Outcome.next (s.write p (chanPage n.val + 0xA8) v) : Host.Outcome State Fault Refusal) = .next (s.act g) :=
  State.write_next h (by have := n.isLt; unfold chanPage; omega) (by rw [Dev.regWrite_cal, hg])

/-- Settles O39: CAL_CMD starts the kind that its code names, or refuses it, by the channel's state. That RESULT reads 1 while a
calibration only waits is notes/assumptions/82, and the order of those that wait notes/assumptions/94. -/
theorem calibrationCommands : Obligations.CalibrationCommands := by
  unfold Obligations.CalibrationCommands
  intro s p n h hc
  have starts {k : Nat} (hk : k ≠ 0) (ha : s.dev.calAllowed n.val = true) :=
    (Dev.calStart_allowed hk hc ha).trans (s.dev.calQueue_eq n.val k)
  have refuses {k : Nat} (hk : k ≠ 0) (ha : s.dev.calAllowed n.val = false) := Dev.calStart_refused hk hc ha
  refine ⟨fun ha => ⟨?_, ?_, ?_⟩, fun ha => ⟨?_, ?_, ?_⟩, rfl, rfl, rfl⟩
  iterate 3 exact State.write_cal h n (starts (by decide) ha)
  iterate 3 exact State.write_cal h n (refuses (by decide) ha)

end Sys2Proof.Machine
end

section
/-! PROOFS. The machine at reset, and the statement ResetValues. -/

namespace Sys2Proof.Machine

/-- CLAMP of every channel reads its reset value (R149). -/
theorem rd_reset_clamp {n : Nat} (h : n < 512) : State.reset.dev.rd (0x200048 + n * 0x1000) = 0x0CCDFFFF := by
  have ho : (0x200048 + n * 0x1000) % 0x1000 = 0x48 := by omega
  have hf : fieldsAt (0x200048 + n * 0x1000) = Regs.chan 0x48 := by
    unfold fieldsAt
    simp only [ho]
    rw [if_neg (by omega), if_neg (by omega), if_neg (by omega), if_pos (by omega)]
  have hr : resetOf (0x200048 + n * 0x1000) = Field.resetWord (Regs.chan 0x48) := by
    unfold resetOf isStaged
    rw [if_pos (by omega), if_neg (by simp [ho]), hf]
  calc State.reset.dev.rd (0x200048 + n * 0x1000) = resetOf (0x200048 + n * 0x1000) := rfl
    _ = Field.resetWord (Regs.chan 0x48) := hr
    _ = 0x0CCDFFFF := by decide

/-- Settles O6: at reset nothing is listed, so that every part holds its default and every register its reset value. The supply
(VAON present, the rails off) and the parts without a value in the spec are notes/assumptions/3. -/
theorem resetValues : Obligations.ResetValues := by
  unfold Obligations.ResetValues
  refine ⟨rfl, rfl, rfl, rfl, rfl, rfl, rfl, rfl, fun _ => rfl, fun _ => rfl, fun _ => ⟨rfl, rfl, rfl⟩,
    fun _ hn => rd_reset_clamp hn, by decide, by decide, by decide⟩

end Sys2Proof.Machine
end

section
/-! PROOFS. The inputs' faults, the phase's stall, extrapolation and marks, and the commands of the COMPASS page: what each makes
of the device, and the statement PhaseCommands assembled from them. -/

namespace Sys2Proof.Machine

/-! ### Compass through its records and faults -/

@[simp] theorem Dev.cps_cpsRec (d : Dev) (ty src : Nat) (t : Time) (a b c : Word) : (d.cpsRec ty src t a b c).cps = d.cps :=
  (congrArg Dev.cps (Dev.rest_record ..) :)

@[simp] theorem Dev.cps_fault (d : Dev) (page b : Nat) : (d.fault page b).cps = d.cps :=
  (congrArg Dev.cps (d.rest_fault page b) :)

/-! ### Stuck inputs (R160, R162) -/

/-- Z has been active for more than 4 counts. -/
theorem Dev.encZStuck_long {d : Dev} {x : Nat} (hen : d.encEn x = true) (hz : (d.enc x).zStuck = false)
    (ha : (d.enc x).z = true) (hr : 4 < (d.enc x).zRun) :
    d.encZStuck x = (d.setEnc x { d.enc x with zStuck := true, zRun := 0 }).inputFault x 4 5 d.now :=
  if_pos (by simp [hen, hz, ha, hr])

theorem Dev.encZStuck_short {d : Dev} {x : Nat} (h : (d.enc x).z = false ∨ (d.enc x).zRun ≤ 4) : d.encZStuck x = d :=
  if_neg (by rcases h with h | h <;> simp [h])

theorem Dev.plsStuck_free {d : Dev} (hen : d.rb 0x40A0 0 = true) (hp : d.cps.pulse.stuck = false) :
    d.plsStuck = (d.setCps { d.cps with pulse := { d.cps.pulse with stuck := true } }).inputFault 3 5 6 d.now :=
  if_pos (by simp [hen, hp])

/-! ### Stall and extrapolation (R167) -/

theorem Dev.stallEntry_undue {d : Dev} (h : d.stallDue = false) : d.stallEntry = d :=
  if_pos (by simp [h])

/-- A stall that is due begins in the present cycle; its fault and its record leave Compass alone. -/
theorem Dev.stallEntry_due {d : Dev} (hs : d.cps.stalled = false) (h0 : d.phSrc ≠ 0) (h6 : d.phSrc ≠ 6)
    (hd : d.stallDue = true) : d.stallEntry.cps.stalled = true ∧ d.stallEntry.cps.stallT0 = d.now := by
  unfold Dev.stallEntry
  rw [if_neg (by simp [hs, h0, h6, hd])]
  dsimp only
  rw [Dev.cps_cpsRec, Dev.cps_fault]
  exact ⟨rfl, rfl⟩

/-- The extrapolation of the newest knot, before and after EXTRAP_T. -/
theorem Dev.extrapEnd_eq {d : Dev} {h : Knot} {rest : List Knot} {num : Int} {den ns : Nat} (hh : d.cps.hist = h :: rest)
    (hm : h.mv = .extrap num den ns) :
    d.extrapEnd =
      if (d.now - h.t).toNat + h.since < ns then d
      else d.knot { h with t := d.now, pos := phMove h.pos (Int.tdiv (num * ns) den), cont := true, mv := .hold, since := 0 } := by
  unfold Dev.extrapEnd
  simp only [hh, hm]

/-! ### Commands of the page (R180) -/

/-- Every counter that CMD.OP = 1 names reads 0 after it. -/
theorem Dev.rd_clearErrors (d : Dev) {a : Nat} (h : a ∈ [0x404C, 0x406C, 0x4088, 0x40A4, 0x3078, 0x307C]) :
    d.clearErrors.rd a = 0 := by
  simp only [Dev.clearErrors, forEach, List.foldl]
  simp only [List.mem_cons, List.not_mem_nil, or_false] at h
  rcases h with rfl | rfl | rfl | rfl | rfl | rfl <;> simp [Dev.rd_wr_ne]

/-- A read of PH_FRAC latches the turns and LTIME of its cycle for the path. -/
theorem Dev.regRead_phFrac {d : Dev} (h : d.pwr.st ≠ .starting) (p : Path) :
    d.regRead p 0x3060 = (d.setPath p { d.path p with phTurn := some d.phNow.2, phLt := d.now }, d.phNow.1) := by
  unfold Dev.regRead
  simp [Dev.readsReset_started h, Dev.view_phFrac]

/-! ### The statement -/

/-- Settles O40: each event and command by what its operation makes of the present device. The order of the consumers in a mark's
fire cycle is notes/assumptions/61, that a line's fault counts without EN notes/assumptions/102, and that an event whose
condition does not hold changes nothing notes/assumptions/4. -/
theorem phaseCommands : Obligations.PhaseCommands := by
  unfold Obligations.PhaseCommands
  refine ⟨fun s x a b z l t h => ⟨fun hen => ⟨State.live_next h rfl, fun _ _ _ => State.live_next h rfl,
      fun hz => ⟨fun ha hr => State.live_next h (Dev.encZStuck_long hen hz ha hr),
        fun hq => State.live_next h (Dev.encZStuck_short hq)⟩⟩,
    State.live_next h rfl, State.live_next h rfl, fun _ => State.live_next h rfl,
    fun hen => ⟨State.live_next h rfl, fun hp => State.live_next h (Dev.plsStuck_free hen hp)⟩⟩,
    fun s p m => ⟨fun h => ⟨fun hs h0 h6 => ⟨fun hd => ⟨State.live_next h rfl, Dev.stallEntry_due hs h0 h6 hd⟩,
        fun hd => State.live_next h (Dev.stallEntry_undue hd)⟩,
      fun k rest num den ns hk hm => ⟨fun hns => ?_, fun hns => ?_⟩,
      fun pos k rev hm => State.live_next h (if_pos hm), fun pos k rev hm => State.live_next h (if_neg hm)⟩,
    fun h => ⟨?_, fun a ha => Dev.rd_clearErrors _ ha, fun _ => ?_, fun hst => ?_⟩⟩⟩
  · exact State.live_next h ((Dev.extrapEnd_eq hk hm).trans (if_neg (Nat.not_lt.mpr hns)))
  · exact State.live_next h ((Dev.extrapEnd_eq hk hm).trans (if_pos hns))
  · exact State.write_next h (by decide) (Dev.regWrite_compassCmd s.dev p 1)
  · exact State.write_next h (by decide) (Dev.regWrite_compassCmd s.dev p 2)
  · refine (congrArg Host.Outcome.next (State.read_of h (by decide))).trans (congrArg _ (State.act_congr ?_))
    simp only [Dev.regRead_phFrac hst, Dev.path_setPath, Dev.setPath_setPath]

end Sys2Proof.Machine
end

section
/-! PROOFS. The encoder inputs: what the history, records and faults of Compass leave of them, what each kind of sample makes of
an encoder, and the statement QuadratureSteps. -/

namespace Sys2Proof.Machine

/-! ### Encoders through what leaves them alone -/

@[simp] theorem Dev.enc_setEnc (d : Dev) (x : Nat) (e : Enc) : (d.setEnc x e).enc x = e := by
  by_cases h : x = 0 <;> simp [Dev.enc, Dev.setEnc, h]

theorem Dev.enc_of_cps {d e : Dev} (h : d.cps = e.cps) (x : Nat) : d.enc x = e.enc x := by
  simp only [Dev.enc, h]

@[simp] theorem Dev.enc_count (d : Dev) (a hi lo k x : Nat) : (d.count a hi lo k).enc x = d.enc x := rfl

@[simp] theorem Dev.enc_knot (d : Dev) (k : Knot) (x : Nat) : (d.knot k).enc x = d.enc x := rfl

@[simp] theorem Dev.enc_ents (d : Dev) (f : List HistEnt → List HistEnt) (x : Nat) : (d.ents f).enc x = d.enc x := rfl

@[simp] theorem Dev.enc_cpsRec (d : Dev) (ty src : Nat) (t : Time) (a b c : Word) (x : Nat) :
    (d.cpsRec ty src t a b c).enc x = d.enc x :=
  Dev.enc_of_cps (Dev.cps_cpsRec ..) x

@[simp] theorem Dev.enc_inputRec (d : Dev) (i cause : Nat) (t : Time) (x : Nat) : (d.inputRec i cause t).enc x = d.enc x := by
  unfold Dev.inputRec
  split
  · rw [Dev.enc_cpsRec]; rfl
  · rfl

@[simp] theorem Dev.enc_inputFault (d : Dev) (i cause b : Nat) (t : Time) (x : Nat) :
    (d.inputFault i cause b t).enc x = d.enc x :=
  (Dev.enc_inputRec ..).trans (Dev.enc_of_cps (Dev.cps_fault ..) x)

@[simp] theorem Dev.enc_idxNote (d : Dev) (t : Time) (x : Nat) : (d.idxNote t).enc x = d.enc x := by
  unfold Dev.idxNote
  dsimp only
  split
  · split <;> rfl
  · split <;> rfl

@[simp] theorem Dev.enc_jump (d : Dev) (pos : BitVec 48) (mv : Travel) (since x : Nat) :
    (d.jump pos mv since).enc x = d.enc x :=
  Dev.enc_idxNote ((d.wr 0x307C (d.rd 0x307C + 1)).knot _) _ x

/-- An edge of the selected source moves the tracked phase, and no input. -/
@[simp] theorem Dev.enc_srcEdge (d : Dev) (src : Nat) (t : Time) (rev : Bool) (x : Nat) :
    (d.srcEdge src t rev).enc x = d.enc x := by
  unfold Dev.srcEdge
  split
  · rfl
  · extract_lets pos c t' was diff ahead jumps c' accepted moved
    have hmoved : moved.enc x = d.enc x := by
      unfold moved
      split
      · exact Dev.enc_jump ..
      · rfl
    split
    · rw [Dev.enc_cpsRec, hmoved]
    · exact hmoved

/-- An over-rate count is a fault that leaves the encoder alone (R158). -/
theorem Dev.enc_overRate (d : Dev) (fast : Bool) (a i : Nat) (t : Time) (x : Nat) :
    (if fast = true then (d.count a 15 0).inputFault i 1 2 t else d).enc x = d.enc x := by
  cases fast
  · rfl
  · exact Dev.enc_inputFault ..

/-! ### Samples of a quadrature pair (R157, R158) -/

/-- A and B both hold a valid differential, and so does Z (R158). -/
def Enc.sound (e : Enc) : Prop := e.lineA = false ∧ e.lineB = false ∧ e.lineZ = false

/-- An encoder with a bad line counts nothing, whatever the sample holds. -/
theorem Dev.encEdge_unsound {d : Dev} {x : Nat} (h : (d.enc x).lineA = true ∨ (d.enc x).lineB = true ∨ (d.enc x).lineZ = true)
    (a b z : Bool) (t : Time) :
    ((d.encEdge x a b z t).enc x).count = (d.enc x).count ∧ ((d.encEdge x a b z t).enc x).turns = (d.enc x).turns := by
  have hbad : ((d.enc x).lineA || (d.enc x).lineB || (d.enc x).lineZ) = true := by simpa [or_assoc] using h
  unfold Dev.encEdge
  extract_lets e a' b' dA dB z' e1
  split
  · rw [Dev.enc_setEnc]; exact ⟨rfl, rfl⟩
  · split
    · rw [Dev.enc_inputFault, Dev.enc_count, Dev.enc_idxNote, Dev.enc_setEnc]; exact ⟨rfl, rfl⟩
    · -- past the two branches `hbad` has decided the test of the lines
      rw [Dev.enc_setEnc]; exact ⟨rfl, rfl⟩

/-- A sample in which neither level changes. -/
theorem Dev.encEdge_same {d : Dev} {x : Nat} {a b : Bool} (hs : (d.enc x).sound) (ha : a = (d.enc x).a) (hb : b = (d.enc x).b)
    (z : Bool) (t : Time) : d.encEdge x a b z t = d.setEnc x { d.enc x with a := a, b := b, z := z } := by
  obtain ⟨hA, hB, hZ⟩ := hs
  simp [Dev.encEdge, hA, hB, hZ, ha, hb]

/-- A sample in which both levels change is a quadrature error. -/
theorem Dev.encEdge_both {d : Dev} {x : Nat} {a b : Bool} (hen : d.encEn x = true) (hs : (d.enc x).sound) (ha : a ≠ (d.enc x).a)
    (hb : b ≠ (d.enc x).b) (z : Bool) (t : Time) :
    d.encEdge x a b z t =
      (((d.setEnc x { d.enc x with a := a, b := b, z := z, idx := false }).idxNote t).count (encAt x + 0xC) 31 16).inputFault
        x 2 3 t := by
  obtain ⟨hA, hB, hZ⟩ := hs
  simp [Dev.encEdge, hen, hA, hB, hZ, ha, hb]

/-- The direction of a count (R157): the level of the line that did not change sets it, and INVERT reverses it. -/
def Dev.encFwd (d : Dev) (x : Nat) (a b : Bool) : Bool :=
  (if a = (d.enc x).a then a == b else a != b) != d.rb (encAt x) 8

/-- The count is at the end of its turn in its direction. -/
def Dev.encWraps (d : Dev) (x : Nat) (fwd : Bool) : Bool :=
  if fwd then decide (d.encCpt x ≤ (d.enc x).count + 1) else (d.enc x).count == 0

/-- A sample in which one level changes is a count, in its direction. -/
theorem Dev.encEdge_counts {d : Dev} {x : Nat} {a b : Bool} (hen : d.encEn x = true) (hs : (d.enc x).sound)
    (h : (a ≠ (d.enc x).a ∧ b = (d.enc x).b) ∨ (a = (d.enc x).a ∧ b ≠ (d.enc x).b)) (z : Bool) (t : Time) :
    let e := d.enc x
    let after := (d.encEdge x a b z t).enc x
    let fwd := d.encFwd x a b
    let wraps := d.encWraps x fwd
    after.count = (if fwd then (if wraps then 0 else e.count + 1) else (if wraps then d.encCpt x - 1 else e.count - 1)) ∧
    after.turns = (if wraps then (if fwd then e.turns + 1 else e.turns - 1) else e.turns) ∧ after.rev = !fwd := by
  obtain ⟨hA, hB, hZ⟩ := hs
  have hdir : (if (a != (d.enc x).a) = true then a != b else a == b) = if a = (d.enc x).a then a == b else a != b := by
    by_cases ha : a = (d.enc x).a <;> simp [ha]
  have hchange : (!d.encEn x || (!(a != (d.enc x).a) && !(b != (d.enc x).b))) = false := by
    rcases h with ⟨ha, hb⟩ | ⟨ha, hb⟩ <;> simp [hen, ha, hb]
  have hone : ((a != (d.enc x).a) && (b != (d.enc x).b)) = false := by
    rcases h with ⟨ha, hb⟩ | ⟨ha, hb⟩ <;> simp [ha, hb]
  unfold Dev.encEdge
  simp only [hA, hB, hZ, hdir, hchange, hone, Bool.or_self, Bool.false_eq_true, if_false]
  rw [Dev.enc_overRate, Dev.enc_srcEdge, Dev.enc_setEnc]
  exact ⟨rfl, rfl, rfl⟩

/-! ### The statement -/

/-- Settles O41: each sample by the lemma of its kind. Which line leads in a forward count is the model's choice
(notes/assumptions/102). -/
theorem quadratureSteps : Obligations.QuadratureSteps := by
  unfold Obligations.QuadratureSteps
  intro d x a b z t hen
  refine ⟨fun hbad => Dev.encEdge_unsound hbad a b z t, fun hA hB hZ => ?_⟩
  have hs : (d.enc x.val).sound := ⟨hA, hB, hZ⟩
  refine ⟨fun ha hb => ?both, fun ha hb => ?same, fun h => ?one⟩
  case both => simp [Dev.encEdge_both hen hs ha hb z t]
  case same => simp [Dev.encEdge_same hs ha hb z t]
  case one =>
    obtain ⟨hc, ht, hr⟩ := Dev.encEdge_counts hen hs h z t
    refine ⟨fun hf hw => ?up, fun hf hw => ?upWraps, fun hf hw => ?down, fun hf hw => ?downWraps, hr⟩
    all_goals
      change d.encFwd x.val a b = _ at hf
      rw [hc, ht, hf]
    case up => simp [Dev.encWraps, Nat.not_le.mpr hw]
    case upWraps => simp [Dev.encWraps, hw]
    case down => simp [Dev.encWraps, Nat.ne_of_gt hw]
    case downWraps => simp [Dev.encWraps, hw]

end Sys2Proof.Machine
end

section
/-! PROOFS. Phase marks: what their registers say outside a pitch's cycle, the numbers of an interval that equal one number modulo
another, the phases that a cycle's travel crosses, and the statement MarkTest. -/

namespace Sys2Proof.Machine

/-! ### A mark's registers (R169, R182) -/

/-- Outside the cycle of a pitch a mark is tested by its registers as they stand. -/
theorem Dev.markRd_of {d : Dev} (h : d.cps.markWas = []) (a : Nat) : d.markRd a = d.rd a := by
  simp [Dev.markRd, h, SMap.find?]

/-- MODE 1: a fraction in every turn. -/
theorem Dev.markGrid_turnly {d : Dev} {m : Nat} (h : d.cps.markWas = []) (hm : d.rf (markAt m + 8) 2 0 = 1) :
    d.markGrid m = some ((d.rd (markAt m)).toNat, 2 ^ 32) := by
  simp only [Dev.markGrid, Dev.markRd_of h, show fld (d.rd (markAt m + 8)) 2 0 = 1 from hm]

/-- MODE 2: one position, until DONE. -/
theorem Dev.markGrid_once {d : Dev} {m : Nat} (h : d.cps.markWas = []) (hm : d.rf (markAt m + 8) 2 0 = 2) :
    d.markGrid m =
      if d.rb (markAt m + 0xC) 0 then none
      else some (d.rf (markAt m + 8) 31 16 * 2 ^ 32 + (d.rd (markAt m)).toNat, 2 ^ 48) := by
  simp only [Dev.markGrid, Dev.markRd_of h, show fld (d.rd (markAt m + 8)) 2 0 = 2 from hm]
  rfl

/-- MODE 3: a grid, which needs a step. -/
theorem Dev.markGrid_stepped {d : Dev} {m : Nat} (h : d.cps.markWas = []) (hm : d.rf (markAt m + 8) 2 0 = 3) :
    d.markGrid m =
      if (d.rd (markAt m + 4)).toNat = 0 then none
      else some ((d.rd (markAt m)).toNat % (d.rd (markAt m + 4)).toNat, (d.rd (markAt m + 4)).toNat) := by
  simp only [Dev.markGrid, Dev.markRd_of h, show fld (d.rd (markAt m + 8)) 2 0 = 3 from hm]

/-- MODE 0 disables the mark. -/
theorem Dev.mark_disabled {d : Dev} {m : Nat} (h : d.cps.markWas = []) (hm : d.rf (markAt m + 8) 2 0 = 0) :
    d.markGrid m = none ∧ d.markOn m = false ∧ d.markHit m = none := by
  have hg : d.markGrid m = none := by
    simp only [Dev.markGrid, Dev.markRd_of h, show fld (d.rd (markAt m + 8)) 2 0 = 0 from hm]
  exact ⟨hg, by simp [Dev.markOn, hm], by simp only [Dev.markHit, hg]⟩

theorem Dev.markDir_forward {d : Dev} {m : Nat} (h : d.cps.markWas = []) (hd : d.rf (markAt m + 8) 5 4 = 0) (rev : Bool) :
    d.markDir m rev = !rev := by
  simp only [Dev.markDir, Dev.markRd_of h, show fld (d.rd (markAt m + 8)) 5 4 = 0 from hd]

theorem Dev.markDir_reverse {d : Dev} {m : Nat} (h : d.cps.markWas = []) (hd : d.rf (markAt m + 8) 5 4 = 1) (rev : Bool) :
    d.markDir m rev = rev := by
  simp only [Dev.markDir, Dev.markRd_of h, show fld (d.rd (markAt m + 8)) 5 4 = 1 from hd]

theorem Dev.markDir_both {d : Dev} {m : Nat} (h : d.cps.markWas = []) (hd : d.rf (markAt m + 8) 5 4 = 2) (rev : Bool) :
    d.markDir m rev = true := by
  simp only [Dev.markDir, Dev.markRd_of h, show fld (d.rd (markAt m + 8)) 5 4 = 2 from hd]

/-- MK_STAT with one firing more. -/
theorem fld_markStat (n : Nat) {b : Nat} (hb : b < 2 ^ 8) :
    fld (w32 ((n + 1) % 2 ^ 24 * 2 ^ 8 + b)) 31 8 = (n % 2 ^ 24 + 1) % 2 ^ 24 := by
  simp only [fld, w32, BitVec.toNat_ofNat, Nat.shiftRight_eq_div_pow]
  omega

/-- A mark that fires and writes no record counts. -/
theorem Dev.markFired_count {d : Dev} {m : Nat} (h : d.cps.markWas = []) (hr : d.rb (markAt m + 8) 8 = false) (pos : BitVec 48)
    (k : Nat) (rev : Bool) :
    (d.markFired m pos k rev).rf (markAt m + 0xC) 31 8 = (d.rf (markAt m + 0xC) 31 8 + 1) % 2 ^ 24 := by
  have hrec (w : Word) : bit ((d.wr (markAt m + 0xC) w).markRd (markAt m + 8)) 8 = false := by
    rw [Dev.markRd_of (d := d.wr _ w) h, Dev.rd_wr_ne d (by omega)]
    exact hr
  unfold Dev.markFired
  dsimp only
  rw [if_neg (by simp [hrec]), Dev.rf, Dev.rd_wr, fld_markStat _ (lt_of_le_of_lt (Bool.toNat_le _) (by decide))]
  simp only [Dev.rf, fld, Nat.shiftRight_eq_div_pow]

/-! ### Positions in an interval -/

/-- How many numbers from `lo` up to below `n` equal `r` modulo `st`: each `n` adds one where it is such a number. -/
theorem length_filter_range_mod {st : Nat} (hst : 0 < st) (r : Nat) {lo n : Nat} (h : lo ≤ n) :
    ((List.range n).filter (fun q => decide (lo ≤ q) && q % st == r % st)).length =
      (n + st - 1 - r % st) / st - (lo + st - 1 - r % st) / st := by
  have hr := Nat.mod_lt r hst
  induction n, h using Nat.le_induction with
  | base =>
    rw [Nat.sub_self, List.length_eq_zero_iff, List.filter_eq_nil_iff]
    intro q hq
    simp [Nat.not_le.mpr (List.mem_range.mp hq)]
  | succ n hn ih =>
    have hmono : (lo + st - 1 - r % st) / st ≤ (n + st - 1 - r % st) / st := Nat.div_le_div_right (by omega)
    have hstep : (n + 1 + st - 1 - r % st) / st = (n + st - 1 - r % st) / st + if n % st = r % st then 1 else 0 := by
      have hdvd : st ∣ n + st - 1 - r % st + 1 ↔ n % st = r % st := by
        rw [show n + st - 1 - r % st + 1 = n + st - r % st by omega, ← Nat.modEq_iff_dvd' (by omega)]
        show r % st % st = (n + st) % st ↔ _
        rw [Nat.mod_mod, Nat.add_mod_right, eq_comm]
      rw [show n + 1 + st - 1 - r % st = n + st - 1 - r % st + 1 by omega, Nat.succ_div]
      simp only [hdvd]
    rw [List.range_succ, List.filter_append, List.length_append, ih, hstep]
    by_cases hq : n % st = r % st
    · simp [hn, hq, Nat.sub_add_comm hmono]
    · simp [hq]

theorem gridCount_eq_length {r st lo hi : Nat} (hst : 0 < st) (h : lo ≤ hi) :
    gridCount r st (lo, hi) =
      ((List.range (hi + 1)).filter (fun q => decide (lo ≤ q) && q % st == r % st)).length := by
  have hlast : hi + 1 + st - 1 = hi + st := by omega
  rw [length_filter_range_mod hst r (Nat.le_succ_of_le h), hlast]
  rfl

/-- An interval in which positions are counted holds one. -/
theorem exists_of_gridCount {r st lo hi : Nat} (hst : 0 < st) (h : lo ≤ hi) (hc : gridCount r st (lo, hi) ≠ 0) :
    ∃ z, lo ≤ z ∧ z ≤ hi ∧ z % st = r % st := by
  rw [gridCount_eq_length hst h, Ne, List.length_eq_zero_iff] at hc
  obtain ⟨z, hz⟩ := List.exists_mem_of_ne_nil _ hc
  simp only [List.mem_filter, List.mem_range, Bool.and_eq_true, decide_eq_true_eq, beq_iff_eq] at hz
  obtain ⟨hzhi, hlo, hz⟩ := hz
  exact ⟨z, hlo, Nat.lt_succ_iff.mp hzhi, hz⟩

/-- The way from a number up to a later one, by their residues alone. -/
theorem mod_sub_mod {st : Nat} (hst : 0 < st) {p q : Nat} (h : p ≤ q) : (q % st + st - p % st) % st = (q - p) % st := by
  have hp := Nat.mod_lt p hst
  have hsum : q % st + st - p % st + p ≡ q - p + p [MOD st] :=
    calc q % st + st - p % st + p ≡ q % st + st - p % st + p % st [MOD st] := (Nat.mod_modEq p st).symm.add_left _
      _ = q % st + st := by omega
      _ ≡ q + 0 [MOD st] := (Nat.mod_modEq q st).add (Nat.modEq_zero_iff_dvd.mpr dvd_rfl)
      _ = q - p + p := by omega
  exact hsum.add_right_cancel' p

/-- Downwards, a position is no further from the end than any other. -/
theorem gridFirst_rev (lo : Nat) {r st hi z : Nat} (hst : 0 < st) (hhi : z ≤ hi) (hz : z % st = r % st) :
    let q := gridFirst r st true (lo, hi)
    z ≤ q ∧ q ≤ hi ∧ q % st = r % st := by
  have hway : (hi % st + st - r % st) % st = (hi - z) % st := by rw [← hz, mod_sub_mod hst hhi]
  have hq : gridFirst r st true (lo, hi) = z + st * ((hi - z) / st) := by
    have hdm := Nat.div_add_mod (hi - z) st
    simp only [gridFirst, if_true, hway]
    omega
  dsimp only
  have hle : st * ((hi - z) / st) ≤ hi - z := Nat.mul_div_le ..
  rw [hq, Nat.add_mul_mod_self_left]
  exact ⟨by omega, by omega, hz⟩

/-- Upwards, a position is no further from the start than any other. -/
theorem gridFirst_fwd (hi : Nat) {r st lo z : Nat} (hst : 0 < st) (hlo : lo ≤ z) (hz : z % st = r % st) :
    let q := gridFirst r st false (lo, hi)
    lo ≤ q ∧ q ≤ z ∧ q % st = r % st := by
  have hway : (r % st + st - lo % st) % st = (z - lo) % st := by rw [← hz, mod_sub_mod hst hlo]
  have hq : gridFirst r st false (lo, hi) + st * ((z - lo) / st) = z := by
    have hdm := Nat.div_add_mod (z - lo) st
    simp only [gridFirst, Bool.false_eq_true, if_false, hway]
    omega
  dsimp only
  have hmod : gridFirst r st false (lo, hi) % st = z % st := by rw [← hq, Nat.add_mul_mod_self_left]
  exact ⟨Nat.le_add_right .., by omega, hmod.trans hz⟩

/-- In the direction of travel no position comes before the one that gridFirst names. -/
theorem gridFirst_first {r st lo hi : Nat} (hst : 0 < st) (h : lo ≤ hi) (hc : gridCount r st (lo, hi) ≠ 0) (rev : Bool) :
    let q := gridFirst r st rev (lo, hi)
    lo ≤ q ∧ q ≤ hi ∧ q % st = r % st ∧
      ∀ z, lo ≤ z → z ≤ hi → z % st = r % st → if rev then z ≤ q else q ≤ z := by
  obtain ⟨z, hlo, hhi, hz⟩ := exists_of_gridCount hst h hc
  cases rev with
  | true =>
    obtain ⟨hzq, hqhi, hq⟩ := gridFirst_rev lo hst hhi hz
    exact ⟨hlo.trans hzq, hqhi, hq, fun y _ hyhi hy => (gridFirst_rev lo hst hyhi hy).1⟩
  | false =>
    obtain ⟨hloq, hqz, hq⟩ := gridFirst_fwd hi hst hlo hz
    exact ⟨hloq, hqz.trans hhi, hq, fun y hylo _ hy => (gridFirst_fwd hi hst hylo hy).2.1⟩

/-! ### The travel of a cycle -/

/-- Forward travel crosses what lies beyond its start up to its end, which may lie behind the wrap. -/
theorem mem_crossed_fwd {a k q : Nat} (hq : q < 2 ^ 48) :
    (∃ x ∈ crossed a k, x.1 ≤ q ∧ q ≤ x.2) ↔ (a < q ∧ q ≤ a + k) ∨ (2 ^ 48 ≤ a + k ∧ (a < q ∨ q ≤ a + k - 2 ^ 48)) := by
  have hfwd : (0 : Int) ≤ k := Int.natCast_nonneg k
  unfold crossed
  simp only [Int.natAbs_natCast, hfwd, if_true, decide_true, Bool.true_or, Bool.and_true, List.mem_filter]
  split
  all_goals
    simp only [List.mem_cons, List.not_mem_nil, or_false, and_assoc, or_and_right, exists_or, exists_eq_left,
      decide_eq_true_eq]
    omega

/-- Reverse travel crosses what lies before its start down to its end, which may lie behind the wrap. -/
theorem mem_crossed_rev {a k q : Nat} (hk : 0 < k) (hk' : k < 2 ^ 47) (hq : q < 2 ^ 48) :
    (∃ x ∈ crossed a (-k), x.1 ≤ q ∧ q ≤ x.2) ↔ (q < a ∧ a ≤ q + k) ∨ (a < k ∧ (q < a ∨ a + 2 ^ 48 - k ≤ q)) := by
  have hrev : ¬(0 : Int) ≤ -k := by omega
  unfold crossed
  simp only [Int.natAbs_neg, Int.natAbs_natCast, hrev, if_false, decide_false, Bool.false_or, List.mem_filter]
  split
  all_goals
    simp only [List.mem_cons, List.not_mem_nil, or_false, and_assoc, or_and_right, exists_or, exists_eq_left]
    simp only [Bool.and_eq_true, Bool.or_eq_true, decide_eq_true_eq, bne_iff_ne]
    omega

/-- The numbers up to `k` steps forward of `a`, modulo 2⁴⁸. -/
theorem exists_step_fwd {a k q : Nat} (ha : a < 2 ^ 48) (hk : k < 2 ^ 47) (hq : q < 2 ^ 48) :
    (a < q ∧ q ≤ a + k) ∨ (2 ^ 48 ≤ a + k ∧ (a < q ∨ q ≤ a + k - 2 ^ 48)) ↔
      ∃ i, 0 < i ∧ i ≤ k ∧ q = (a + i) % 2 ^ 48 := by
  constructor
  · intro h
    refine ⟨if a < q then q - a else q + 2 ^ 48 - a, ?_⟩
    split <;> omega
  · rintro ⟨i, hi, hik, rfl⟩
    omega

/-- The numbers up to `k` steps back from `a`, modulo 2⁴⁸. -/
theorem exists_step_rev {a k q : Nat} (ha : a < 2 ^ 48) (hk : k < 2 ^ 47) (hq : q < 2 ^ 48) :
    (q < a ∧ a ≤ q + k) ∨ (a < k ∧ (q < a ∨ a + 2 ^ 48 - k ≤ q)) ↔
      ∃ i, 0 < i ∧ i ≤ k ∧ q = (a + 2 ^ 48 - i) % 2 ^ 48 := by
  constructor
  · intro h
    refine ⟨if q < a then a - q else a + 2 ^ 48 - q, ?_⟩
    split <;> omega
  · rintro ⟨i, hi, hik, rfl⟩
    omega

/-! ### The statement -/

/-- Settles O42: a mark's registers by MODE and DIR, its interval by residues, and the cycle's travel by its two ends. -/
theorem markTest : Obligations.MarkTest := by
  unfold Obligations.MarkTest
  refine ⟨fun d m h => ⟨Dev.markGrid_turnly h, Dev.markGrid_once h, Dev.markGrid_stepped h, Dev.mark_disabled h,
      fun h0 => ⟨Dev.markDir_forward h h0 false, Dev.markDir_forward h h0 true⟩,
      fun h1 => ⟨Dev.markDir_reverse h h1 false, Dev.markDir_reverse h h1 true⟩,
      fun h2 => ⟨Dev.markDir_both h h2 false, Dev.markDir_both h h2 true⟩,
      Dev.markFired_count h⟩,
    fun r st lo hi hst h => ⟨gridCount_eq_length hst h, gridFirst_first hst h⟩,
    fun a k q ha hk hk' hq => ⟨(mem_crossed_fwd hq).trans (exists_step_fwd ha hk' hq),
      (mem_crossed_rev hk hk' hq).trans (exists_step_rev ha hk' hq)⟩⟩

end Sys2Proof.Machine
end

section
/-! PROOFS. Weir runs: what a trigger, an abort, chip 0, a frame, the drive's end and the commit make of the device, one lemma for
each branch of an operation, and the statement WeirRun assembled from them. -/

namespace Sys2Proof.Machine

/-! ### A trigger (R188) -/

theorem Dev.weirTrigger_busy {d : Dev} (h : d.weirBusy = true) (pos : Nat) : d.weirTrigger pos = d.count 0xA08C 15 0 := if_pos h

/-- The channels that are in RUN in WEIR mode (R184). -/
def Dev.weirInRun (d : Dev) : List Nat := (List.range 512).filter d.weirIn

/-- The run that a trigger begins, with each of these channels; what the field exchange knew of an earlier run is gone. -/
def Dev.weirBegun (d : Dev) (pos : Nat) : Dev :=
  let cfg := d.weirCfg pos
  ({ d with vl := { d.vl with fstart := none, wout := [], wready := [] } } : Dev).setWeir { d.weir with
    rstate := 1, run := some { cfg := cfg, parts := d.weirInRun.map (fun n => (n, d.ratio cfg.drive n)) }, frames := 0, admitted := false }

/-- With a valid bank and a source resistance for every channel in RUN in WEIR mode, an idle engine begins the run and asks Stove
for the power of all of them over the drive time. -/
theorem Dev.weirTrigger_asks {d : Dev} {pos : Nat} (hb : d.weirBusy = false) (hok : d.bankOk (d.weirCfg pos) = true)
    (hne : d.weirInRun ≠ []) (hr : ∀ n ∈ d.weirInRun, d.ratio (d.weirCfg pos).drive n ≠ 0) :
    ∃ zones, d.weirTrigger pos = (d.weirBegun pos).request 2 0xAFFF
      (cdiv ((d.weirCfg pos).nwEach * d.weirInRun.length) 1000000) zones (some ((d.weirCfg pos).driveUs * 1000)) := by
  have hall : d.weirInRun.filter (fun n => d.ratio (d.weirCfg pos).drive n != 0) = d.weirInRun :=
    List.filter_eq_self.mpr (fun n hn => by simpa using hr n hn)
  have hlacks : d.weirInRun.filter (fun n => !(d.ratio (d.weirCfg pos).drive n != 0)) = [] :=
    List.filter_eq_nil_iff.mpr (fun n hn => by simpa using hr n hn)
  have hparts : d.weirInRun.map (fun n => (n, d.ratio (d.weirCfg pos).drive n)) ≠ [] := by simpa using hne
  have hbank : ¬ (!(d.weirBegun pos).bankOk (d.weirCfg pos)) = true :=
    show ¬ (!d.bankOk (d.weirCfg pos)) = true by simp [hok]
  have hin : (List.range 512).filter (fun n => d.ust (.chan n) == .run && d.chMode n == 3) = d.weirInRun := rfl
  simp only [Dev.weirTrigger, hb, Bool.false_eq_true, if_false]
  rw [hin, hall, hlacks, List.length_map]
  exact ⟨_, (if_neg hbank).trans (if_neg hparts)⟩

/-- The task of a request waits with Stove (R261). -/
theorem Dev.mem_request (d : Dev) (kind unit mw : Nat) (zones : List (Nat × Nat)) (dur : Option Nat) :
    ({ kind := kind, unit := unit, mw := mw, zones := zones, dur := dur, req := d.now } : Task) ∈
      (d.request kind unit mw zones dur).stove.tasks := by
  simp [Dev.request]

/-! ### An abort (R191) -/

theorem Dev.weirAbort_idle {d : Dev} (h : d.weir.run = none) (cause : Nat) : d.weirAbort cause = d := by
  simp only [Dev.weirAbort, h]

section
variable {d : Dev} {w : WeirData} (h : d.weir.run = some w)
include h

/-- A run whose records have been written, or that an abort ends already, takes no further abort. -/
theorem Dev.weirAbort_ending (he : w.sent = true ∨ w.stop ≠ none) (cause : Nat) : d.weirAbort cause = d := by
  have hs : (w.sent || w.stop.isSome) = true := by simpa [Option.isSome_iff_ne_none] using he
  simp only [Dev.weirAbort, h, hs, if_true]

theorem Dev.weirAbort_between (hs : w.sent = false) (hn : w.stop = none) (hd : d.weirDriving = true) (hc : d.chipBound w ≠ d.now)
    (cause : Nat) :
    d.weirAbort cause = d.setWeir { d.weir with run := some { w with stop := some (cause, d.chipBound w) } } := by
  simp [Dev.weirAbort, h, hs, hn, hd, hc]

theorem Dev.weirAbort_atOnce (hs : w.sent = false) (hn : w.stop = none) (hd : d.weirDriving = false ∨ d.chipBound w = d.now)
    (cause : Nat) : d.weirAbort cause = d.weirEnd cause d.now := by
  have hb : (d.weirDriving && d.chipBound w != d.now) = false := by
    rcases hd with hd | hd <;> simp [hd]
  simp [Dev.weirAbort, h, hs, hn, hb]

/-- The end of a run without a result: its task goes back and its record tells why. -/
theorem Dev.weirEnd_run (cause : Nat) (t : Time) : d.weirEnd cause t =
    (((d.setWeir { d.weir with rstate := 6, run := none, admitted := false }).release 2 0xAFFF).record (fld w.cfg.recq 9 0)
      none 0x29 0 0xAFFF t (w32 cause) (w32 d.weir.frames) 0).fault 0xA000 0 := by
  simp only [Dev.weirEnd, h]
  rfl

/-! ### Chip 0 and the drive's end (steps 4 and 6) -/

theorem Dev.weirDrive_unready (hr : d.weirReady = false) : d.weirDrive = d := by
  simp [Dev.weirDrive, h, hr]

theorem Dev.weirDrive_ready (hr : d.weirReady = true) : d.weirDrive =
    let t := if w.cfg.field then (d.vl.fstart.getD 0).toNat else cdiv (d.now.toNat + 16) 125 * 125
    d.setWeir { d.weir with
      rstate := if w.cfg.lead = 0 then 3 else 2
      run := some { w with
        parts := w.parts.filter (fun p => d.weirIn p.1)
        start := BitVec.ofNat 64 t, stamp := BitVec.ofNat 64 (t + w.cfg.lead * w.cfg.n * w.cfg.chip * 1000) } } := by
  simp only [Dev.weirDrive, h, hr, if_true]

theorem Dev.weirDriveEnd_last (h3 : d.weir.rstate = 3) (hf : d.weir.frames = w.cfg.lead + w.cfg.frames) (hn : w.stop = none) :
    d.weirDriveEnd =
      let e := (d.setWeir { d.weir with rstate := 4 }).release 2 0xAFFF
      if w.cfg.field then { e with vl := { e.vl with wout := e.vl.wout ++ [.values w.cfg.pos w.column] } } else e := by
  simp only [Dev.weirDriveEnd, h, h3, hf, hn, and_self, if_true]

end

/-! ### A frame (step 5) -/

/-- A participant's words of an averaged frame of `n` chips join its sums; a pin that is not measured adds nothing. -/
def WeirData.addWords (n f : Nat) (w : WeirData) (x : ChipWords) : WeirData :=
  let j := x.ch.val
  if w.notMeas j then w
  else
    let old := SMap.get [] w.acc j
    let r := residueSum (rowOf (w.cfg.base + j)) n (w.cfg.lead == 0 && f == 0) x.residues
    let r0 := SMap.get (0, 0) w.res j
    { w with
      acc := SMap.put [] w.acc j ((List.range n).map (fun t => old.getD t 0 + x.words.getD t 0))
      res := SMap.put (0, 0) w.res j (r0.1 + r.1, r0.2 + r.2)
      sat := if x.saturated && !w.sat.contains j then w.sat ++ [j] else w.sat }

@[simp] theorem WeirData.cfg_addWords (n f : Nat) (w : WeirData) (x : ChipWords) :
    (w.addWords n f x).cfg = w.cfg := by
  unfold WeirData.addWords
  dsimp only
  split <;> rfl

theorem WeirData.acc_addWords {n : Nat} {w : WeirData} {x : ChipWords} (h : w.notMeas x.ch.val = false) (f : Nat) :
    (w.addWords n f x).acc = SMap.put [] w.acc x.ch.val
      ((List.range n).map (fun t => (SMap.get [] w.acc x.ch.val).getD t 0 + x.words.getD t 0)) := by
  simp only [WeirData.addWords, h, Bool.false_eq_true, if_false]

/-- Each chip's word joins the sum of its own chip. -/
theorem WeirData.acc_addWords_self {n : Nat} {w : WeirData} {x : ChipWords} (h : w.notMeas x.ch.val = false) (f : Nat) {i : Nat}
    (hi : i < n) : (SMap.get [] (w.addWords n f x).acc x.ch.val).getD i 0 =
      (SMap.get [] w.acc x.ch.val).getD i 0 + x.words.getD i 0 := by
  rw [WeirData.acc_addWords h, SMap.get_put_self]
  simp [hi]

theorem WeirData.acc_addWords_ne {n : Nat} {w : WeirData} {x : ChipWords} (h : w.notMeas x.ch.val = false) (f : Nat) {j : Nat}
    (hj : j ≠ x.ch.val) : SMap.get [] (w.addWords n f x).acc j = SMap.get [] w.acc j := by
  rw [WeirData.acc_addWords h, SMap.get_put_ne _ _ hj]

/-- What a frame leaves of the run: a frame of the lead adds nothing. -/
def Dev.weirSums (d : Dev) (w : WeirData) (words : List ChipWords) : WeirData :=
  if d.weir.rstate = 2 then w
  else words.foldl (WeirData.addWords w.cfg.n d.weir.frames) w

@[simp] theorem Dev.cfg_weirSums (d : Dev) (w : WeirData) (words : List ChipWords) : (d.weirSums w words).cfg = w.cfg := by
  unfold Dev.weirSums
  split
  · rfl
  · exact List.foldlRecOn (motive := fun v : WeirData => v.cfg = w.cfg) words _ rfl
      (fun v hv x _ => (WeirData.cfg_addWords _ _ v x).trans hv)

section
variable {d : Dev} {w : WeirData} (h : d.weir.run = some w) (hr : d.weir.rstate = 2 ∨ d.weir.rstate = 3)
include h hr

/-- Without its synchronisation a field run ends (R209). -/
theorem Dev.weirFrame_unsynced (hf : w.cfg.field = true) (words : List ChipWords) :
    d.weirFrame words false = (d.fault 0xA000 4).weirAbort 4 := by
  simp only [Dev.weirFrame, h, hr, hf, Bool.not_false, Bool.and_self, if_true, Dev.weirSyncLost]
  rfl

theorem Dev.weirFrame_counts {synced : Bool} (hs : w.cfg.field = false ∨ synced = true) (words : List ChipWords) :
    d.weirFrame words synced = d.setWeir { d.weir with
      frames := d.weir.frames + 1, run := some (d.weirSums w words)
      rstate := if w.cfg.lead ≤ d.weir.frames + 1 then 3 else 2
      load := forRange 16 (fun c (m : SMap Nat) => SMap.put 0 m c ((d.weirSums w words).slLoad c)) d.weir.load } := by
  have hsync : (w.cfg.field && !synced) = false := by rcases hs with hs | hs <;> simp [hs]
  rw [← d.cfg_weirSums w words]
  simp only [Dev.weirFrame, h, hr, hsync, Bool.false_eq_true, if_true, if_false]
  rfl

/-- Outside field mode, and in the lead, a frame writes nothing to Lakebed. -/
theorem Dev.fstoreFrame_none {synced : Bool} (hs : w.cfg.field = false ∨ synced = true) (words : List ChipWords)
    (hn : w.cfg.field = false ∨ d.weir.rstate = 2) : d.fstoreFrame words synced = [] := by
  have hc : ¬ (d.weir.rstate = 3 ∧ (d.weirSums w words).cfg.field = true ∧ synced = true) := by
    rintro ⟨h3, hf, -⟩
    rw [Dev.cfg_weirSums] at hf
    rcases hn with hn | hn
    · simp [hn] at hf
    · omega
  unfold Dev.fstoreFrame
  rw [Dev.weirFrame_counts h hr hs]
  exact if_neg hc

end

theorem Dev.fstoreFrame_unsynced (d : Dev) (words : List ChipWords) : d.fstoreFrame words false = [] := by
  unfold Dev.fstoreFrame
  split
  · exact if_neg (by simp)
  · rfl

/-! ### The records (step 7, R205) -/

section
variable {d : Dev} {w : WeirData} (h : d.weir.run = some w)
include h

theorem Dev.fstoreOut_none (hf : w.cfg.field = false) : d.fstoreOut = [] := by
  simp [Dev.fstoreOut, h, hf]

/-- The reference test off and no participant lost: DONE is the run's only record. -/
theorem Dev.weirCommit_done (h4 : d.weir.rstate = 4) (hs : w.sent = false) (hr : w.cfg.refEn = false) (hd : w.drops = []) :
    d.weirCommit =
      let e := d.record (fld w.cfg.recq 9 0) none 0x20 0 0xAFFF w.stamp (w32 (w.cfg.field.toNat * 2))
        (w32 ((512 - w.parts.length) * 2 ^ 16 + w.parts.length)) (w32 ((d.weir.runs + 1) % 4096))
      (e.setWeir { e.weir with run := some { w with sent := true }, excs := 0 }).weirFinish := by
  have hp : w.partCount = w.parts.length := by simp [WeirData.partCount, hd]
  simp only [Dev.weirCommit, h, h4, hs, hr, hd, hp, Bool.false_eq_true, and_self, if_true, if_false]
  simp [Dev.weirRec, satU]

theorem Dev.weirFinish_waits (hs : w.sent = true) (hw : d.weirWaits w = true) : d.weirFinish = d := by
  simp [Dev.weirFinish, h, hs, hw]

theorem Dev.weirFinish_done (hs : w.sent = true) (hw : d.weirWaits w = false) :
    d.weirFinish = d.setWeir { d.weir with rstate := 5, run := none, last := some w, runs := (d.weir.runs + 1) % 4096 } := by
  simp [Dev.weirFinish, h, hs, hw]

end

/-! ### The commands -/

theorem exec_weirStart {s : State} {p : Path} (h : s.Via p) {f : Dev → Dev}
    (hf : s.dev.weirTrigger (s.dev.rf 0x1A04C 2 0) = f s.dev) : exec (.weirStart p) s = .next (s.act f) :=
  State.write_next h (by decide) ((Dev.regWrite_weirCmd _ p 1).trans hf)

theorem exec_weirAbort {s : State} {p : Path} (h : s.Via p) {f : Dev → Dev} (hf : s.dev.weirAbort 1 = f s.dev) :
    exec (.weirAbort p) s = .next (s.act f) :=
  State.write_next h (by decide) ((Dev.regWrite_weirCmd _ p 2).trans hf)

/-- The end of a frame, with what it writes to Lakebed. -/
theorem exec_weirFrameEnd {s : State} (h : s.Alive) (words : List ChipWords) (synced : Bool) :
    exec (.weirFrameEnd words synced) s = .next
      (({ s with mem := Memory.putWords (s.dev.fstoreFrame words synced) s.mem } : State).act (fun d => d.weirFrame words synced)) :=
  congrArg _ (if_pos h)

/-- The commit, with what it writes to Lakebed. -/
theorem exec_weirCommit {s : State} (h : s.Alive) {f : Dev → Dev} (hf : s.dev.weirCommit = f s.dev) :
    exec .weirCommit s = .next (({ s with mem := Memory.putWords s.dev.fstoreOut s.mem } : State).act f) :=
  congrArg _ (show s.weirCommit = _ from (if_pos h).trans (by simp only [State.act, hf]))

/-! ### The statement -/

/-- Settles O43: each step of a run, its end and its records by the lemma of the branch that the clause is about. A channel that has
left RUN or WEIR mode before chip 0 takes no part, and FSTORE is written with each frame (notes/assumptions/89); NOTMEAS counts
what is left of 512 (notes/assumptions/53), and a step that has nothing to do leaves the device (notes/assumptions/4). -/
theorem weirRun : Obligations.WeirRun := by
  unfold Obligations.WeirRun
  refine fun s p words synced => ⟨fun h => ⟨fun hb => ⟨exec_weirStart h rfl, fun hok hne hr => ?asks⟩,
      fun hb => exec_weirStart h (Dev.weirTrigger_busy hb _),
      fun hn => exec_weirAbort h (Dev.weirAbort_idle hn 1),
      fun w hw => ⟨fun he => exec_weirAbort h (Dev.weirAbort_ending hw he 1),
        fun hs hn hd hc => exec_weirAbort h (Dev.weirAbort_between hw hs hn hd hc 1),
        fun hs hn hd => exec_weirAbort h ((Dev.weirAbort_atOnce hw hs hn hd 1).trans (Dev.weirEnd_run hw 1 _))⟩⟩,
    fun h w hw => ⟨fun hr => State.live_next h (Dev.weirDrive_ready hw hr),
      fun hr => State.live_next h (Dev.weirDrive_unready hw hr),
      fun hr => ⟨fun hf hs => ?unsynced, fun hs => ?frame⟩,
      fun h3 hf hn => ⟨fun hx => ?ends, fun hx => ?sends⟩,
      fun h4 hs => ⟨exec_weirCommit h rfl, Dev.fstoreOut_none hw,
        fun hr hd => exec_weirCommit h (Dev.weirCommit_done hw h4 hs hr hd)⟩⟩,
    fun d w hw hs => ⟨Dev.weirFinish_waits hw hs, Dev.weirFinish_done hw hs⟩⟩
  case asks =>
    obtain ⟨zones, he⟩ := Dev.weirTrigger_asks hb hok hne hr
    rw [he]
    exact ⟨rfl, rfl, rfl, rfl, rfl, _, Dev.mem_request _ _ _ _ _ _, rfl, rfl, rfl, rfl, rfl, rfl⟩
  case unsynced =>
    subst hs
    rw [exec_weirFrameEnd h, Dev.fstoreFrame_unsynced]
    exact State.act_next (Dev.weirFrame_unsynced hw hr hf words)
  case frame =>
    have he := Dev.weirFrame_counts hw hr hs words
    refine ⟨exec_weirFrameEnd h words synced, Dev.fstoreFrame_none hw hr hs words, ?_⟩
    rw [he]
    refine ⟨rfl, rfl, fun h2 => congrArg some (if_pos h2), ?_⟩
    rintro x h3 rfl hx
    have hsums : s.dev.weirSums w [x] = w.addWords w.cfg.n s.dev.weir.frames x := if_neg (by omega)
    refine ⟨_, rfl, ?_⟩
    rw [hsums]
    exact ⟨fun i hi => WeirData.acc_addWords_self hx _ hi, fun j hj => WeirData.acc_addWords_ne hx _ hj⟩
  case ends => exact State.live_next h ((Dev.weirDriveEnd_last hw h3 hf hn).trans (if_neg (by simp [hx])))
  case sends => exact State.live_next h ((Dev.weirDriveEnd_last hw h3 hf hn).trans (if_pos hx))

end Sys2Proof.Machine
end

section
/-! PROOFS. The Reedbed's commands: a word of a stream, a held output, the end of the coefficient copy and the coefficient window,
one lemma for each branch of an operation, and the statement ReedbedCommands assembled from them. -/

namespace Sys2Proof.Machine

/-! ### Words of a stream (R218, R220) -/

/-- The next word follows 1,000 ns later. The left side is evaluated alone: `rfl` would compare `t` with `t + 1000` first, in unary. -/
theorem Dev.wordsIn_cons (c k : Nat) (t : Time) (w : Word) (ws : List Word) (d : Dev) :
    Dev.wordsIn c k t (w :: ws) d = Dev.wordsIn c k (t + 1000) ws (d.wordIn c k t w) := by
  conv_lhs => whnf

theorem Dev.wordIn_unbiased {d : Dev} {c k : Nat} (h : (d.ust (.chan (streamChan c k))).biased = false) (t : Time) (w : Word) :
    d.wordIn c k t w = d := by
  simp [Dev.wordIn, h]

/-- While the engine does not process, a word goes to the channel's comparators and no further. -/
theorem Dev.wordIn_stopped {d : Dev} {c k : Nat} {t : Time} {w : Word} (h : (d.ust (.chan (streamChan c k))).biased = true)
    (hoff : (d.cmpWord (streamChan c k) (k % 2 == 0) w (t + BitVec.ofNat 64 (125 * k / 8))).rbOn c = false) :
    d.wordIn c k t w = d.cmpWord (streamChan c k) (k % 2 == 0) w (t + BitVec.ofNat 64 (125 * k / 8)) := by
  simp [Dev.wordIn, h, hoff]

/-! ### A held output (R229) -/

section
variable {d : Dev} {c k : Nat} {o : GridOut} {rest : List GridOut} (h : (d.strm c k).waits = o :: rest)
include h

/-- The oldest output leaves with its grid point as its stamp, and closes its block where the grid is cut. -/
theorem Dev.releaseGrid_due (hp : 0 ≤ phDiff (d.gridDue c k o) d.tracked.pos) : d.releaseGrid c k =
    let e := (d.updStrm c k (fun x => { x with waits := rest })).emit c k o.t { d.phaseAt o.t with pos := o.p } o.y.toInt o.ovl
    if o.cut then e.closeBlock c k else e := by
  simp only [Dev.releaseGrid, h, hp, if_true, Dev.releaseFirst, Dev.gridStamp]

theorem Dev.releaseGrid_early (hp : phDiff (d.gridDue c k o) d.tracked.pos < 0) : d.releaseGrid c k = d := by
  simp only [Dev.releaseGrid, h, Int.not_le.mpr hp, if_false]

end

/-! ### The coefficient copy (R230, R232) -/

theorem Dev.coefDone_idle {d : Dev} {c : Nat} (h : (d.reed c).loading = false) : d.coefDone c = d :=
  if_neg (by simp [h])

section
variable {d : Dev} {c : Nat} (h : (d.reed c).loading = true)
include h

/-- An engine that processes once its copy is done starts: each of its streams restarts. -/
theorem Dev.coefDone_starts (hon : (d.setReed c { d.reed c with loading := false }).rbOn c = true) : d.coefDone c =
    forRange 64 (fun k (d : Dev) => d.restart c k) (d.setReed c { d.reed c with loading := false }) :=
  (if_pos h).trans (if_pos hon)

theorem Dev.coefDone_stopped (hoff : (d.setReed c { d.reed c with loading := false }).rbOn c = false) :
    d.coefDone c = d.setReed c { d.reed c with loading := false } :=
  (if_pos h).trans (if_neg (by simp [hoff]))

end

/-! ### The coefficient window (R240) -/

theorem rbcPage_facts : ∀ c : Fin 16, slotOf (rbcPage c.val + 0x844) = none ∧ isPage (rbcPage c.val) = true := by decide

/-- The staged CW_DATA of a camp leads to its coefficient. -/
theorem Dev.regWrite_coef (d : Dev) (p : Path) (c : Fin 16) (v : Word) :
    d.regWrite p (rbcPage c.val + 0x844) v = d.coefWrite c.val v := by
  obtain ⟨hs, hp⟩ := rbcPage_facts c
  have hc := c.isLt
  have ha : rbcPage c.val = 0x102000 + c.val * 0x10000 := rfl
  have ho : (rbcPage c.val + 0x844) % 0x1000 = 0x844 := by omega
  have hn : (rbcPage c.val + 0x844 - 0x100000) / 0x10000 = c.val := by omega
  simp only [Dev.regWrite, hs, ho, Nat.add_sub_cancel, hp, hn]
  rw [if_neg (by omega), if_neg (by omega), if_neg (by simp), if_neg (by omega), if_pos (by omega), if_pos (by omega)]

/-! ### The statement -/

/-- Settles O44: each command by the lemma of the branch that the clause is about. The end of a copy that is not in progress and the
release of an output before its phase leave the device (DESIGN CHOICE, notes/assumptions/4). -/
theorem reedbedCommands : Obligations.ReedbedCommands := by
  unfold Obligations.ReedbedCommands
  refine fun s p c k t words => ⟨fun h => ⟨State.live_next h rfl,
      fun d w ws => ⟨Dev.wordsIn_cons _ _ t w ws d, fun hb => Dev.wordIn_unbiased hb t w, fun hb hoff => Dev.wordIn_stopped hb hoff⟩,
      fun o rest ho => ⟨fun hp => State.live_next h (Dev.releaseGrid_due ho hp),
        fun hp => State.live_next h (Dev.releaseGrid_early ho hp)⟩,
      fun hl => ⟨fun hon => State.live_next h (Dev.coefDone_starts hl hon),
        fun hoff => State.live_next h (Dev.coefDone_stopped hl hoff)⟩,
      fun hl => State.live_next h (Dev.coefDone_idle hl)⟩,
    fun h => ⟨fun v => ?write, fun staged => ?read⟩⟩
  all_goals have ha : rbcPage c.val = 0x102000 + c.val * 0x10000 := rfl
  case write => exact State.write_next (a := rbcPage c.val + 0x844) h (by omega) (Dev.regWrite_coef s.dev p c v)
  case read => exact congrArg _ (State.read_of h (by split <;> omega))

end Sys2Proof.Machine
end

section
/-! PROOFS. The commands of a Float: the end of a gate's fixed duration and the two codes of FL_CMD, one lemma for each branch of an
operation, and the statement FloatCommands assembled from them. -/

namespace Sys2Proof.Machine

@[simp] theorem Dev.fl_updFl (d : Dev) (i : Nat) (f : FloatDyn → FloatDyn) : (d.updFl i f).fl i = f (d.fl i) :=
  Dev.fl_setFl d i _

/-! ### The end of a gate's duration (R248) -/

/-- The opening edge is used up, and the closing edge stands FL_DUR microseconds behind it. -/
theorem Dev.flDurEnd_closes {d : Dev} {i : Nat} {t : Time} (h : (d.fl i).openEdge = some t) (hg : d.flGmode i = 2) :
    d.flDurEnd i = (d.updFl i (fun x => { x with openEdge := none })).flAddEdge i
      (t + BitVec.ofNat 64 (d.rf (flAt i + 0x10) 23 0 * 1000)) false := by
  simp only [Dev.flDurEnd, h, hg, beq_self_eq_true, if_true]

theorem Dev.flDurEnd_unopened {d : Dev} {i : Nat} (h : (d.fl i).openEdge = none) : d.flDurEnd i = d := by
  simp only [Dev.flDurEnd, h]

/-! ### FL_CMD (R243, R260) -/

theorem Dev.flCmd_rearm (d : Dev) (i : Nat) : d.flCmd i 1 = d.flFresh i := rfl

theorem Dev.flCmd_clearCount (d : Dev) (i : Nat) :
    d.flCmd i 2 = d.updFl i (fun x => { x with count := 0, cntOvl := false }) := rfl

/-- A path's write of a Float's FL_CMD, by what the command makes of the present device. -/
theorem State.flCmd_next {s : State} {p : Path} (h : s.Via p) (i : FloatIx) {v : Word} {f : Dev → Dev}
    (hf : s.dev.flCmd i.val v = f s.dev) :
    (Host.Outcome.next (s.write p (flAt i.val + 0x74) v) : Host.Outcome State Fault Refusal) = .next (s.act f) := by
  have ha : flAt i.val = 0x400000 + i.val / 16 * 0x1000 + i.val % 16 * 0x80 := rfl
  have hi := i.isLt
  exact State.write_next h (by omega) ((Dev.regWrite_float s.dev p i v).trans hf)

/-- What the Float holds after a fresh start, which acts on what the cut of its episode left (R243, R256). -/
theorem Dev.fl_flFresh (d : Dev) (i : Nat) :
    (d.flFresh i).fl i =
      let x := (d.flCut i true).fl i
      { x with fresh := true, c := false, lvl := 1, hist := [], base := none, pat := none, mism := [], latched := false,
               cntOvl := false, count := if d.flKind i = 3 then 0 else x.count } :=
  Dev.fl_updFl (d.flCut i true) i _

/-! ### The statement -/

/-- Settles O45: the end of a duration by the gate's opening edge, FL_CMD by its code, and a fresh start by what it leaves of the
Float. The row ends a duration whenever it comes (DESIGN CHOICE, notes/assumptions/75), and leaves the device where no opening edge
stands (DESIGN CHOICE, notes/assumptions/4). -/
theorem floatCommands : Obligations.FloatCommands := by
  unfold Obligations.FloatCommands
  refine fun s p i => ⟨fun h t ho hg => State.live_next h (Dev.flDurEnd_closes ho hg),
    fun h ho => State.live_next h (Dev.flDurEnd_unopened ho),
    fun h => ⟨State.flCmd_next h i (Dev.flCmd_rearm ..), State.flCmd_next h i (Dev.flCmd_clearCount ..)⟩, fun d => ?fresh⟩
  case fresh =>
    rw [Dev.fl_flFresh]
    exact ⟨rfl, rfl, rfl, rfl, rfl, rfl⟩

end Sys2Proof.Machine
end

section
/-! PROOFS. The timers: a step of COUNT, what each code of TM_CMD and each event makes of the device, the two reads that leave
something behind, and the statement TimerCommands assembled from them. -/

namespace Sys2Proof.Machine

/-! ### A step of COUNT (R316) -/

@[simp] theorem Dev.tmMatch_setTm (d : Dev) (t u : Nat) (x : TimerDyn) : (d.setTm u x).tmMatch t = d.tmMatch t := rfl

/-- Below TOP a step counts up, and it matches where it reaches MATCH. -/
theorem Dev.tmStep_below {d : Dev} {t : Nat} (h : (d.tm t).count.toNat < (d.tmTop t).toNat) :
    d.tmStep t =
      let e := d.setTm t { d.tm t with count := (d.tm t).count + 1 }
      if (d.tm t).count + 1 = d.tmMatch t then e.tmMatched t else e := by
  have hw : ¬ (d.tmTop t).toNat ≤ (d.tm t).count.toNat := Nat.not_le.mpr h
  simp only [Dev.tmStep, Dev.updTm, Dev.tmMatch_setTm, decide_eq_false hw, Bool.false_eq_true, if_false]

/-- From TOP, or above a lowered one, a step leads to 0 and overflows; a MATCH of 0 comes first. -/
theorem Dev.tmStep_wraps {d : Dev} {t : Nat} (h : (d.tmTop t).toNat ≤ (d.tm t).count.toNat) :
    d.tmStep t =
      let e := d.setTm t { d.tm t with count := 0 }
      (if d.tmMatch t = 0 then e.tmMatched t else e).tmOverflowed t := by
  simp only [Dev.tmStep, Dev.updTm, Dev.tmMatch_setTm, decide_eq_true h, if_true, eq_comm]

/-! ### Events (R316, R322) -/

/-- A running timer in RUN, whose prescaler divides, comes to a value of COUNT. -/
theorem Dev.tmReach_runs {d : Dev} {t : Nat} (hu : d.ust (.timer t) = .run) (hr : (d.tm t).running = true) (hp : d.tmPre t ≠ 0)
    (c : Dev → Nat) : d.tmReach t c = d.tmRunTo t (c d) :=
  if_pos (by simp [hu, hr, hp])

theorem Dev.tinStuck_quiet {d : Dev} {n : Nat} (he : d.tinEn n = true) (ht : d.rf (0xE040 + 4 * n) 23 8 ≠ 0)
    (hs : (d.tin n).stuck = false) (hq : d.tinQuiet n = true) :
    d.tinStuck n = ((d.setTin n { d.tin n with stuck := true }).fault 0xE000 n).tinRec n 2 d.now :=
  if_pos (by simp [he, ht, hs, hq])

/-! ### TM_CMD (R317) -/

theorem Dev.tmCmd_off {d : Dev} {t : Nat} (h : d.ust (.timer t) = .off) (v : Word) : d.tmCmd t v = d :=
  if_pos (by simp [h])

section
variable {d : Dev} {t : Nat} (h : d.ust (.timer t) ≠ .off)
include h

theorem Dev.tmCmd_start : d.tmCmd t 1 = d.tmStart t := if_neg (by simpa using h)

theorem Dev.tmCmd_stop : d.tmCmd t 2 = d.tmStop t := if_neg (by simpa using h)

theorem Dev.tmCmd_load : d.tmCmd t 3 = d.tmLoad t := if_neg (by simpa using h)

theorem Dev.tmCmd_capture : d.tmCmd t 4 = d.tmCapture t d.now 0 0 := if_neg (by simpa using h)

theorem Dev.tmCmd_release : d.tmCmd t 5 = d.tmRelease t := if_neg (by simpa using h)

end

/-- A start sets RUNNING, which a stop of the same cycle clears (R318). -/
theorem Dev.tmStart_run {d : Dev} {t : Nat} (h : d.ust (.timer t) = .run) :
    d.tmStart t = d.updTm t (fun x => { x with running := !x.stopped, started := true }) :=
  if_pos (by simp [h])

/-- A path's write of TM_CMD, by what the command makes of the present device. -/
theorem State.tmCmd_next {s : State} {p : Path} (h : s.Via p) (t : TimerIx) {v : Word} {f : Dev → Dev}
    (hf : s.dev.tmCmd t.val v = f s.dev) :
    (Host.Outcome.next (s.write p (tmAt t.val + 0x3C) v) : Host.Outcome State Fault Refusal) = .next (s.act f) := by
  have hlow : ∀ t : TimerIx, tmAt t.val + 0x3C < 0x2000000 := by decide
  exact State.write_next h (hlow t) ((Dev.regWrite_timer s.dev p t v).trans hf)

/-! ### Reads of COUNT_LO and CAP_LT_HI (R320, R321) -/

/-- A path's read, by what it makes of the present device, with its value at the path. -/
theorem State.read_next {s : State} {p : Path} (h : s.Via p) {a : Nat} (ha : a < 0x2000000) {g : Dev → Dev}
    (hf : Dev.answered p (s.dev.regRead p a) = g s.dev) :
    (Host.Outcome.next (s.read p a) : Host.Outcome State Fault Refusal) = .next (s.act g) :=
  congrArg _ ((State.read_of h ha).trans (State.act_congr hf))

/-- Where the two registers lie: in the timer's applied slot, on the timers' pages. -/
theorem timerReads_facts : ∀ t : TimerIx, ∀ k ∈ [0x40, 0x54], slotOf (tmAt t.val + k) = some (.timer t.val) ∧
    isStaged (tmAt t.val + k) = false ∧ 0xE000 ≤ tmAt t.val + k ∧ tmAt t.val + k < 0x10000 := by decide

theorem timerReads_low (t : TimerIx) (k : Nat) (hk : k ∈ [0x40, 0x54]) : tmAt t.val + k < 0x2000000 := by
  obtain ⟨-, -, -, hhi⟩ := timerReads_facts t k hk
  omega

/-- A read of COUNT_LO latches the upper half of COUNT for the path, and one of CAP_LT_HI releases FRONT. -/
theorem Dev.regRead_timer {d : Dev} (h : d.pwr.st ≠ .starting) (p : Path) (t : TimerIx) {k : Nat} (hk : k ∈ [0x40, 0x54]) :
    d.regRead p (tmAt t.val + k) =
      (if k = 0x40 then
        d.setPath p { d.path p with
          countHi := SMap.put none (d.path p).countHi t.val (some (hi32 (d.tmShown t.val).count)) }
       else d.tmRelease t.val,
       d.view p (tmAt t.val + k)) := by
  obtain ⟨hs, hst, hlo, hhi⟩ := timerReads_facts t k hk
  unfold Dev.regRead
  simp only [Dev.readsReset_started h, hs, hst, Nat.add_sub_cancel_left, Bool.false_eq_true, if_false]
  iterate 15 rw [if_neg (by omega)]
  simp only [List.mem_cons, List.not_mem_nil, or_false] at hk
  rcases hk with rfl | rfl <;> rfl

/-! ### The statement -/

/-- Settles O48: a step of COUNT by where it stands, each event, command and read by what its operation makes of the present
device. TIMER_MATCH and TIMER_OVERFLOW stand for as many ticks as bring COUNT to its value (the model's choice). -/
theorem timerCommands : Obligations.TimerCommands := by
  unfold Obligations.TimerCommands
  refine ⟨fun d t => ⟨fun hlt hne => (Dev.tmStep_below hlt).trans (if_neg hne),
      fun hlt heq => (Dev.tmStep_below hlt).trans (if_pos heq),
      fun hle hne => (Dev.tmStep_wraps hle).trans (congrArg (Dev.tmOverflowed · t) (if_neg hne)),
      fun hle heq => (Dev.tmStep_wraps hle).trans (congrArg (Dev.tmOverflowed · t) (if_pos heq))⟩,
    fun s p t n level lt => ⟨fun h => ⟨fun hu hr hp => ⟨fun hm => ?tmMatch, ?overflow⟩, fun _ => State.live_next h rfl,
        fun _ => State.live_next h rfl, fun he ht hs hq => State.live_next h (Dev.tinStuck_quiet he ht hs hq)⟩,
      fun h hoff => ?off, fun h hon => ⟨fun hrun => ?start, State.tmCmd_next h t (Dev.tmCmd_stop hon),
        State.tmCmd_next h t (Dev.tmCmd_load hon), State.tmCmd_next h t (Dev.tmCmd_capture hon),
        State.tmCmd_next h t (Dev.tmCmd_release hon)⟩,
      fun h hst => ⟨?countLo, ?capLtHi⟩⟩⟩
  case tmMatch => exact State.live_next h ((if_pos hm).trans (Dev.tmReach_runs hu hr hp _))
  case overflow => exact State.live_next h (Dev.tmReach_runs hu hr hp _)
  case off =>
    simp only [List.forall_mem_cons, List.not_mem_nil, false_implies, implies_true, and_true]
    exact ⟨State.tmCmd_next h t (Dev.tmCmd_off hoff 1), State.tmCmd_next h t (Dev.tmCmd_off hoff 2),
      State.tmCmd_next h t (Dev.tmCmd_off hoff 3), State.tmCmd_next h t (Dev.tmCmd_off hoff 4),
      State.tmCmd_next h t (Dev.tmCmd_off hoff 5)⟩
  case start => exact State.tmCmd_next h t ((Dev.tmCmd_start hon).trans (Dev.tmStart_run hrun))
  case countLo =>
    refine State.read_next h (timerReads_low t 0x40 (by decide)) ?_
    simp only [Dev.answered, Dev.regRead_timer hst p t (k := 0x40) (by decide), if_true, Dev.path_setPath, Dev.setPath_setPath]
  case capLtHi =>
    exact State.read_next h (timerReads_low t 0x54 (by decide))
      (congrArg (Dev.answered p) (Dev.regRead_timer hst p t (k := 0x54) (by decide)))

end Sys2Proof.Machine
end

section
/-! PROOFS. Results of the Efyon instructions: how a narrowed value fills a register, what each shape of instruction issues to, and
the statements AluResults, ImmediateResults, ProductResults, AccumulatorResults and DivisionResults assembled from them. -/

namespace Sys2Proof.Machine

/-! ### Values within words -/

/-- The signed value of the low bits of a number. -/
theorem sext_eq_toInt {n : Nat} (hn : 0 < n) (v : Nat) : sext n v = (BitVec.ofNat n v).toInt := by
  obtain ⟨k, rfl⟩ : ∃ k, n = k + 1 := ⟨n - 1, by omega⟩
  have h2 : 2 ^ (k + 1) = 2 * 2 ^ k := by ring
  rw [BitVec.toInt_eq_toNat_cond, BitVec.toNat_ofNat]
  simp only [sext, Nat.add_sub_cancel]
  by_cases h : 2 ^ k ≤ v % 2 ^ (k + 1)
  · rw [if_pos h, if_neg (by omega)]
    push_cast
    rfl
  · rw [if_neg h, if_pos (by omega)]

/-- A signed value of n bytes fills a register by its sign. -/
theorem extend_signed {n : Nat} (hn : 0 < n) (v : Nat) : extend n true v = (BitVec.ofNat (8 * n) v).signExtend 32 := by
  rw [extend, if_pos rfl, sext_eq_toInt (by omega)]
  rfl

/-- The low bits of a word fill a register by the sign of their highest. -/
theorem extend_fld_signed (w : Word) {n k : Nat} (hn : 0 < n) (hk : k + 1 = 8 * n) :
    extend n true (fld w k 0) = (w.truncate (8 * n)).signExtend 32 := by
  rw [extend_signed hn]
  congr 1
  apply BitVec.eq_of_toNat_eq
  simp [fld, hk]

/-- The low bits of a word fill a register with zeros: a mask. -/
theorem extend_fld_masked (w m : Word) {n k : Nat} (hm : m.toNat = 2 ^ (k + 1) - 1) : extend n false (fld w k 0) = w &&& m := by
  have hand : w.toNat &&& m.toNat = w.toNat % 2 ^ (k + 1) := by rw [hm, Nat.and_two_pow_sub_one_eq_mod]
  apply BitVec.eq_of_toNat_eq
  rw [BitVec.toNat_and, hand]
  exact Nat.mod_eq_of_lt ((Nat.mod_le _ _).trans_lt w.isLt)

/-! ### What each shape of instruction issues to -/

section
variable {s : State} {e : CoreId} {b : Bool}

theorem State.CanIssue.alive (h : s.CanIssue e b) : s.dev.alive = true := h.1

theorem State.CanIssue.ready (h : s.CanIssue e b) : s.dev.ready e = true := h.2.1

theorem State.CanIssue.noSkip (h : s.CanIssue e b) : (s.dev.core e).skip = false := h.2.2.1

theorem State.CanIssue.rep_ne_zero (h : s.CanIssue e b) : (s.dev.core e).rep ≠ some 0 := h.2.2.2.1

theorem State.CanIssue.noImx (h : s.CanIssue e false) : (s.dev.core e).imx = none := by
  obtain ⟨-, -, -, -, himx, -⟩ := h
  simpa using himx

theorem State.CanIssue.notEntering (h : s.CanIssue .main b) : s.dev.esc.entering = false := by
  obtain ⟨-, -, -, -, -, hent, -⟩ := h
  exact hent

theorem State.CanIssue.fetch_main (h : s.CanIssue .main b) : s.mainFetchBad (s.dev.core .main).pc = false := by
  obtain ⟨-, -, -, -, -, -, hfetch, -⟩ := h
  exact hfetch

theorem State.CanIssue.pc_low (h : s.CanIssue .main b) : (s.dev.core .main).retire.pc.toNat < 0xFFFFFF00 := by
  obtain ⟨-, -, -, -, -, -, -, hlow⟩ := h
  exact hlow

theorem State.CanIssue.fetch_seq {x : Ctx} (h : s.CanIssue (.seq x) b) : s.dev.seqFetchBad x.val (s.dev.core (.seq x)).pc = false := by
  obtain ⟨-, -, -, -, -, hfetch, -⟩ := h
  exact hfetch

theorem State.CanIssue.noPend {x : Ctx} (h : s.CanIssue (.seq x) b) : (s.dev.core (.seq x)).pend = [] := by
  obtain ⟨-, -, -, -, -, -, hnone⟩ := h
  exact hnone

end

/-- An instruction of Efyon-S by what its run leaves and asks for. -/
theorem State.issue_main_run {s : State} {b : Bool} (op : Op) (h : s.CanIssue .main b) (hok : op.ok = true)
    (hi : b = true → op.imm = true) (hj : op.jump = false ∨ (s.dev.core .main).slot = none)
    (hr : op.noRep = false ∨ (s.dev.core .main).rep = none) {t : State} {ev : Ev}
    (hrun : op.run .main (s.dev.core .main) { s with dev := s.dev.stepped .main } = { s := t, ev := ev }) :
    s.issue .main op = (s.mainEvent (s.dev.core .main) { s := t, ev := ev }).finish := by
  rw [State.issue_main op h hok hi hj hr]
  simp only [← Dev.core_main, hrun, Bool.false_eq_true, if_false]

/-- An instruction of a context by what its run leaves and asks for. -/
theorem State.issue_seq_run {s : State} {x : Ctx} {b : Bool} (op : Op) (h : s.CanIssue (.seq x) b) (hok : op.ok = true)
    (hi : b = true → op.imm = true) (hj : op.jump = false ∨ (s.dev.core (.seq x)).slot = none)
    (hr : op.noRep = false ∨ (s.dev.core (.seq x)).rep = none) {t : State} {ev : Ev}
    (hrun : op.run (.seq x) (s.dev.core (.seq x)) { s with dev := s.dev.stepped (.seq x) } = { s := t, ev := ev }) :
    s.issue (.seq x) op =
      State.finish { t with dev := (t.dev.ctxSettle x.val).seqEvent x.val (s.dev.core (.seq x)).unitAt ev } := by
  rw [State.issue_seq op h hok hi hj hr]
  simp only [show s.dev.ctx x.val = s.dev.core (.seq x) from rfl, hrun, Bool.false_eq_true, if_false]

/-- Behind an instruction no exit token follows, and Efyon-S runs on with the registers that the instruction has left. -/
theorem State.land_core {s t : State} {b : Bool} (h : s.CanIssue .main b) (hpc : (t.dev.core .main).pc = (s.dev.core .main).retire.pc)
    (k : Nat) : State.land k t = t :=
  State.land_id (hpc ▸ h.pc_low) k

section
variable {s : State} {e : CoreId}

/-- An ALU instruction gives its result and its flags. -/
theorem State.alu_next (h : s.CanIssue e false) (f : Core → Word → Word → Res) {rd : Nat} (hrd : rd < 32) (ra rb : Nat) :
    (Host.Outcome.next (s.issue e (op3 f rd ra rb)) : Host.Outcome State Fault Refusal) =
      let c := s.dev.core e
      let r := f c (c.dr ra) (c.dr rb)
      .next (s.coreIs e ((c.retire.setD rd r.v).withFlags r)) :=
  congrArg _ (State.issue_res e (op3 f rd ra rb) h rfl (by simp) rfl rfl rd hrd _ (fun _ => rfl))

/-- One that uses a single data register. -/
theorem State.alu1_next (h : s.CanIssue e false) (f : Word → Res) {rd : Nat} (hrd : rd < 32) (ra : Nat) :
    (Host.Outcome.next (s.issue e (op2 f rd ra)) : Host.Outcome State Fault Refusal) =
      let c := s.dev.core e
      let r := f (c.dr ra)
      .next (s.coreIs e ((c.retire.setD rd r.v).withFlags r)) :=
  State.alu_next h (fun _ a _ => f a) hrd ra 0

/-- An immediate instruction gives its result and its flags. -/
theorem State.imm_next (h : s.CanIssue e true) (f : Word → Word → Res) (imm : Core → Word) {rd : Nat} (hrd : rd < 32) (ra : Nat) :
    (Host.Outcome.next (s.issue e (opI f imm rd ra)) : Host.Outcome State Fault Refusal) =
      let c := s.dev.core e
      let r := f (c.dr ra) (imm c)
      .next (s.coreIs e ((c.retire.setD rd r.v).withFlags r)) :=
  congrArg _ (State.issue_res e (opI f imm rd ra) h rfl (fun _ => rfl) rfl rfl rd hrd _ (fun _ => rfl))

/-- A product gives its result at distance 2 and its flags at distance 1 (R347, R363). -/
theorem State.product_next (h : s.CanIssue e false) (f : Word → Word → Res) (rd ra rb : Nat) :
    (Host.Outcome.next (s.issue e (opProduct f rd ra rb)) : Host.Outcome State Fault Refusal) =
      let c := s.dev.core e
      let r := f (c.dr ra) (c.dr rb)
      .next (s.coreIs e ((c.retire.gets e c.n 2 [(rd, r.v, 0xFFFFFFFF)]).withFlags r)) :=
  congrArg _ (State.issue_res2 e (opProduct f rd ra rb) h rfl (by simp) rfl rfl rd _ (fun _ => rfl))

/-- An instruction that changes its core's registers at once, beside those that count it. -/
theorem State.issue_upd {b : Bool} (op : Op) (h : s.CanIssue e b) (hok : op.ok = true) (hi : b = true → op.imm = true)
    (hj : op.jump = false) (hr : op.noRep = false) {g : Time → Core → Core} (hpc : ∀ t c, (g t c).pc = c.pc)
    (hp : ∀ t c, (g t c).pend = c.pend) (hrun : ∀ t : State, op.run e (s.dev.core e) t = { s := t.updCore e (g t.dev.now) }) :
    s.issue e op = s.coreIs e (g s.dev.now (s.dev.core e).retire) := by
  rw [State.issue_acts op h hok hi (.inl hj) (.inl hr) (fun d => d.updCore e (g d.now)) hrun]
  refine State.acts_core h _ (hpc ..) (fun he => ?pend) _ ?action
  case pend =>
    cases e with
    | main => exact absurd rfl he
    | seq x => rw [hp, Core.retire_pend, h.noPend]
  case action =>
    rw [Dev.updCore, Dev.stepped, Dev.core_setCore, Dev.setCore_setCore]
    cases e <;> rfl

/-- An accumulator takes its new value at once. -/
theorem State.acc_next (h : s.CanIssue e false) (f : Int → Word → Word → Int) (acc ra rb : Nat) :
    (Host.Outcome.next (s.issue e (opAcc f acc ra rb)) : Host.Outcome State Fault Refusal) =
      let c := s.dev.core e
      .next (s.coreIs e (c.retire.setA acc (BitVec.ofInt 72 (f (c.ar acc).toInt (c.dr ra) (c.dr rb))))) :=
  congrArg _ (State.issue_upd (opAcc f acc ra rb) h rfl (by simp) rfl rfl (g := fun _ c => c.setA acc _) (fun _ _ => rfl)
    (fun _ _ => rfl) (fun _ => rfl))

/-- An instruction that writes one data register at distance 1. -/
theorem State.issue_setD {b : Bool} (op : Op) (h : s.CanIssue e b) (hok : op.ok = true) (hi : b = true → op.imm = true)
    (hj : op.jump = false) (hr : op.noRep = false) {rd : Nat} (hrd : rd < 32) (v : Word)
    (hrun : ∀ t, op.run e (s.dev.core e) t = { s := t.put e (s.dev.core e) rd v }) :
    s.issue e op = s.coreIs e ((s.dev.core e).retire.setD rd v) := by
  refine (State.issue_gets e op h hok hi hj hr 1 (by omega) [(rd, v, 0xFFFFFFFF)] (by simp) hrun).trans ?_
  cases e <;> simp [Core.gets, Core.apply_d _ hrd]

/-! ### Divisions (R359, R362) -/

/-- A context's later state of readiness takes no part in a register write. -/
theorem Core.setD_busy (c : Core) (r : Nat) (v : Word) (w : Option (Nat × Time)) :
    { c with busy := w }.setD r v = { c.setD r v with busy := w } := by
  unfold Core.setD
  split <;> rfl

/-- A core behind a division: it has the result and the flags, and is busy for 16 CK_SEQ. -/
def Core.divided (c : Core) (rd : Nat) (r : Res) (now : Time) : Core :=
  { (c.setD rd r.v).withFlags r with busy := some (2, now + 32) }

theorem State.putRes_main (c : Core) {rd : Nat} (hrd : rd < 32) (r : Res) (t : State) :
    t.putRes .main c rd r = { t with dev := t.dev.setCore .main (((t.dev.core .main).setD rd r.v).withFlags r) } := by
  simp only [State.putRes, State.put, Dev.put_main, Dev.core_setCore, Dev.setCore_setCore, regFlags, Core.apply_d _ hrd,
    Core.apply_flags, Core.withFlags]

@[simp] theorem Core.divided_pc (c : Core) (rd : Nat) (r : Res) (now : Time) : (c.divided rd r now).pc = c.pc := by
  unfold Core.divided Core.setD
  split <;> rfl

/-- A division on Efyon-S, whatever follows it. -/
theorem opDivide_run_main (f : Word → Word → Res) {rd : Nat} (hrd : rd < 32) (ra rb : Nat) (c : Core) (t : State) :
    (opDivide f rd ra rb).run .main c t =
      { s := { t with dev := t.dev.setCore .main ((t.dev.core .main).divided rd (f (c.dr ra) (c.dr rb)) t.dev.now) }
        ev := if c.dr rb = 0 ∧ bit c.ctrl 0 then .divZero else .done } := by
  simp only [opDivide, State.putRes_main c hrd, State.updCore, Dev.updCore, Dev.core_setCore, Dev.setCore_setCore, true_and]
  rfl

theorem State.divide_main (h : s.CanIssue .main false) (f : Word → Word → Res) {rd : Nat} (hrd : rd < 32) (ra rb : Nat) :
    s.issue .main (opDivide f rd ra rb) =
      let c := s.dev.core .main
      let c' := c.retire.divided rd (f (c.dr ra) (c.dr rb)) s.dev.now
      if c.dr rb = 0 ∧ bit c.ctrl 0 = true then
        State.finish (State.exception { s with dev := s.dev.setCore .main c' } 2 0 0 c'.returnPoint)
      else s.coreIs .main c' := by
  let c := s.dev.core .main
  let c' := c.retire.divided rd (f (c.dr ra) (c.dr rb)) s.dev.now
  have hrun : (opDivide f rd ra rb).run .main c { s with dev := s.dev.stepped .main } =
      { s := { s with dev := s.dev.setCore .main c' }, ev := if c.dr rb = 0 ∧ bit c.ctrl 0 then .divZero else .done } := by
    rw [opDivide_run_main f hrd]
    simp only [Dev.stepped_main, Dev.core_setCore, Dev.setCore_setCore]
    rfl
  rw [State.issue_main_run (opDivide f rd ra rb) h rfl (by simp) (.inl rfl) (.inl rfl) hrun]
  dsimp only
  split
  · rfl
  · rw [State.mainEvent_done _ _ _ rfl]
    dsimp only
    rw [State.land_core h (by rw [Dev.core_setCore, Core.divided_pc])]
    rfl

/-- A division on Efyon-L: the result, the flags and the wait, whatever the divisor. -/
theorem State.divide_seq {x : Ctx} (h : s.CanIssue (.seq x) false) (f : Word → Word → Res) {rd : Nat} (hrd : rd < 32) (ra rb : Nat) :
    s.issue (.seq x) (opDivide f rd ra rb) =
      let c := s.dev.core (.seq x)
      s.coreIs (.seq x) (c.retire.divided rd (f (c.dr ra) (c.dr rb)) s.dev.now) := by
  let c := s.dev.core (.seq x)
  let r := f (c.dr ra) (c.dr rb)
  let late : Core := { c.retire with pend := [⟨rd, r.v, 0xFFFFFFFF, c.n + 1⟩, ⟨65, r.fl, r.mask, c.n + 1⟩], busy := some (2, s.dev.now + 32) }
  have hp : (s.dev.core (.seq x)).retire.pend = [] := (Core.retire_pend c).trans h.noPend
  have hrun : (opDivide f rd ra rb).run (.seq x) c { s with dev := s.dev.stepped (.seq x) } =
      { s := { s with dev := (s.dev.counted (.seq x)).setCore (.seq x) late } } := by
    simp only [opDivide, State.putRes, State.put, Dev.put_seq, State.updCore, Dev.updCore, Dev.stepped, Dev.core_setCore,
      Dev.setCore_setCore, hp, List.nil_append, List.cons_append, reduceCtorEq, false_and, if_false]
    rfl
  have hlate : late.settle = c.retire.divided rd r s.dev.now := by
    have hc : late = { { c.retire with busy := some (2, s.dev.now + 32) } with pend := late.pend } := rfl
    rw [hc, Core.settle_all _ _ (by simp [late])]
    have hd : ({ c.retire with busy := some (2, s.dev.now + 32), pend := [] } : Core) = { c.retire with busy := some (2, s.dev.now + 32) } := by
      rw [← show c.retire.pend = [] from hp]
    simp only [late, List.foldl_cons, List.foldl_nil, Core.apply_d _ hrd, Core.apply_flags, hd, Core.setD_busy]
    rfl
  rw [State.issue_seq_run (opDivide f rd ra rb) h rfl (by simp) (.inl rfl) (.inl rfl) hrun, Dev.seqEvent_done]
  dsimp only
  rw [Dev.setCore_seq, Dev.ctxSettle_setCtx, hlate]
  rfl

end

/-! ### The statements -/

/-- Settles O7: each instruction is an operation on two data registers and the flags, of which the unary ones use the first. -/
theorem aluResults : Obligations.AluResults := by
  unfold Obligations.AluResults
  intro e rd ra rb s h c a b put gives
  have op (f : Core → Word → Word → Res) := State.alu_next h f rd.isLt ra.val rb.val
  have un (f : Word → Res) := State.alu1_next h f rd.isLt ra.val
  have test (f : Core → Word → Word → Res) := State.alu_next h f (rd := 0) (by decide) ra.val rb.val
  refine ⟨op _, op _, op _, op _, op _, op _, un _, un _, un _, un _, test _, op _, op _, op _, op _, op _, op _, op _, op _, test _,
    op _, op _, op _, op _, op _, un _, un _, un _, ?sextb, ?sexth, ?zextb, ?zexth⟩
  case sextb => exact (un _).trans (congrArg (fun w => gives (.of w)) (extend_fld_signed a (by decide) rfl))
  case sexth => exact (un _).trans (congrArg (fun w => gives (.of w)) (extend_fld_signed a (by decide) rfl))
  case zextb => exact (un _).trans (congrArg (fun w => gives (.of w)) (extend_fld_masked a 0xFF rfl))
  case zexth => exact (un _).trans (congrArg (fun w => gives (.of w)) (extend_fld_masked a 0xFFFF rfl))

/-- Settles O8: each immediate instruction is an operation on a data register and the extended immediate, and a shift by an
immediate is an ALU operation. -/
theorem immediateResults : Obligations.ImmediateResults := by
  unfold Obligations.ImmediateResults
  intro e rd ra i k s c a sx zx put gives
  refine ⟨fun h => ?extended, fun h => ?shift⟩
  case extended =>
    have op (f : Word → Word → Res) (imm : Core → Word) := State.imm_next h f imm rd.isLt ra.val
    refine ⟨op .., op .., op .., op .., op .., State.imm_next h _ _ (by decide) ra.val, ?movi⟩
    case movi => exact congrArg _ (State.issue_setD (opMovi rd.val i) h rfl (fun _ => rfl) rfl rfl rd.isLt _ (fun _ => rfl))
  case shift =>
    have op (f : Word → Res) := State.alu1_next h f rd.isLt ra.val
    exact ⟨op _, op _, op _, op _⟩

/-- Settles O9: a product by its shape; MOVA writes one register and no flag. -/
theorem productResults : Obligations.ProductResults := by
  unfold Obligations.ProductResults
  intro e rd ra rb acc k s h c a b x gives
  refine ⟨State.product_next h .., State.product_next h .., State.product_next h .., State.product_next h .., ?mova, ?movas⟩
  case mova =>
    exact congrArg _ (State.issue_gets e (opMova rd.val acc.val k.val) h rfl (by simp) rfl rfl 2 (by omega) _ (by simp) (fun _ => rfl))
  case movas => exact congrArg _ (State.issue_res2 e (opMovas rd.val acc.val k.val) h rfl (by simp) rfl rfl rd.val _ (fun _ => rfl))

/-- Settles O10: each instruction puts one exact value into its accumulator. -/
theorem accumulatorResults : Obligations.AccumulatorResults := by
  unfold Obligations.AccumulatorResults
  intro e acc ra rb s h c a b x gives
  exact ⟨State.acc_next h .., State.acc_next h .., State.acc_next h .., State.acc_next h .., State.acc_next h ..⟩

/-- Settles O11: a division by its core; on Efyon-S the exception of vector 2 follows the result where TRAPDZ asks for it. -/
theorem divisionResults : Obligations.DivisionResults := by
  unfold Obligations.DivisionResults
  intro e rd ra rb s h c a b after gives traps dz
  have plain (hz : ¬dz) (f : Word → Word → Res) :
      (Host.Outcome.next (s.issue e (opDivide f rd.val ra.val rb.val)) : Host.Outcome State Fault Refusal) = gives (f a b) := by
    cases e with
    | main => exact congrArg _ ((State.divide_main h f rd.isLt ra.val rb.val).trans (if_neg fun hd => hz ⟨rfl, hd⟩))
    | seq x => exact congrArg _ (State.divide_seq h f rd.isLt ra.val rb.val)
  have trap (hz : dz) (f : Word → Word → Res) :
      (Host.Outcome.next (s.issue e (opDivide f rd.val ra.val rb.val)) : Host.Outcome State Fault Refusal) = traps (f a b) := by
    obtain ⟨rfl, hd⟩ := hz
    exact congrArg _ ((State.divide_main h f rd.isLt ra.val rb.val).trans (if_pos hd))
  exact ⟨fun hz => ⟨plain hz _, plain hz _, plain hz _, plain hz _, plain hz _⟩,
    fun hz => ⟨trap hz _, trap hz _, trap hz _, trap hz _, trap hz _⟩⟩

end Sys2Proof.Machine
end

section
/-! PROOFS. The edge cases of the arithmetic (R357) and the shift amounts (R358): what a division by 0, a saturated MOVAS and a shift
give, and the statements ArithmeticEdgeCases and ShiftAmounts assembled from them. -/

namespace Sys2Proof.Machine

/-! ### Saturation and division by 0 (R357) -/

theorem sat32_above {i : Int} (h : 2 ^ 31 ≤ i) : sat32 i = 2 ^ 31 - 1 := if_pos h

theorem sat32_below {i : Int} (h : i < -2 ^ 31) : sat32 i = -2 ^ 31 :=
  (if_neg (by simp only [Nat.add_one_sub_one, ge_iff_le]; omega)).trans (if_pos h)

/-- MOVAS of a value that does not fit takes the limit and sets Q. -/
theorem movasRes_saturated {x : BitVec 72} {i : Int} (hs : sat32 x.toInt = i) (hne : i ≠ x.toInt) :
    (movasRes x 0).v = wInt i ∧ (movasRes x 0).fl = 0x10 := by
  simp [movasRes, hs, hne, fQ, w32]

/-- Z and N of the result, no V, and DZ; the flags of R359 alone change. -/
theorem zeroDiv_flags (w : Word) :
    (zeroDiv w).fl.getLsbD 5 = true ∧ (zeroDiv w).fl.getLsbD 3 = false ∧ (zeroDiv w).mask = 0x2B ∧
      ((zeroDiv w).fl.getLsbD 0 = true ↔ (zeroDiv w).v = 0) ∧ (zeroDiv w).fl.getLsbD 1 = (zeroDiv w).v.msb := by
  have hfl : ∀ z n : Bool, let fl := w32 (z.toNat * fZ + n.toNat * fN + 0 * fC + 0 * fV + 0 * fQ + 1 * fDZ)
      fl.getLsbD 5 = true ∧ fl.getLsbD 3 = false ∧ fl.getLsbD 0 = z ∧ fl.getLsbD 1 = n := by decide
  obtain ⟨hdz, hv, hz, hn⟩ := hfl (decide (w = 0)) w.msb
  refine ⟨hdz, hv, rfl, ?_, hn⟩
  show (zeroDiv w).fl.getLsbD 0 = true ↔ w = 0
  rw [← decide_eq_true_iff (p := w = 0)]
  exact hz ▸ Iff.rfl

/-- A division by 0 is one of R357's, whatever the instruction. -/
theorem divisions_by_zero (a : Word) : ∀ r ∈ [divRes a 0, divuRes a 0, remRes a 0, remuRes a 0, divsRes a 0], ∃ w, r = zeroDiv w := by
  simp only [List.forall_mem_cons, List.not_mem_nil, false_implies, implies_true, and_true]
  exact ⟨⟨_, rfl⟩, ⟨_, rfl⟩, ⟨_, rfl⟩, ⟨_, rfl⟩, ⟨_, rfl⟩⟩

/-- Settles O13: the table's closed rows by evaluation, a division by 0 by its flags, a MOVAS by the side on which it saturates, and
the wrapping MAC by its exact sum. -/
theorem arithmeticEdgeCases : Obligations.ArithmeticEdgeCases := by
  unfold Obligations.ArithmeticEdgeCases
  refine ⟨by decide, by decide, by decide, by decide, by decide, by decide, by decide, by decide, by decide, by decide, by decide, by decide,
    by decide, by decide, by decide, by decide, by decide, by decide, by decide, by decide, by decide, by decide, by decide, by decide,
    fun a => ⟨rfl, rfl, rfl, rfl, rfl, fun r hr => ?byZero⟩, fun x hx => ?above, fun x hx => ?below,
    fun e acc ra rb s h hx ha hb => ?wraps, by decide, by decide⟩
  case byZero =>
    obtain ⟨w, rfl⟩ := divisions_by_zero a r hr
    exact zeroDiv_flags w
  case above => exact movasRes_saturated (sat32_above hx) (by omega)
  case below => exact movasRes_saturated (sat32_below hx) (by omega)
  case wraps =>
    refine (State.acc_next h (fun x a b => x + a.toInt * b.toInt) acc.val ra.val rb.val).trans ?_
    dsimp only
    rw [hx, ha, hb]
    rfl

/-! ### Shifts (R358) -/

/-- C as the operation names it. -/
theorem Res.of_carry (r : Word) (c : Bool) (v : Option Bool) (q dz : Bool) : (Res.of r (some c) v q dz).fl.getLsbD 2 = c := by
  have hfl : ∀ z n c v q dz : Bool,
      (w32 (z.toNat * fZ + n.toNat * fN + c.toNat * fC + v.toNat * fV + q.toNat * fQ + dz.toNat * fDZ)).getLsbD 2 = c := by decide
  exact hfl _ _ _ _ _ _

section
variable (a : Word) {k : Nat}

theorem shlRes_pos (h : 1 ≤ k) : (shlRes a k).v = (if k < 32 then a <<< k else 0) ∧
    (shlRes a k).fl.getLsbD 2 = (decide (k ≤ 32) && a.getLsbD (32 - k)) := by
  rw [shlRes, if_neg (by omega)]
  exact ⟨rfl, Res.of_carry ..⟩

theorem shrRes_pos (h : 1 ≤ k) : (shrRes a k).v = (if k < 32 then a >>> k else 0) ∧
    (shrRes a k).fl.getLsbD 2 = (decide (k ≤ 32) && a.getLsbD (k - 1)) := by
  rw [shrRes, if_neg (by omega)]
  exact ⟨rfl, Res.of_carry ..⟩

theorem sarRes_pos (h : 1 ≤ k) : (sarRes a k).v = a.sshiftRight (min k 32) ∧
    (sarRes a k).fl.getLsbD 2 = (if k < 32 then a.getLsbD (k - 1) else a.msb) := by
  rw [sarRes, if_neg (by omega)]
  exact ⟨rfl, Res.of_carry ..⟩

end

/-- Shifted all the way, every bit is the sign. -/
theorem sshiftRight_full (a : Word) : a.sshiftRight 32 = if a.getLsbD 31 then 0xFFFFFFFF else 0 := by
  show _ = if a.getLsbD 31 then BitVec.allOnes 32 else 0
  have hmsb : a.msb = a.getLsbD 31 := rfl
  apply BitVec.eq_of_getLsbD_eq
  intro i hi
  rw [BitVec.getLsbD_sshiftRight, hmsb]
  cases a.getLsbD 31
  · simp [hi]
  · rw [if_pos rfl, BitVec.getLsbD_allOnes, if_neg (by omega)]
    simp [hi]

/-- Settles O14: each instruction takes its amount from the low 8 bits; the results and C by the amount's range. -/
theorem shiftAmounts : Obligations.ShiftAmounts := by
  unfold Obligations.ShiftAmounts
  refine ⟨fun e rd ra rb s h => ?issue, fun a k _ => ⟨⟨rfl, rfl, rfl, rfl, rfl, rfl⟩, fun h1 h2 => ?low, ?word, fun h => ?high,
    fun h => ?sign, rfl, rfl, rfl, rfl⟩⟩
  case issue =>
    have op (f : Core → Word → Word → Res) := State.alu_next h f rd.isLt ra.val rb.val
    exact ⟨op _, op _, op _, op _, op _⟩
  case low =>
    obtain ⟨hlv, hlc⟩ := shlRes_pos a h1
    obtain ⟨hrv, hrc⟩ := shrRes_pos a h1
    obtain ⟨hav, hac⟩ := sarRes_pos a h1
    simp only [hlv, hlc, hrv, hrc, hav, hac, h2, h2.le, if_true, decide_true, Bool.true_and, Nat.min_eq_left, and_self]
  case word =>
    rintro rfl
    obtain ⟨hlv, hlc⟩ := shlRes_pos a (k := 32) (by decide)
    obtain ⟨hrv, hrc⟩ := shrRes_pos a (k := 32) (by decide)
    exact ⟨hlv, hlc, hrv, hrc⟩
  case high =>
    obtain ⟨hlv, hlc⟩ := shlRes_pos a (k := k) (by omega)
    obtain ⟨hrv, hrc⟩ := shrRes_pos a (k := k) (by omega)
    have h32 : ¬ k < 32 := by omega
    have h33 : ¬ k ≤ 32 := by omega
    simp only [hlv, hlc, hrv, hrc, h32, h33, if_false, decide_false, Bool.false_and, and_self]
  case sign =>
    obtain ⟨hav, hac⟩ := sarRes_pos a (k := k) (by omega)
    refine ⟨?_, hac.trans (if_neg (by omega))⟩
    rw [hav, Nat.min_eq_right h, sshiftRight_full]

end Sys2Proof.Machine
end

section
/-! PROOFS. Moves, jumps, skips, prefixes and stops: what the unit in progress becomes, what each instruction issues to, and the
statements MoveResults, JumpResults, SkipResults, PrefixResults and StopResults assembled from them. -/

namespace Sys2Proof.Machine

/-! ### The end of an execution -/

/-- The last execution of a unit ends it. -/
theorem Core.retire_ends {c : Core} (h : ∀ k, c.rep ≠ some (k + 2)) :
    c.retire = Core.unitEnd { c with n := c.n + 1, again := none, busy := none } := by
  unfold Core.retire
  dsimp only
  split
  · rename_i k hk
    exact absurd hk (h k)
  · rfl

/-- An execution before the last leaves the unit in progress. -/
theorem Core.retire_repeats {c : Core} {k : Nat} (h : c.rep = some (k + 2)) :
    c.retire = { c with n := c.n + 1, again := none, busy := none, rep := some (k + 1) } := by
  simp only [Core.retire, h]

@[simp] theorem Core.retire_busy (c : Core) : c.retire.busy = none := by
  unfold Core.retire; dsimp only; split <;> rfl

@[simp] theorem Core.retire_sent (c : Core) : c.retire.sent = c.sent := by
  unfold Core.retire; dsimp only; split <;> rfl

/-! ### Moves (R332, R338) -/

/-- What a core waits for behind SYNC: the last write on its way, if it has not taken effect. -/
def Core.syncWait (c : Core) (now : Time) : Option (Nat × Time) :=
  match c.sent with
  | some t => if now.toNat < t.toNat then some (4, t) else none
  | none => none

theorem Core.syncs_of_idle {c : Core} (h : c.busy = none) (now : Time) : c.syncs now = { c with busy := c.syncWait now } := by
  have hidle : c = { c with busy := none } := by rw [← h]
  unfold Core.syncs Core.syncWait
  cases hs : c.sent with
  | none =>
    dsimp only
    rw [← hs]
    exact hidle
  | some t =>
    dsimp only
    split
    · rw [← hs]
    · rw [← hs]
      exact hidle

theorem Core.retire_syncWait (c : Core) (now : Time) : c.retire.syncWait now = c.syncWait now := by
  rw [Core.syncWait, Core.syncWait, Core.retire_sent]

theorem Core.retire_syncs (c : Core) (now : Time) : c.retire.syncs now = { c.retire with busy := c.syncWait now } := by
  rw [Core.syncs_of_idle c.retire_busy, Core.retire_syncWait]

theorem Core.syncs_pc (c : Core) (now : Time) : (c.syncs now).pc = c.pc := by
  unfold Core.syncs
  split
  · split <;> rfl
  · rfl

theorem Core.syncs_pend (c : Core) (now : Time) : (c.syncs now).pend = c.pend := by
  unfold Core.syncs
  split
  · split <;> rfl
  · rfl

/-- A write of every flag. -/
theorem Core.apply_allFlags (c : Core) (v : Word) (n : Nat) : c.apply ⟨65, v, 0x3F, n⟩ = { c with flags := v.truncate 6 } := by
  have hkeep : ~~~((0x3F : Word).truncate 6) = 0#6 := by decide
  have hall : (v &&& 0x3F).truncate 6 = v.truncate 6 := (BitVec.setWidth_and ..).trans BitVec.and_allOnes
  rw [Core.apply_flags, hkeep, hall, BitVec.and_zero, BitVec.zero_or]

/-- LTIME as it is read into a data register (R72). -/
theorem State.issue_ltime {s : State} {e : CoreId} (h : s.CanIssue e false) (rd : Nat) {y a : Nat}
    (hy : ∀ d : Dev, d.special e (s.dev.core e) y = d.regRead (corePath e) a) :
    s.issue e (opMovfs rd y) = s.acts e (fun d =>
      let r := d.regRead (corePath e) a
      r.1.put e (s.dev.core e).n rd r.2) :=
  State.issue_acts (opMovfs rd y) h rfl (by simp) (.inl rfl) (.inl rfl) _ (fun t => by simp only [opMovfs, hy]; rfl)

/-- Settles O15: each move by the one register that it writes and the distance at which it is seen. CTRL takes bit 0 alone
(notes/assumptions/12), MOVX and MOVS to lc are seen at distance 2 by every use (notes/assumptions/17), LT_LO and LT_HI use the latch of
LTIME_LO (notes/assumptions/20), and SYNC waits for what is on its way (notes/assumptions/16 and 104). -/
theorem moveResults : Obligations.MoveResults := by
  unfold Obligations.MoveResults
  intro e rd ra x s h c a gives
  have copies (op : Op) {v : Word} (hok : op.ok = true) (hj : op.jump = false) (hr : op.noRep = false)
      (hrun : ∀ t : State, op.run e c t = { s := t.put e c rd.val v }) :
      (Host.Outcome.next (s.issue e op) : Host.Outcome State Fault Refusal) = gives (c.retire.setD rd.val v) :=
    congrArg _ (State.issue_setD op h hok (by simp) hj hr rd.isLt v hrun)
  have reads {y : SReg} {v : Word} (hv : ∀ d : Dev, d.special e c y.val = (d, v)) :
      exec (.movfs e rd y) s = gives (c.retire.setD rd.val v) :=
    copies (opMovfs rd.val y.val) rfl rfl rfl (fun t => by simp only [opMovfs, hv])
  have idle (op : Op) (hok : op.ok = true) (hj : op.jump = false) (hr : op.noRep = false) (hrun : ∀ t : State, op.run e c t = { s := t }) :
      (Host.Outcome.next (s.issue e op) : Host.Outcome State Fault Refusal) = gives c.retire :=
    congrArg _ (State.issue_retire op h hok (by simp) (.inl hj) (.inl hr) hrun)
  have late (op : Op) {reg : Nat} {v : Word} (hok : op.ok = true) (hj : op.jump = false) (hr : op.noRep = false)
      (hrun : ∀ t : State, op.run e c t = { s := t.put e c reg v 2 }) :
      (Host.Outcome.next (s.issue e op) : Host.Outcome State Fault Refusal) = gives (c.retire.gets e c.n 2 [(reg, v, 0xFFFFFFFF)]) :=
    congrArg _ (State.issue_gets e op h hok (by simp) hj hr 2 (by omega) _ (by simp) hrun)
  refine ⟨idle opNop rfl rfl rfl (fun _ => rfl), ?sync, late (opMovx x.val ra.val) rfl rfl rfl (fun _ => rfl),
    copies (opMovfx rd.val x.val) rfl rfl rfl (fun _ => rfl), late (opMovs 0 ra.val) rfl rfl rfl (fun _ => rfl), ?flags, ?ctrl,
    idle (opMovs 3 ra.val) rfl rfl rfl (fun _ => rfl), idle (opMovs 4 ra.val) rfl rfl rfl (fun _ => rfl),
    idle (opMovs 5 ra.val) rfl rfl rfl (fun _ => rfl), reads (fun _ => rfl), reads (fun _ => rfl), ?readCtrl, ?readId,
    congrArg _ (State.issue_ltime h rd.val (y := 4) (fun _ => rfl)), congrArg _ (State.issue_ltime h rd.val (y := 5) (fun _ => rfl))⟩
  case sync =>
    exact congrArg _ ((State.issue_upd opSync h rfl (by simp) rfl rfl (g := fun t c => c.syncs t) (fun _ _ => Core.syncs_pc _ _)
      (fun _ _ => Core.syncs_pend _ _) (fun _ => rfl)).trans (congrArg _ (Core.retire_syncs c s.dev.now)))
  case flags =>
    refine congrArg _ ((State.issue_reg (opMovs 1 ra.val) h rfl rfl rfl 65 a 0x3F (fun _ => rfl)).trans ?_)
    rw [Core.apply_allFlags]
  case ctrl =>
    cases e with
    | main => exact congrArg _ (State.issue_upd (opMovs 2 ra.val) h rfl (by simp) rfl rfl (g := fun _ c => { c with ctrl := a &&& 1 })
        (fun _ _ => rfl) (fun _ _ => rfl) (fun _ => rfl))
    | seq y => exact idle (opMovs 2 ra.val) rfl rfl rfl (fun _ => rfl)
  case readCtrl => cases e <;> exact reads (fun _ => rfl)
  case readId => cases e <;> exact reads (fun _ => rfl)

/-! ### Jumps (R348, R380) -/

/-- A target below the range of R380, or an exit token within a handler of its kind. -/
theorem Esc.goodTarget {e : Esc} {t : Word} (h : t.toNat < 0xFFFFFF00 ∨ (t = 0xFFFFFFF0 ∧ e.inNormal = true) ∨
    (t = 0xFFFFFFF4 ∧ e.inFast = true)) : e.badTarget t = false := by
  rcases h with h | ⟨rfl, h⟩ | ⟨rfl, h⟩
  · exact if_pos h
  · simp [Esc.badTarget, normalToken, h]
  · simp [Esc.badTarget, normalToken, fastToken, h]

/-- Any other target of that range. -/
theorem Esc.bad_of_range {e : Esc} {t : Word} (h : 0xFFFFFF00 ≤ t.toNat) (hn : t = 0xFFFFFFF0 → e.inNormal = false)
    (hf : t = 0xFFFFFFF4 → e.inFast = false) : e.badTarget t = true := by
  rw [Esc.badTarget, if_neg (by omega)]
  split
  · rename_i ht
    rw [hn ht]; rfl
  · split
    · rename_i ht
      rw [hf ht]; rfl
    · rfl

/-- What a jump of Efyon-S asks for, behind a link that leaves the handlers in progress alone. -/
theorem State.mainEvent_badJump {s u : State} {c : Core} {t : Word} (hu : u.dev.esc.badTarget t = true) :
    s.mainEvent c { s := u, ev := .jump t } = s.exception 4 0 t { pc := c.unitAt, rep := c.left, slot := c.slot } :=
  if_pos hu

/-- A jump to a target that R380 turns away is a bus error, before which nothing of the jump has happened. -/
theorem State.issue_badJump {s : State} (link : Option Nat) (t : Core → Word) (h : s.CanIssue .main false)
    (hs : (s.dev.core .main).slot = none) (hr : (s.dev.core .main).rep = none)
    (ht : s.dev.esc.badTarget (t (s.dev.core .main)) = true) :
    s.issue .main (opJump link t) = State.finish
      (s.exception 4 0 (t (s.dev.core .main)) { pc := (s.dev.core .main).unitAt, rep := (s.dev.core .main).left }) := by
  rw [State.issue_main_run (opJump link t) h rfl (by simp) (.inr hs) (.inr hr) rfl, State.mainEvent_badJump, hs]
  cases link <;> exact ht

/-- Settles O17: each jump by its target, which R380 admits or turns away (for BR and CALL too, notes/assumptions/13); the target
follows the delay slot, whose unit ends with its last execution. -/
theorem jumpResults : Obligations.JumpResults := by
  unfold Obligations.JumpResults
  intro e rd ra disp s h hs hr c a t gives
  have jumps (link : Option Nat) (target : Core → Word) (hl : ∀ r, link = some r → r < 32)
      (ht : e = .main → s.dev.esc.badTarget (target c) = false) :=
    congrArg (Host.Outcome.next (φ := Fault) (ρ := Refusal)) (State.issue_jump link target h hs hr ht hl)
  have faults (link : Option Nat) (target : Core → Word) (he : e = .main) (ht : s.dev.esc.badTarget (target c) = true) :
      Host.Outcome.next (φ := Fault) (ρ := Refusal) (s.issue e (opJump link target)) =
        .next (State.finish (s.exception 4 0 (target c) { pc := c.unitAt, rep := c.left })) := by
    subst he
    exact congrArg _ (State.issue_badJump link target h hs hr ht)
  refine ⟨fun ha => ?register, fun ht => ?displacement, fun he hrange hn hf => ?away, fun c' ht hrep => ?follows⟩
  case register =>
    have good (he : e = .main) : s.dev.esc.badTarget a = false := Esc.goodTarget (by tauto)
    exact ⟨jumps none (·.dr ra.val) (by simp) good, jumps (some rd.val) (·.dr ra.val) (by simp) good⟩
  case displacement =>
    have good (he : e = .main) : s.dev.esc.badTarget t = false := Esc.goodTarget (by tauto)
    exact ⟨jumps none (·.branch disp) (by simp) good, jumps (some 31) (·.branch disp) (by simp) good⟩
  case away =>
    have bad := Esc.bad_of_range hrange hn hf
    exact ⟨faults none (·.dr ra.val) he bad, faults (some rd.val) (·.dr ra.val) he bad⟩
  case follows =>
    rw [Core.retire_ends (by simp [hrep]), Core.unitEnd]
    exact ⟨by rw [ht]; rfl, rfl⟩

/-! ### Units that do not run (R336, R347, R350) -/

/-- A core that can issue does so. -/
theorem State.issue_ready {s : State} {e : CoreId} (ha : s.dev.alive = true) (hready : s.dev.ready e = true) (op : Op) :
    s.issue e op = (s.issueRaw e op).finish := by
  rw [State.issue, ha, hready, Bool.and_self, if_pos rfl]

section
variable {s : State} (op : Op)

/-- No entry is in progress, so that issuing completes none. -/
theorem State.enterDone_none (h : s.dev.esc.entering = false) : s.enterDone = s := by
  simp [State.enterDone, h]

section
variable (hent : s.dev.esc.entering = false)
include hent

theorem State.mainIssue_skipped (hskip : (s.dev.core .main).skip = true) :
    s.mainIssue op = { s with dev := s.dev.setCore .main (s.dev.core .main).pass } := by
  unfold State.mainIssue
  rw [State.enterDone_none hent]
  exact if_pos hskip

variable (hskip : (s.dev.core .main).skip = false) (hfetch : s.mainFetchBad (s.dev.core .main).pc = false)
include hskip hfetch

theorem State.mainIssue_bad (hbad : op.bad (s.dev.core .main) = true) :
    s.mainIssue op =
      let c := s.dev.core .main
      s.exception 1 0 0 { pc := c.unitAt, rep := c.left, slot := c.slot } := by
  unfold State.mainIssue
  rw [State.enterDone_none hent]
  exact (if_neg (ne_true_of_eq_false hskip)).trans ((if_neg (ne_true_of_eq_false hfetch)).trans
    (if_pos ((Bool.or_eq_true _ _).mpr (.inl hbad))))

theorem State.mainIssue_zero (hbad : op.bad (s.dev.core .main) = false) (hop : op.noRep = false)
    (hrep : (s.dev.core .main).rep = some 0) :
    s.mainIssue op = State.land 4 { s with dev := s.dev.setCore .main (s.dev.core .main).pass } := by
  unfold State.mainIssue
  rw [State.enterDone_none hent]
  have hlegal : ¬(op.bad (s.dev.core .main) || (op.noRep && (s.dev.core .main).rep.isSome)) = true := by simp [hbad, hop]
  exact (if_neg (ne_true_of_eq_false hskip)).trans ((if_neg (ne_true_of_eq_false hfetch)).trans
    ((if_neg hlegal).trans (if_pos hrep)))

end

section
variable {x : Ctx} (hfetch : s.dev.seqFetchBad x.val (s.dev.core (.seq x)).pc = false)
include hfetch

theorem State.seqIssue_skipped (hskip : (s.dev.core (.seq x)).skip = true) :
    s.seqIssue x op = { s with dev := (s.dev.setCtx x.val (s.dev.core (.seq x)).pass).ctxSettle x.val } :=
  (if_neg (ne_true_of_eq_false hfetch)).trans (if_pos hskip)

variable (hskip : (s.dev.core (.seq x)).skip = false)
include hskip

theorem State.seqIssue_bad (hbad : op.bad (s.dev.core (.seq x)) = true) :
    s.seqIssue x op =
      let c := s.dev.core (.seq x)
      { s with dev := ((s.dev.stepped (.seq x)).ctxSettle x.val).seqIll x.val c.unitAt } :=
  (if_neg (ne_true_of_eq_false hfetch)).trans ((if_neg (ne_true_of_eq_false hskip)).trans (if_pos hbad))

theorem State.seqIssue_zero (hbad : op.bad (s.dev.core (.seq x)) = false) (hop : op.noRep = false)
    (hrep : (s.dev.core (.seq x)).rep = some 0) :
    s.seqIssue x op = { s with dev := ((s.dev.counted (.seq x)).setCtx x.val (s.dev.core (.seq x)).pass).ctxSettle x.val } := by
  have hzero : (decide ((s.dev.core (.seq x)).rep = some 0) && !op.noRep) = true := by simp [hrep, hop]
  exact (if_neg (ne_true_of_eq_false hfetch)).trans ((if_neg (ne_true_of_eq_false hskip)).trans
    ((if_neg (ne_true_of_eq_false hbad)).trans (if_pos hzero)))

end

end

/-! ### Skips (R347) -/

/-- The conditions in the order of their codes, on Z, N, C, V and Q. -/
theorem condHolds_getD (f : BitVec 6) (cc : Cond) :
    let z := f.getLsbD 0
    let n := f.getLsbD 1
    let k := f.getLsbD 2
    let v := f.getLsbD 3
    condHolds f cc.val = [z, !z, k, !k, n, !n, v, !v, k && !z, !k || z, n == v, n != v, !z && n == v, z || n != v, true,
      f.getLsbD 4].getD cc.val false := by
  fin_cases cc <;> rfl

theorem Dev.seqEvent_skip (d : Dev) (x : Nat) (pc : Word) : d.seqEvent x pc .skip = d.setCtx x { d.ctx x with skip := true } := rfl

/-- A SKIP marks the next unit or leaves it unmarked. -/
theorem State.issue_skip {s : State} {e : CoreId} (h : s.CanIssue e false) (hs : (s.dev.core e).slot = none)
    (hr : (s.dev.core e).rep = none) (cc : Nat) :
    s.issue e (opSkip cc) = s.coreIs e { (s.dev.core e).retire with skip := condHolds (s.dev.core e).flags cc } := by
  have hfalse : (s.dev.core e).retire = { (s.dev.core e).retire with skip := false } := by
    rw [Core.retire_ends (by simp [hr]), Core.unitEnd]
  cases hcc : condHolds (s.dev.core e).flags cc with
  | false =>
    rw [← hfalse]
    exact State.issue_retire (opSkip cc) h rfl (by simp) (.inr hs) (.inr hr) (fun t => by simp [opSkip, hcc])
  | true =>
    have hrun (t : State) : (opSkip cc).run e (s.dev.core e) t = { s := t, ev := .skip } := by simp [opSkip, hcc]
    cases e with
    | main =>
      rw [State.issue_main_run (opSkip cc) h rfl (by simp) (.inr hs) (.inr hr) (hrun _)]
      rfl
    | seq x =>
      have hp : (s.dev.core (.seq x)).retire.pend = [] := by rw [Core.retire_pend, h.noPend]
      rw [State.issue_seq_run (opSkip cc) h rfl (by simp) (.inr hs) (.inr hr) (hrun _)]
      dsimp only [Dev.stepped]
      rw [Dev.setCore_seq, Dev.ctxSettle_setCtx, Core.settle_nil hp, Dev.seqEvent_skip, Dev.ctx_setCtx, Dev.setCtx_setCtx]
      rfl

/-- A unit that is skipped counts, whatever it is. -/
theorem State.issue_skipped {s : State} {e : CoreId} (op : Op) (ha : s.dev.alive = true) (hready : s.dev.ready e = true)
    (hskip : (s.dev.core e).skip = true) (hpend : (s.dev.core e).pend = []) (hent : e = .main → s.dev.esc.entering = false)
    (hfetch : ∀ x, e = .seq x → s.dev.seqFetchBad x.val (s.dev.ctx x.val).pc = false) :
    s.issue e op = State.finish { s with dev := s.dev.setCore e (s.dev.core e).pass } := by
  rw [State.issue_ready ha hready]
  cases e with
  | main => exact congrArg _ (State.mainIssue_skipped op (hent rfl) hskip)
  | seq x =>
    refine congrArg _ ((State.seqIssue_skipped op (hfetch x rfl) hskip).trans ?_)
    rw [Dev.ctxSettle_setCtx, Core.settle_nil (c := Core.pass _) hpend]
    rfl

/-- Settles O18: a SKIP by its condition, and a skipped unit by what it passes over. Such a unit counts for distances and not in ISSUED
(notes/assumptions/8). -/
theorem skipResults : Obligations.SkipResults := by
  unfold Obligations.SkipResults
  refine fun e cc s => ⟨fun h hs hr => ?marks, fun rd ra rb ha hready hskip hpend hent hfetch => ⟨?passes, rfl, rfl, rfl, rfl, rfl, rfl⟩⟩
  case marks =>
    exact congrArg _ ((State.issue_skip h hs hr cc.val).trans
      (congrArg (fun b => s.coreIs e { (s.dev.core e).retire with skip := b }) (condHolds_getD _ cc)))
  case passes => exact congrArg _ (State.issue_skipped (opAdd rd.val ra.val rb.val) ha hready hskip hpend hent hfetch)

/-! ### Prefixes (R335, R350, R351) -/

/-- A prefix joins the unit, unless it is a REP behind REP. -/
theorem State.prefixed_joins {s : State} {e : CoreId} (h : s.CanIssue e false) {rep : Bool} (f : Core → Core)
    (hrep : rep = true → (s.dev.core e).rep = none) :
    s.prefixed e rep f = State.finish { s with
      dev := let c := s.dev.core e
             s.dev.setCore e { f c with pre := some c.unitAt, pc := c.pc + 4 } } := by
  have himx : ¬(s.dev.core e).imx.isSome = true := by simp [h.noImx]
  have hfirst : ¬(rep && (s.dev.core e).rep.isSome && !(s.dev.core e).skip) = true := by
    cases rep with
    | false => simp
    | true => simp [hrep rfl]
  rw [State.prefixed, h.alive, h.ready, Bool.and_self, if_pos rfl]
  unfold State.prefixRaw
  cases e with
  | main =>
    have hgood : ¬(s.mainFetchBad (s.dev.core .main).pc && !(s.dev.core .main).skip ||
        (rep && (s.dev.core .main).rep.isSome && !(s.dev.core .main).skip)) = true := by
      rw [h.fetch_main, Bool.false_and, Bool.false_or]
      exact hfirst
    dsimp only
    rw [State.enterDone_none h.notEntering]
    exact congrArg _ ((if_neg himx).trans (if_neg hgood))
  | seq x =>
    exact congrArg _ ((if_neg himx).trans ((if_neg (ne_true_of_eq_false h.fetch_seq)).trans (if_neg hfirst)))

/-- A unit that REP repeats no times passes over its instruction, which counts on Efyon-L. -/
theorem State.issue_zero {s : State} {e : CoreId} (op : Op) (ha : s.dev.alive = true) (hready : s.dev.ready e = true)
    (hskip : (s.dev.core e).skip = false) (hrep : (s.dev.core e).rep = some 0) (hbad : op.bad (s.dev.core e) = false)
    (hop : op.noRep = false)
    (hmain : e = .main →
      s.dev.esc.entering = false ∧ s.mainFetchBad (s.dev.core e).pc = false ∧ (s.dev.core e).pass.pc.toNat < 0xFFFFFF00)
    (hseq : ∀ x, e = .seq x → s.dev.seqFetchBad x.val (s.dev.core e).pc = false ∧ (s.dev.core e).pend = []) :
    s.issue e op = s.coreIs e (s.dev.core e).pass := by
  rw [State.issue_ready ha hready]
  cases e with
  | main =>
    obtain ⟨hent, hfetch, hlow⟩ := hmain rfl
    refine congrArg _ ((State.mainIssue_zero op hent hskip hfetch hbad hop hrep).trans (State.land_id ?_ 4))
    rw [← Dev.core_main, Dev.core_setCore]
    exact hlow
  | seq x =>
    obtain ⟨hfetch, hpend⟩ := hseq x rfl
    refine congrArg _ ((State.seqIssue_zero op hfetch hskip hbad hop hrep).trans ?_)
    rw [Dev.ctxSettle_setCtx, Core.settle_nil (c := Core.pass _) hpend]
    rfl

/-- A core is ready by its wait alone, of all its registers. -/
theorem Dev.ready_setCore (d : Dev) (e : CoreId) {c : Core} (hw : c.wait = (d.core e).wait) :
    (d.setCore e c).ready e = d.ready e := by
  cases e with
  | main => simp only [Dev.ready, Dev.setCore_main, Dev.setEsc_esc, hw, Dev.core_main]
  | seq x =>
    simp only [Dev.ready, Dev.setCore_seq, Dev.ctx_setCtx, hw]
    rfl

/-- What a core held before an instruction does not matter behind it. -/
theorem State.coreIs_setCore (s : State) (e : CoreId) (c c' : Core) :
    State.coreIs { s with dev := s.dev.setCore e c } e c' = s.coreIs e c' := by
  have hcounted : ((s.dev.setCore e c).counted e).setCore e c' = (s.dev.counted e).setCore e c' := by
    rw [← Dev.setCore_setCore (s.dev.counted e) e c c']
    cases e <;> rfl
  unfold State.coreIs
  rw [hcounted]

/-- The core with a prefix that repeats its unit no times. -/
def Core.repeatsNone (c : Core) : Core := { c with rep := some 0 }

/-- A unit that could be issued, behind a REP of no executions. -/
theorem State.issue_repeatsNone {s : State} {e : CoreId} (h : s.CanIssue e true) (hrep : (s.dev.core e).rep = none)
    (himx : (s.dev.core e).imx = none) (op : Op) (hok : op.ok = true) (hj : op.jump = false) (hop : op.noRep = false) :
    State.issue { s with dev := s.dev.setCore e (s.dev.core e).repeatsNone } e op = s.coreIs e (s.dev.core e).repeatsNone.pass := by
  have hcore := Dev.core_setCore s.dev e (s.dev.core e).repeatsNone
  have hbad : op.bad (s.dev.core e).repeatsNone = false := by simp [Op.bad, Core.repeatsNone, hok, himx, hj]
  have halive : (s.dev.setCore e (s.dev.core e).repeatsNone).alive = true := by cases e <;> exact h.alive
  have hready : (s.dev.setCore e (s.dev.core e).repeatsNone).ready e = true := by
    rw [Dev.ready_setCore _ _ (by rfl)]
    exact h.ready
  refine (State.issue_zero op halive hready (by rw [hcore]; exact h.noSkip) (by rw [hcore]; rfl) (by rw [hcore]; exact hbad) hop
    ?onMain ?onSeq).trans (by rw [hcore, State.coreIs_setCore])
  case onMain =>
    rintro rfl
    have hpc : (s.dev.core .main).retire.pc = (s.dev.core .main).repeatsNone.pass.pc := by
      rw [Core.retire_ends (by simp [hrep])]
      rfl
    rw [hcore]
    exact ⟨h.notEntering, h.fetch_main, hpc ▸ h.pc_low⟩
  case onSeq =>
    rintro x rfl
    rw [hcore]
    exact ⟨h.fetch_seq, h.noPend⟩

/-- Settles O19: a prefix by what joins the unit, an execution by the count that is left, and a count of 0 by what passes over the
unit. -/
theorem prefixResults : Obligations.PrefixResults := by
  unfold Obligations.PrefixResults
  intro e n v s c on
  refine ⟨fun h => ⟨fun hr => ⟨?repN, ?repLc⟩, ?imx⟩, fun c' k hk => ?goesOn, fun c' hk => ?last, fun rd ra rb h hr hi => ?zero⟩
  case repN => exact congrArg _ (State.prefixed_joins h (·.repeats (n.val + 1)) (fun _ => hr))
  case repLc => exact congrArg _ (State.prefixed_joins h (fun c => c.repeats c.lc.toNat) (fun _ => hr))
  case imx => exact congrArg _ (State.prefixed_joins h (rep := false) (fun c => { c with imx := some v }) (by simp))
  case goesOn =>
    rw [Core.retire_repeats hk]
    exact ⟨rfl, rfl, rfl, rfl⟩
  case last =>
    rw [Core.retire_ends (by simp [hk])]
    exact ⟨rfl, rfl⟩
  case zero => exact congrArg _ (State.issue_repeatsNone h hr hi (opAdd rd.val ra.val rb.val) rfl rfl rfl)

/-! ### HALT, TRAP and WAITPH (R355, R356, R361) -/

/-- An event of Efyon-S behind an instruction that has only counted. -/
theorem State.issue_main_event {s : State} (h : s.CanIssue .main false) (ev : Ev) :
    s.issue .main { run := fun _ _ s => { s := s, ev := ev } } =
      (s.mainEvent (s.dev.core .main) { s := { s with dev := s.dev.stepped .main }, ev := ev }).finish :=
  State.issue_main_run _ h rfl (by simp) (.inl rfl) (.inl rfl) rfl

/-- An event of a context behind an instruction that has only counted. -/
theorem State.issue_seq_event {s : State} {x : Ctx} (h : s.CanIssue (.seq x) false) (ev : Ev) :
    s.issue (.seq x) { run := fun _ _ s => { s := s, ev := ev } } =
      State.finish { s with dev := (s.dev.stepped (.seq x)).seqEvent x.val (s.dev.core (.seq x)).unitAt ev } := by
  have hp : (s.dev.core (.seq x)).retire.pend = [] := by rw [Core.retire_pend, h.noPend]
  rw [State.issue_seq_run _ h rfl (by simp) (.inl rfl) (.inl rfl) rfl]
  dsimp only [Dev.stepped]
  rw [Dev.setCore_seq, Dev.ctxSettle_setCtx, Core.settle_nil hp]

/-- A core that waits for a mark from its arm cycle on. -/
def Core.waiting (c : Core) (before : Core) (m : Nat) (arm : Time) : Core :=
  { c with wait := some (m, arm), waitAt := before.unitAt, waitRep := before.left, waitDs := before.slot.isSome }

/-- A WAITPH where no wait has been left, or the innermost was left before the handlers now in progress, waits anew. -/
theorem Dev.mainWait_anew {d : Dev} {c : Core} {m : Nat} (hw : ∀ w ws, d.esc.waits = w :: ws → w.level < d.esc.stack.length) :
    d.mainWait c m = d.setCore .main ((d.core .main).waiting c m d.armCycle) := by
  have hkeep : d.esc.waits.dropWhile (fun w => decide (d.esc.stack.length < w.level)) = d.esc.waits := by
    cases hl : d.esc.waits with
    | nil => rfl
    | cons w ws => exact List.dropWhile_cons_of_neg (by simpa using (hw w ws hl).le)
  unfold Dev.mainWait
  dsimp only
  rw [hkeep]
  split
  · rename_i w ws hl
    have hlevel := hw w ws hl
    rw [if_neg (by omega), ← hl]
    rfl
  · rename_i hl
    rw [← hl]
    rfl

/-- A WAITPH whose wait was left here and has ended meanwhile. -/
theorem Dev.mainWait_fired {d : Dev} {c : Core} {m : Nat} {w : LeftWait} {ws : List LeftWait} (hw : d.esc.waits = w :: ws)
    (hl : w.level = d.esc.stack.length) (hpc : w.pc = c.unitAt) (hm : w.mark = m) (hf : w.fired = true) :
    d.mainWait c m = d.setEsc { d.esc with waits := ws } := by
  unfold Dev.mainWait
  dsimp only
  rw [hw, List.dropWhile_cons_of_neg (by simp [hl])]
  dsimp only
  rw [if_pos ⟨hl, hpc, hm⟩, if_pos hf]

/-- A WAITPH of Efyon-S that waits anew. -/
theorem State.issue_waitph_anew {s : State} (h : s.CanIssue .main false) (m : Nat)
    (hw : ∀ w ws, s.dev.esc.waits = w :: ws → w.level < s.dev.esc.stack.length) :
    s.issue .main (opWaitph m) =
      s.coreIs .main ((s.dev.core .main).retire.waiting (s.dev.core .main) m (s.dev.now + 3)) := by
  rw [opWaitph, State.issue_main_event h]
  show State.finish (State.land 4 { s with dev := (s.dev.stepped .main).mainWait (s.dev.core .main) m }) = _
  rw [Dev.mainWait_anew (d := s.dev.stepped .main) hw, Dev.stepped_main, Dev.core_setCore, Dev.setCore_setCore, State.land_core h]
  · rfl
  · rw [Dev.core_setCore]
    rfl

/-- A WAITPH of Efyon-S whose wait was left here and has ended meanwhile. -/
theorem State.issue_waitph_fired {s : State} (h : s.CanIssue .main false) {m : Nat} {w : LeftWait} {ws : List LeftWait}
    (hw : s.dev.esc.waits = w :: ws) (hl : w.level = s.dev.esc.stack.length) (hpc : w.pc = (s.dev.core .main).unitAt)
    (hm : w.mark = m) (hf : w.fired = true) :
    s.issue .main (opWaitph m) =
      let d := s.dev.stepped .main
      State.finish { s with dev := d.setEsc { d.esc with waits := ws } } := by
  rw [opWaitph, State.issue_main_event h]
  show State.finish (State.land 4 { s with dev := (s.dev.stepped .main).mainWait (s.dev.core .main) m }) = _
  rw [Dev.mainWait_fired (d := s.dev.stepped .main) hw hl hpc hm hf, State.land_core h rfl]

/-- Settles O20: on Efyon-S and on a context each instruction is an event behind one that has only counted. The arm cycle of a
WAITPH is the third cycle after its own, on Efyon-S too (notes/assumptions/18), and FPC names the unit's first prefix
(notes/assumptions/7). -/
theorem stopResults : Obligations.StopResults := by
  unfold Obligations.StopResults
  intro e n m s h c d gives
  refine ⟨?main, ?seq⟩
  case main =>
    rintro rfl
    refine ⟨congrArg _ ((State.issue_main_event h .halt).trans (congrArg _ (State.land_core h rfl 4))),
      congrArg _ (State.issue_main_event h (.trap n.val)), fun hw => congrArg _ (State.issue_waitph_anew h m.val (by simp [hw])),
      fun w ws hw hl => congrArg _ (State.issue_waitph_anew h m.val ?_),
      fun t ws hw => congrArg _ (State.issue_waitph_fired h hw rfl rfl rfl rfl)⟩
    · rintro w' ws' hw'
      obtain ⟨rfl, -⟩ := List.cons.inj (hw.symm.trans hw')
      exact hl
  case seq =>
    rintro x rfl
    refine ⟨congrArg _ (State.issue_seq_event h .halt), congrArg _ (State.issue_seq_event h (.trap n.val)),
      congrArg _ ((State.issue_seq_event h (.wait m.val)).trans ?_)⟩
    show State.finish { s with dev := d.setCtx x.val { d.ctx x.val with wait := some (m.val, s.dev.now + 3) } } = _
    rw [show d.ctx x.val = c.retire from Dev.ctx_setCtx _ _ _]
    rw [show d = (s.dev.counted (.seq x)).setCtx x.val c.retire from rfl, Dev.setCtx_setCtx]
    rfl

end Sys2Proof.Machine
end

section
/-! PROOFS. The frame of the instructions that change their own core: a quiet device is as it is at the end of a command, what a core
instruction leaves of cores and registers, what the end of an execution leaves of the core's own registers, and the statement
CoreInstructionsFrame assembled from them. -/

namespace Sys2Proof.Machine

/-! ### A quiet device -/

section
variable {d : Dev}

theorem Dev.settle_quiet (hh : d.holds = []) (hw : d.stove.walkDue = false) (k : Nat) : Dev.settle k d = d := by
  cases k <;> simp [Dev.settle, hh, hw]

theorem Dev.weirStops_quiet (h : ∀ w ∈ d.weir.run, w.stop = none) : d.weirStops = d := by
  unfold Dev.weirStops
  cases hr : d.weir.run with
  | none => rfl
  | some w => simp [h w hr]

theorem Dev.weirFinish_quiet (h : ∀ w ∈ d.weir.run, w.sent = false) : d.weirFinish = d := by
  unfold Dev.weirFinish
  cases hr : d.weir.run with
  | none => rfl
  | some w => simp [h w hr]

theorem Dev.weirTell_quiet (h : ∀ w ∈ d.weir.run, w.cfg.field = false ∨ w.told = true) : d.weirTell = d := by
  unfold Dev.weirTell
  cases hr : d.weir.run with
  | none => rfl
  | some w => rcases h w hr with hw | hw <;> simp [hw]

theorem Dev.ballFall_quiet (h : d.readyOk = true ∨ d.pwr.ball = false) : (if d.readyOk then d else d.ballFall) = d := by
  rcases h with h | h
  · exact if_pos h
  · rw [show d.ballFall = d from if_neg (by simp [h]), ite_self]

theorem Dev.atnSummary_quiet (hf : d.mgmt.anyFault = d.anyFault) (hh : d.mgmt.anyHeld = d.anyHeld) : d.atnSummary = d := by
  unfold Dev.atnSummary
  simp only [← hf, ← hh, Bool.and_not_self, Bool.false_eq_true, if_false]

theorem Dev.trySend_quiet (h : (d.ic.owed && (d.ic.urgent || d.ic.modLeft == 0) && (d.canSend || d.host.d3 || d.host.l1)) = false) :
    d.trySend = d := by
  unfold Dev.trySend
  split
  · rename_i hdue
    rw [hdue, Bool.true_and] at h
    simp only [Bool.or_eq_false_iff] at h
    obtain ⟨⟨hsend, hd3⟩, hl1⟩ := h
    simp [hsend, hd3, hl1]
  · rfl

/-- Nothing follows a command that leaves a quiet device. -/
theorem Dev.close_quiet (h : d.Quiet) : d.close = d := by
  obtain ⟨hholds, hwalk, hscan, hwake, htrip, -, haps, hrun, hball, hfault, hheld, hsend, hseen, -⟩ := h
  have hw : ∀ w ∈ d.weir.run, w.stop = none ∧ w.sent = false ∧ (w.cfg.field = false ∨ w.told = true) := by
    intro w hw
    simpa [and_assoc] using (Option.all_eq_true _ _).mp hrun w hw
  have hscanned : d.scanHold = d := by simp [Dev.scanHold, hscan]
  have htripped : d.tripCheck = d := by simp [Dev.tripCheck, htrip]
  have hnoted : d.vlNote = d := if_pos hseen.symm
  have hfin : d.fin = d := by
    unfold Dev.fin
    dsimp only [forEach]
    rw [Dev.settle_quiet hholds hwalk, hscanned, haps, List.foldl_nil, Dev.weirStops_quiet (fun w h => (hw w h).1),
      Dev.weirFinish_quiet (fun w h => (hw w h).2.1)]
    simp only [hwake, Bool.false_and, Bool.false_eq_true, if_false]
    rw [htripped, Dev.ballFall_quiet hball, Dev.atnSummary_quiet hfault hheld]
  rw [Dev.close, hfin, Dev.weirTell_quiet (fun w h => (hw w h).2.2), hnoted, Dev.trySend_quiet hsend]

/-- The registers of a core take no part in what is due. -/
theorem Dev.quiet_setCore (h : d.Quiet) (e : CoreId) (c : Core) : (d.setCore e c).Quiet := by
  cases e <;> exact h

end

/-- A core instruction that leaves a quiet device ends with it. -/
theorem State.coreIs_quiet {s : State} {e : CoreId} (h : (s.dev.counted e).Quiet) (c : Core) :
    s.coreIs e c = { s with dev := (s.dev.counted e).setCore e c } := by
  have hq := Dev.quiet_setCore h e c
  obtain ⟨-, -, -, -, -, hfill, -, -, -, -, -, -, -, hload⟩ := id hq
  rw [State.coreIs, State.finish]
  dsimp only
  rw [Dev.close_quiet hq, State.loads]
  simp only [hfill, hload, Bool.false_eq_true, if_false]

/-! ### What a core instruction leaves alone -/

theorem Dev.core_setCore_ne (d : Dev) {e e' : CoreId} (h : e' ≠ e) (c : Core) : (d.setCore e c).core e' = d.core e' := by
  cases e with
  | main =>
    cases e' with
    | main => exact absurd rfl h
    | seq y => rfl
  | seq x =>
    cases e' with
    | main => rfl
    | seq y =>
      have hy : y.val ≠ x.val := fun hv => h (congrArg CoreId.seq (Fin.ext hv))
      exact SMap.get_put_ne _ c hy

theorem Dev.core_counted (d : Dev) (e e' : CoreId) : (d.counted e).core e' = d.core e' := by
  cases e <;> cases e' <;> rfl

/-- The count of an instruction is in ISSUED of its camp alone. -/
theorem Dev.rd_counted (d : Dev) (e : CoreId) {a : Nat} (h : ∀ x, e = .seq x → a ≠ 0x105044 + x.val / 10 * 0x10000) :
    (d.counted e).rd a = d.rd a := by
  cases e with
  | main => rfl
  | seq x => exact Dev.rd_wr_ne d (h x rfl) _

theorem Dev.rd_setCore (d : Dev) (e : CoreId) (c : Core) (a : Nat) : (d.setCore e c).rd a = d.rd a := by
  cases e <;> rfl

/-! ### What the end of an execution leaves of the core -/

section
variable (c : Core)

theorem Core.retire_keeps : c.retire.d = c.d ∧ c.retire.x = c.x ∧ c.retire.acc = c.acc ∧ c.retire.lc = c.lc ∧ c.retire.ctrl = c.ctrl ∧
    c.retire.flags = c.flags := by
  unfold Core.retire
  dsimp only
  split <;> exact ⟨rfl, rfl, rfl, rfl, rfl, rfl⟩

theorem Core.retire_noSkip (h : c.skip = false) : c.retire.skip = false := by
  unfold Core.retire
  dsimp only
  split
  · exact h
  · rfl

theorem Core.setD_keeps (r : Nat) (v : Word) : (c.setD r v).x = c.x ∧ (c.setD r v).acc = c.acc ∧ (c.setD r v).lc = c.lc ∧
    (c.setD r v).ctrl = c.ctrl ∧ (c.setD r v).flags = c.flags ∧ (c.setD r v).skip = c.skip := by
  unfold Core.setD
  split <;> exact ⟨rfl, rfl, rfl, rfl, rfl, rfl⟩

theorem Core.dr_setD_ne {r k : Nat} (h : k ≠ r) (v : Word) : (c.setD r v).dr k = c.dr k := by
  unfold Core.setD
  split
  · rfl
  · simp only [Core.dr, SMap.get_put_ne _ _ h]

/-- A flag outside a result's mask stays. -/
theorem Core.withFlags_bit (r : Res) {i : Nat} (h : r.mask.getLsbD i = false) :
    (c.withFlags r).flags.getLsbD i = c.flags.getLsbD i := by
  by_cases hi : i < 6
  · simp [Core.withFlags, h, hi]
  · rw [BitVec.getLsbD_of_ge _ _ (by omega), BitVec.getLsbD_of_ge _ _ (by omega)]

end

/-- Settles O16: a quiet device has nothing to do at the end of the command, so that only the core and ISSUED have changed; ADD's
registers by what the end of an execution, a register write and a mask of four flags leave. -/
theorem coreInstructionsFrame : Obligations.CoreInstructionsFrame := by
  unfold Obligations.CoreInstructionsFrame
  refine fun s e hq => ⟨fun c => ?any, fun rd ra rb t h hadd => ?add⟩
  case any =>
    rw [State.coreIs_quiet hq]
    refine ⟨rfl, Dev.core_setCore .., fun e' he => ?_, fun a ha => ?_, ?_, ?_, ?_, ?_, fun _ => rfl⟩
    · exact (Dev.core_setCore_ne _ he c).trans (Dev.core_counted ..)
    · exact (Dev.rd_setCore ..).trans (Dev.rd_counted _ e ha)
    all_goals cases e <;> rfl
  case add =>
    have ht : exec (.add e rd ra rb) s = _ := State.alu_next h (fun _ a b => addRes a b false) rd.isLt ra.val rb.val
    obtain rfl := Host.Outcome.next.inj (hadd.symm.trans ht)
    let r := addRes ((s.dev.core e).dr ra.val) ((s.dev.core e).dr rb.val) false
    have hz : (s.coreIs e (((s.dev.core e).retire.setD rd.val r.v).withFlags r)).dev.core e =
        ((s.dev.core e).retire.setD rd.val r.v).withFlags r := by
      rw [State.coreIs_quiet hq]
      exact Dev.core_setCore ..
    obtain ⟨hd, hx, hacc, hlc, hctrl, hflags⟩ := (s.dev.core e).retire_keeps
    obtain ⟨hx', hacc', hlc', hctrl', hflags', hskip'⟩ := (s.dev.core e).retire.setD_keeps rd.val r.v
    rw [hz]
    refine ⟨fun k hk => ?dr, hx'.trans hx, hacc'.trans hacc, hlc'.trans hlc, hctrl'.trans hctrl,
      hskip'.trans (Core.retire_noSkip _ h.noSkip), fun i hi => ?flags⟩
    case dr =>
      refine (Core.dr_setD_ne (s.dev.core e).retire hk r.v).trans ?_
      simp only [Core.dr, hd]
    case flags =>
      have hmask : r.mask.getLsbD i = false :=
        Nat.testBit_lt_two_pow (lt_of_lt_of_le (show 15 < 2 ^ 4 by decide) (Nat.pow_le_pow_right (by decide) hi))
      rw [Core.withFlags_bit _ r hmask, hflags', hflags]

end Sys2Proof.Machine
end

section
/-! PROOFS. The update of a pointer after an access (R343–R346): that a modulo update stays in its buffer, which moduli are powers of
two, that the bit-reversed update is an addition on the reversed bits, and the statement PointerUpdates assembled from them. -/

namespace Sys2Proof.Machine

/-! ### Modulo updates (R344) -/

/-- A number taken modulo m lies in the buffer of m bytes at b, where that buffer ends within the addresses. -/
theorem ofInt_mod_bounds {b m : Word} (hm : m ≠ 0) (hend : b.toNat + m.toNat ≤ 2 ^ 32) (i : Int) :
    b.toNat ≤ (BitVec.ofInt 32 (b.toNat + i % m.toNat)).toNat ∧ (BitVec.ofInt 32 (b.toNat + i % m.toNat)).toNat < b.toNat + m.toNat := by
  have hpos : 0 < m.toNat := Nat.pos_of_ne_zero fun h => hm (BitVec.eq_of_toNat_eq h)
  have hlow : 0 ≤ i % m.toNat := Int.emod_nonneg _ (by omega)
  have hhigh : i % m.toNat < m.toNat := Int.emod_lt_of_pos _ (by omega)
  obtain ⟨r, hr⟩ := Int.eq_ofNat_of_zero_le hlow
  have hrm : r < m.toNat := by omega
  have hsum : (BitVec.ofInt 32 (b.toNat + i % m.toNat)).toNat = b.toNat + r := by
    rw [hr, ← Int.natCast_add, BitVec.ofInt_natCast, BitVec.toNat_ofNat]
    exact Nat.mod_eq_of_lt (by omega)
  omega

/-! ### Powers of two (R346) -/

theorem isPow2_iff (m : Word) : isPow2 m = true ↔ ∃ k < 32, m = BitVec.ofNat 32 (2 ^ k) := by
  by_cases hm : m = 0
  · subst hm
    refine ⟨fun h => absurd h (by decide), ?_⟩
    rintro ⟨k, hk, h⟩
    have := congrArg BitVec.toNat h
    rw [BitVec.toNat_ofNat, Nat.mod_eq_of_lt (Nat.pow_lt_pow_right (by decide) hk)] at this
    exact absurd this.symm (Nat.two_pow_pos k).ne'
  · have hpos : 0 < m.toNat := Nat.pos_of_ne_zero fun h => hm (BitVec.eq_of_toNat_eq h)
    have hpred : (m &&& (m - 1)).toNat = m.toNat &&& (m.toNat - 1) := by
      rw [BitVec.toNat_and]
      congr 1
      bv_omega
    have hand : m &&& (m - 1) = 0 ↔ m.toNat.isPowerOfTwo := by
      rw [← Nat.and_sub_one_eq_zero_iff_isPowerOfTwo hpos.ne', ← hpred]
      exact ⟨fun h => congrArg BitVec.toNat h, fun h => BitVec.eq_of_toNat_eq h⟩
    simp only [isPow2, hm, ne_eq, not_false_eq_true, decide_true, Bool.true_and, decide_eq_true_eq, hand]
    constructor
    · rintro ⟨k, hk⟩
      refine ⟨k, (Nat.pow_lt_pow_iff_right (by decide)).mp (hk ▸ m.isLt), BitVec.eq_of_toNat_eq ?_⟩
      rw [BitVec.toNat_ofNat, ← hk, Nat.mod_eq_of_lt m.isLt]
    · rintro ⟨k, hk, rfl⟩
      exact ⟨k, by rw [BitVec.toNat_ofNat, Nat.mod_eq_of_lt (Nat.pow_lt_pow_right (by decide) hk)]⟩

/-! ### Bit-reversed updates (R345) -/

/-- Bits i − 1 to g of a number, read in reversed order. -/
def revBits (g : Nat) : Nat → Nat → Nat
  | 0, _ => 0
  | i + 1, x => if i < g then 0 else x / 2 ^ i % 2 + 2 * revBits g i x

theorem revBits_eq_sum (g k x : Nat) :
    revBits g k x = ((List.range (k - g)).map (fun j => x / 2 ^ (k - 1 - j) % 2 * 2 ^ j)).sum := by
  induction k with
  | zero => simp [revBits]
  | succ i ih =>
    unfold revBits
    split
    · rw [show i + 1 - g = 0 by omega]
      rfl
    · rw [ih, show i + 1 - g = i - g + 1 by omega, List.range_succ_eq_map, List.map_cons, List.sum_cons, List.map_map,
        ← List.sum_map_mul_left]
      simp only [Nat.add_sub_cancel, Nat.sub_zero, pow_zero, mul_one]
      congr 2
      apply List.map_congr_left
      intro j _
      simp only [Function.comp_apply, Nat.succ_eq_add_one, show i - (j + 1) = i - 1 - j by omega, pow_succ]
      ring

/-- Only the bits below i count. -/
theorem revBits_congr {g i x y : Nat} (h : x % 2 ^ i = y % 2 ^ i) : revBits g i x = revBits g i y := by
  induction i with
  | zero => rfl
  | succ i ih =>
    have hlow : x % 2 ^ i = y % 2 ^ i := by
      rw [← Nat.mod_mod_of_dvd x (pow_dvd_pow 2 (Nat.le_succ i)), h, Nat.mod_mod_of_dvd y (pow_dvd_pow 2 (Nat.le_succ i))]
    have hbit : x / 2 ^ i % 2 = y / 2 ^ i % 2 := by
      rw [Nat.mod_pow_succ, Nat.mod_pow_succ, hlow] at h
      exact Nat.eq_of_mul_eq_mul_left (by positivity) (Nat.add_left_cancel h)
    simp only [revBits, hbit, ih hlow]

/-- A number with its lowest bit replaced. -/
theorem replaceLowest (q t : Nat) : (q - q % 2 + t % 2) / 2 = q / 2 ∧ (q - q % 2 + t % 2) % 2 = t % 2 := by omega

/-- A sum with a carry, taken apart into its lowest bit and the rest. -/
theorem sum_mod_double (t x n : Nat) : (t + 2 * x) % (2 * n) = t % 2 + 2 * ((x + t / 2) % n) := by
  rw [Nat.mod_mul]
  congr 1
  · omega
  · congr 2
    omega

/-- A number with its bit i replaced. -/
theorem replaceBit (o : Nat) {i t : Nat} :
    (o - o / 2 ^ i % 2 * 2 ^ i + t % 2 * 2 ^ i) / 2 ^ i = o / 2 ^ i - o / 2 ^ i % 2 + t % 2 ∧
    (o - o / 2 ^ i % 2 * 2 ^ i + t % 2 * 2 ^ i) % 2 ^ i = o % 2 ^ i := by
  have hP : 0 < 2 ^ i := by positivity
  have hq : o / 2 ^ i % 2 ≤ o / 2 ^ i := Nat.mod_le _ _
  have ho := Nat.div_add_mod o (2 ^ i)
  have e : o - o / 2 ^ i % 2 * 2 ^ i + t % 2 * 2 ^ i = 2 ^ i * (o / 2 ^ i - o / 2 ^ i % 2 + t % 2) + o % 2 ^ i := by
    have hm := Nat.mul_le_mul_left (2 ^ i) hq
    rw [Nat.mul_add, Nat.mul_sub, Nat.mul_comm (o / 2 ^ i % 2), Nat.mul_comm (t % 2)]
    omega
  rw [e, Nat.mul_add_div hP, Nat.mul_add_mod, Nat.mod_mod]
  exact ⟨by rw [Nat.div_eq_of_lt (Nat.mod_lt _ hP)]; rfl, rfl⟩

/-- The addition keeps the bits from i on and those below g, and between them it adds the reversed bits with the carry. -/
theorem brevAdd_spec (step g i : Nat) : ∀ o carry : Nat,
    brevAdd step g i o carry / 2 ^ i = o / 2 ^ i ∧
    brevAdd step g i o carry % 2 ^ min g i = o % 2 ^ min g i ∧
    revBits g i (brevAdd step g i o carry) = (revBits g i o + revBits g i step + carry) % 2 ^ (i - g) := by
  induction i with
  | zero => intro o carry; simp [brevAdd, revBits, Nat.mod_one]
  | succ i ih =>
    intro o carry
    unfold brevAdd
    split
    · rename_i hig
      rw [show i + 1 - g = 0 by omega]
      exact ⟨rfl, rfl, by simp [revBits, hig, Nat.mod_one]⟩
    · rename_i hig
      dsimp only
      set b := o / 2 ^ i % 2 with hb
      set t := b + step / 2 ^ i % 2 + carry with ht
      set o₁ := o - b * 2 ^ i + t % 2 * 2 ^ i with ho₁
      obtain ⟨hhigh, hlow, hrev⟩ := ih o₁ (t / 2)
      obtain ⟨hdiv, hmod⟩ := replaceBit o (i := i) (t := t)
      rw [← hb, ← ho₁] at hdiv hmod
      rw [hdiv] at hhigh
      have hb2 : b < 2 := Nat.mod_lt _ (by decide)
      refine ⟨?_, ?_, ?_⟩
      · rw [pow_succ, ← Nat.div_div_eq_div_mul, hhigh, ← Nat.div_div_eq_div_mul]
        exact (replaceLowest _ _).1
      · rw [min_eq_left (by omega)]
        rw [min_eq_left (by omega)] at hlow
        rw [hlow, ← Nat.mod_mod_of_dvd o₁ (pow_dvd_pow 2 (show g ≤ i by omega)), hmod,
          Nat.mod_mod_of_dvd o (pow_dvd_pow 2 (show g ≤ i by omega))]
      · simp only [revBits, hig, if_false, hhigh, hrev, revBits_congr hmod]
        rw [(replaceLowest _ _).2, show i + 1 - g = i - g + 1 by omega, pow_succ', ← sum_mod_double, ht, hb]
        congr 1
        ring

/-- Settles O22: the modes 0 to 2 by definition, the buffer by the residue, and mode 3 by whether m is a power of two; there the
addition on the reversed bits. -/
theorem pointerUpdates : Obligations.PointerUpdates := by
  unfold Obligations.PointerUpdates
  intro c p simm g a b m st wraps
  refine ⟨rfl, rfl, rfl, fun step hm hend => ?bounds, fun hno => ?illegal, fun k hk hm => ?reversed⟩
  case bounds =>
    simp only [wraps, if_neg hm]
    exact ofInt_mod_bounds hm hend _
  case illegal =>
    have hno' : isPow2 m = false := by
      rw [Bool.eq_false_iff, ne_eq, isPow2_iff]
      rintro ⟨k, hk, h⟩
      exact hno k hk h
    exact if_neg (by simp [m, hno'])
  case reversed =>
    intro rev o
    have hpow : m.toNat = 2 ^ k := by
      rw [hm, BitVec.toNat_ofNat, Nat.mod_eq_of_lt (Nat.pow_lt_pow_right (by decide) hk)]
    obtain ⟨hhigh, hlow, hrev⟩ := brevAdd_spec st.toNat g k o 0
    have ho : o / 2 ^ k = 0 := Nat.div_eq_of_lt (Nat.mod_lt _ (by positivity))
    refine ⟨brevAdd st.toNat g k o 0, ?_, ?_, hlow, ?_⟩
    · refine (if_pos ((isPow2_iff m).mpr ⟨k, hk, hm⟩)).trans ?_
      show (some (b + w32 (brevAdd st.toNat g m.toNat.log2 ((a - b).toNat % m.toNat) 0)), false) = _
      rw [hpow, Nat.log2_two_pow]
    · exact (Nat.div_eq_zero_iff_lt (by positivity)).mp (hhigh.trans ho)
    · simpa only [rev, ← revBits_eq_sum, Nat.add_zero] using hrev

end Sys2Proof.Machine
end

section
/-! PROOFS. The fabric instructions, illegal encodings and steps, and the words of the decoder: what a port write, a queue read and an
illegal form issue to, and the statements QueueInstructions, IllegalAndSteps and DecodingWords assembled from them. -/

namespace Sys2Proof.Machine

/-! ### Fabric instructions (R353, R354) -/

section
variable {s : State} {e : CoreId}

/-- A write to a port goes by the core's own path, and is on its way for 2 CK_SEQ. -/
theorem State.port_next (h : s.CanIssue e false) {port : Core → Nat} (v : Core → Word) {o : Nat} (ho : port (s.dev.core e) = o) :
    (Host.Outcome.next (s.issue e (opPort port v)) : Host.Outcome State Fault Refusal) =
      .next (s.acts e (fun d => (d.busWrite (corePath e) o (v (s.dev.core e))).updCore e (fun c => { c with sent := some (d.now + 4) }))) :=
  congrArg _ (State.issue_acts (opPort port v) h rfl (by simp) (.inl rfl) (.inl rfl) _ (fun t => by rw [← ho]; rfl))

/-- QSTAT reads PSTAT, at the distance of a load. -/
theorem State.qstat_next (h : s.CanIssue e false) (rd rb : Nat) {o : Nat} (ho : prodPort ((s.dev.core e).queueIn rb) + 12 = o) :
    (Host.Outcome.next (s.issue e (opQstat rd rb)) : Host.Outcome State Fault Refusal) =
      .next (s.acts e (fun d =>
        let r := d.busRead (corePath e) o
        (r.1.updCore e (·.worksTo ((s.dev.core e).n + 3) r.1.now)).put e (s.dev.core e).n rd r.2 3)) :=
  congrArg _ (State.issue_acts (opQstat rd rb) h rfl (by simp) (.inl rfl) (.inl rfl) _ (fun t => by rw [← ho]; rfl))

/-- The device behind a POPQ of queue q: items 0, 1 and 2 and the tag come at distance 4. -/
def Dev.popped (d : Dev) (e : CoreId) (n rd q : Nat) : Dev :=
  let (d, i0, i1, i2, tag) := d.popWord (corePath e) q
  let d := d.updCore e (·.worksTo (n + 4) d.now)
  (((d.put e n rd i0 4).put e n (rd + 1) i1 4).put e n (rd + 2) i2 4).put e n (rd + 3) tag 4

/-- POPQ outside a repetition, to a register that R354 allows. -/
theorem State.pop_next (h : s.CanIssue e false) {rd : Nat} (h4 : rd % 4 = 0) (h0 : rd ≠ 0) (hr : (s.dev.core e).rep = none)
    (queue : Core → Nat) :
    (Host.Outcome.next (s.issue e (opPop rd queue)) : Host.Outcome State Fault Refusal) =
      .next (s.acts e (fun d => d.popped e (s.dev.core e).n rd (queue (s.dev.core e)))) :=
  congrArg _ (State.issue_acts (opPop rd queue) h (by simp [opPop, h4, h0]) (by simp) (.inl rfl) (.inr hr) _ (fun _ => rfl))

end

/-- Settles O24: each instruction by the port that it reaches on the core's own path. A write is on its way for 2 CK_SEQ, and a result of
QSTAT or POPQ comes at a free instant (notes/assumptions/104). -/
theorem queueInstructions : Obligations.QueueInstructions := by
  unfold Obligations.QueueInstructions
  intro e rd ra rb qi eop s h c a q writes pops
  have hport (k : Nat) : prodPort (c.queueIn rb.val) + k = 0x510000 + k + 16 * q := by
    show 0x510000 + 16 * q + k = _
    omega
  refine ⟨State.port_next h _ (hport 0), State.port_next h _ (hport 4), State.port_next h _ (hport 8), State.port_next h _ (hport 8),
    State.qstat_next h rd.val rb.val (hport 12), State.port_next h _ ?cons, State.port_next h _ rfl, fun hrd hr => ?pops⟩
  case cons =>
    show 0x520000 + 16 * q + 12 = _
    omega
  case pops =>
    have hallowed : ∀ r ∈ ([4, 8, 12, 16, 20, 24, 28] : List Reg), r.val % 4 = 0 ∧ r.val ≠ 0 := by decide
    obtain ⟨h4, h0⟩ := hallowed rd hrd
    exact ⟨State.pop_next h h4 h0 hr _, State.pop_next h h4 h0 hr _⟩

/-! ### Illegal encodings (R333, R336) -/

section
variable {s : State} (op : Op) (hok : op.ok = false)
include hok

theorem Op.bad_of_not_ok (c : Core) : op.bad c = true := by simp [Op.bad, hok]

theorem State.issue_illegal_main {b : Bool} (h : s.CanIssue .main b) :
    s.issue .main op =
      let c := s.dev.core .main
      State.finish (s.exception 1 0 0 { pc := c.unitAt, rep := c.left, slot := c.slot }) := by
  rw [State.issue_ready h.alive h.ready]
  exact congrArg _ (State.mainIssue_bad op h.notEntering h.noSkip h.fetch_main (op.bad_of_not_ok hok _))

theorem State.issue_illegal_seq {x : Ctx} {b : Bool} (h : s.CanIssue (.seq x) b) :
    s.issue (.seq x) op =
      let c := s.dev.core (.seq x)
      State.finish { s with dev := ((s.dev.stepped (.seq x)).ctxSettle x.val).seqIll x.val c.unitAt } := by
  rw [State.issue_ready h.alive h.ready]
  exact congrArg _ (State.seqIssue_bad op h.fetch_seq h.noSkip (op.bad_of_not_ok hok _))

end

/-- SIMM is reserved in the modes that do not use it. -/
theorem simmOk_reserved {am : Fin 4} {simm : BitVec 12} (ham : am = 1 ∨ am = 3) (hs : simm ≠ 0) : simmOk am.val simm = false := by
  have hs' : (simm == 0) = false := by simpa using hs
  rcases ham with rfl | rfl <;> exact hs'

/-! ### CTX_CMD (R388) -/

theorem Dev.ctxWrite_release (d : Dev) (x : Nat) : d.ctxWrite x 0x4C 1 = d.setCtx x { d.ctx x with wait := none } := rfl

theorem Dev.ctxWrite_step {d : Dev} {x : Ctx} (h : d.ust (.ctx x.val) = .parked) :
    d.ctxWrite x.val 0x4C (w32 2) = { d with steps := d.steps ++ [x.val] } :=
  if_pos (by simp [h])

theorem ctxCmd_low (x : Ctx) : ctxPage x.val + 0x4C < 0x2000000 := by
  obtain ⟨-, -, -, -, -, -, hlt, -⟩ := ctx_facts x
  omega

/-- Settles O25: an illegal form by its core, a release and a STEP by the context's command register. A STEP by CTX_STEP runs at once
(notes/assumptions/11), and FPC names the unit's first prefix (notes/assumptions/7). -/
theorem illegalAndSteps : Obligations.IllegalAndSteps := by
  unfold Obligations.IllegalAndSteps
  intro s p x w e rd xd q am z simm ill
  refine ⟨fun h => ?illegal, fun hv => ⟨?release, fun hp => ?step⟩⟩
  case illegal =>
    have marked (op : Op) (hok : op.ok = false) :
        (Host.Outcome.next (s.issue e op) : Host.Outcome State Fault Refusal) = ill e := by
      cases e with
      | main => exact congrArg _ (State.issue_illegal_main op hok h)
      | seq y => exact congrArg _ (State.issue_illegal_seq op hok h)
    refine ⟨fun hw => ?_, fun ham hs => ?_⟩
    · exact (congrArg _ (if_pos hw)).trans (marked opIllegal rfl)
    · have hreserved := simmOk_reserved ham hs
      exact ⟨marked (opLd rd.val q.val am.val z simm) hreserved, marked (opLdu rd.val q.val am.val z simm) hreserved,
        marked (opSt rd.val q.val am.val z simm) hreserved, marked (opLdx xd.val q.val am.val simm) hreserved,
        marked (opStx xd.val q.val am.val simm) hreserved⟩
  case release => exact State.write_next hv (ctxCmd_low x) ((Dev.regWrite_ctxCmd s.dev p x 1).trans (Dev.ctxWrite_release ..))
  case step =>
    refine congrArg (fun t : State => Host.Outcome.next t.runSteps) ((State.write_of hv (ctxCmd_low x) _).trans (State.act_congr ?_))
    exact (Dev.regWrite_ctxCmd s.dev p x _).trans (Dev.ctxWrite_step hp)

/-! ### Words (R333–R342) -/

/-- Settles O28: the decoder's tables at each word. -/
theorem decodingWords : Obligations.DecodingWords :=
  ⟨rfl, rfl, rfl, rfl, rfl, rfl, rfl, rfl, rfl, rfl, rfl, rfl, rfl, rfl, rfl, rfl⟩

end Sys2Proof.Machine
end

section
/-! PROOFS. Loads and stores that reach memory: bytes written to Lakebed, the pointer's update on each core, a store of Efyon-S, loads and
stores of a context in its data memory, and the statement MemoryAccesses assembled from them. -/

namespace Sys2Proof.Machine

/-! ### Bytes of Lakebed -/

/-- The low bytes of a number, least significant first. -/
theorem bytesLE_eq_map (n v : Nat) : bytesLE n v = (List.range n).map (fun i => BitVec.ofNat 8 (v / 256 ^ i)) := by
  induction n generalizing v with
  | zero => rfl
  | succ n ih =>
    rw [bytesLE, ih, List.range_succ_eq_map, List.map_cons, List.map_map]
    congr 1
    · simp
    · apply List.map_congr_left
      intro i _
      simp only [Function.comp_apply, Nat.succ_eq_add_one, Nat.div_div_eq_div_mul, pow_succ']

/-- A byte within a write is the one that was written there. -/
theorem Memory.byte_puts_mem (bs : List Byte) : ∀ (a : Nat) (m : List Host.Cell) {i : Nat} (h : i < bs.length),
    Memory.byte (Memory.puts bs a m) (a + i) = bs[i] := by
  induction bs with
  | nil => intro a m i h; exact absurd h (by simp)
  | cons b bs ih =>
    intro a m i h
    simp only [Memory.puts]
    cases i with
    | zero =>
      rw [Memory.byte_puts_ne bs (a + 1) _ (by omega)]
      exact Memory.byte_put_self m a b
    | succ i =>
      rw [show a + (i + 1) = a + 1 + i by omega, ih (a + 1) _ (by simpa using h)]
      rfl

/-- Lakebed behind a write of the low n bytes of a number. -/
theorem Memory.byte_puts_bytes (b n v : Nat) (m : List Host.Cell) (a : Nat) :
    Memory.byte (Memory.puts ((List.range n).map (fun i => BitVec.ofNat 8 (v / 256 ^ i))) b m) a =
      if b ≤ a ∧ a < b + n then BitVec.ofNat 8 (v / 256 ^ (a - b)) else Memory.byte m a := by
  split
  · rename_i h
    obtain ⟨i, rfl⟩ : ∃ i, a = b + i := ⟨a - b, by omega⟩
    rw [Memory.byte_puts_mem _ _ _ (by simp; omega), Nat.add_sub_cancel_left]
    simp
  · exact Memory.byte_puts_ne _ _ _ (by simp; omega)

/-- A command that begins no start-up and loads no image leaves Lakebed as it stands. -/
theorem State.finish_mem {s : State} (hl : s.dev.close.health.load = none) (hf : s.dev.close.pwr.fill = false) :
    s.finish.mem = s.mem := by
  rw [State.finish, State.loads]
  simp only [hf, hl, Bool.false_eq_true, if_false]

/-! ### Stores of Efyon-S -/

/-- A store to Lakebed. -/
theorem State.mainStore_lake {s : State} {a n b : Nat} (h : s.dev.lakeSpan a n = some b) (v : Nat) :
    s.mainStore a n v = (s.lakeWrite b (bytesLE n v), .done 0 false) := by
  have hm : ¬ mainRegs a = true := by rw [Dev.lakeSpan_regs h]; decide
  unfold State.mainStore
  rw [if_neg hm, h]

theorem Core.movedX_pc (c : Core) (p : Nat) (o : Option Word) : (c.movedX p o).pc = c.pc := by
  cases o <;> rfl

/-- A store of Efyon-S to Lakebed. -/
theorem State.issue_store {s : State} (h : s.CanIssue .main false) (val : Core → Word) {p : Nat} (hp : p < 32) {am : Nat} (g : Nat)
    {simm : BitVec 12} (hsimm : simmOk am simm = true) (hleg : ((s.dev.core .main).ptrNext p am simm.toInt g).2 = false) {b : Nat}
    (hs : s.dev.lakeSpan ((s.dev.core .main).ea p am simm).toNat (2 ^ g) = some b) :
    s.issue .main (opStoreFrom val p am g simm) =
      let c := s.dev.core .main
      State.finish (State.lakeWrite { s with dev := s.dev.setCore .main (c.retire.movedX p (c.ptrNext p am simm.toInt g).1) } b
        (bytesLE (2 ^ g) (val c).toNat)) := by
  let c := s.dev.core .main
  let t : State := { s with dev := s.dev.setCore .main (c.retire.movedX p (c.ptrNext p am simm.toInt g).1) }
  have hrun : (opStoreFrom val p am g simm).run .main c { s with dev := s.dev.stepped .main } =
      { s := t.lakeWrite b (bytesLE (2 ^ g) (val c).toNat) } := by
    have hptr : State.putPtr { s with dev := s.dev.stepped .main } .main c p (c.ptrNext p am simm.toInt g).1 = t := by
      rw [State.putPtr_main _ _ _ hp, Dev.stepped_main, Dev.core_setCore, Dev.setCore_setCore]
    simp only [opStoreFrom, c, hleg, Bool.false_and, Bool.false_eq_true, if_false, State.storeAt]
    rw [hptr, State.mainStore_lake (s := t) hs]
    rfl
  rw [State.issue_main_run (opStoreFrom val p am g simm) h hsimm (by simp) (.inl rfl) (.inl rfl) hrun, State.mainEvent_done _ _ _ rfl,
    State.land_core h]
  show ((s.dev.setCore .main _).core .main).pc = _
  rw [Dev.core_setCore, Core.movedX_pc]

/-! ### Data memory of a context (R363, R367) -/

/-- An aligned load from data memory without an error. -/
theorem Dev.seqLoad_data (d : Dev) (x : Ctx) {a n : Nat} (ha : a < 0x20000) (hal : a % n = 0)
    (hue : d.ue.contains ((dataMem (x.val / 10) + a) / 8) = false) :
    d.seqLoad x a n =
      let m := dataMem (x.val / 10) + a
      (d, .done (part (d.rd (m - m % 4)) (m % 4) n) false) := by
  unfold Dev.seqLoad
  rw [if_pos ha]
  simp only [Dev.seqAlign, hal, if_true, Nat.sub_zero, hue, Bool.false_eq_true, if_false]

/-- An aligned store to data memory. -/
theorem Dev.seqStore_data (d : Dev) (x : Ctx) {a n : Nat} (ha : a < 0x20000) (hal : a % n = 0) (v : Nat) :
    d.seqStore x a n v =
      let m := dataMem (x.val / 10) + a
      (d.memWrite (m - m % 4) (setPart (d.rd (m - m % 4)) (m % 4) n v), .done 0 false) := by
  unfold Dev.seqStore
  rw [if_pos ha]
  simp only [Dev.seqAlign, hal, if_true, Nat.sub_zero]

theorem Dev.rd_put (d : Dev) (e : CoreId) (n reg : Nat) (v : Word) (k : Nat) (w : Word) (a : Nat) :
    (d.put e n reg v k w).rd a = d.rd a := by
  cases e <;> rfl

/-- The count of an instruction is in no data memory. -/
theorem Dev.rd_stepped_data (d : Dev) (x : Ctx) (a : Nat) :
    let m := dataMem (x.val / 10) + a
    (d.stepped (.seq x)).rd (m - m % 4) = d.rd (m - m % 4) := by
  refine (Dev.rd_setCore ..).trans (Dev.rd_counted _ _ fun y hy => ?_)
  obtain rfl := CoreId.seq.inj hy
  have hx := x.isLt
  unfold dataMem progMem
  omega

/-- A pointer's update on its way. -/
def Core.ptrPend (c : Core) (p : Nat) (o : Option Word) : List PendW := o.toList.map (fun v => ⟨regX p, v, 0xFFFFFFFF, c.n + 1⟩)

/-- The device in which a context has issued an instruction, with writes that are still to come. -/
def Dev.awaits (d : Dev) (x : Ctx) (l : List PendW) : Dev :=
  (d.counted (.seq x)).setCore (.seq x) { (d.core (.seq x)).retire with pend := l }

theorem Dev.awaits_put (d : Dev) (x : Ctx) (l : List PendW) (n reg : Nat) (v : Word) (k : Nat) :
    (d.awaits x l).put (.seq x) n reg v k = d.awaits x (l ++ [⟨reg, v, 0xFFFFFFFF, n + k⟩]) := by
  simp only [Dev.awaits, Dev.put_seq, Dev.core_setCore, Dev.setCore_setCore]

theorem Dev.stepped_awaits {s : State} {x : Ctx} {b : Bool} (h : s.CanIssue (.seq x) b) : s.dev.stepped (.seq x) = s.dev.awaits x [] := by
  have hp : (s.dev.core (.seq x)).retire.pend = [] := by rw [Core.retire_pend, h.noPend]
  rw [Dev.stepped, Dev.awaits, ← hp]

theorem State.putPtr_awaits (s : State) (x : Ctx) (c : Core) (p : Nat) (o : Option Word) :
    State.putPtr { s with dev := s.dev.awaits x [] } (.seq x) c p o = { s with dev := s.dev.awaits x (c.ptrPend p o) } := by
  cases o with
  | none => rfl
  | some v => exact congrArg (fun d => { s with dev := d }) (Dev.awaits_put ..)

/-- The pointer's update is seen by the next instruction, the loaded value at distance 3. -/
theorem Core.settle_load {c : Core} {p : Nat} (hp : p < 32) (o : Option Word) (reg : Nat) (v : Word) :
    Core.settle { c.retire with pend := c.ptrPend p o ++ [⟨reg, v, 0xFFFFFFFF, c.n + 3⟩] } =
      { c.retire.movedX p o with pend := [⟨reg, v, 0xFFFFFFFF, c.n + 3⟩] } := by
  cases o with
  | none => exact Core.settle_none _ (by simp [Core.ptrPend])
  | some w => simp [Core.settle, Core.ptrPend, List.filter, Core.movedX, regX, Core.apply_x _ hp, Core.setX]

/-- A load of a context from its data memory. -/
theorem State.issue_load_data {s : State} {x : Ctx} (h : s.CanIssue (.seq x) false) (reg : Nat) {p : Nat} (hp : p < 32) {am : Nat} (g : Nat)
    (sg : Bool) {simm : BitVec 12} (hsimm : simmOk am simm = true)
    (hleg : ((s.dev.core (.seq x)).ptrNext p am simm.toInt g).2 = false)
    (ha : ((s.dev.core (.seq x)).ea p am simm).toNat < 0x20000) (hal : ((s.dev.core (.seq x)).ea p am simm).toNat % 2 ^ g = 0)
    (hue : s.dev.ue.contains ((dataMem (x.val / 10) + ((s.dev.core (.seq x)).ea p am simm).toNat) / 8) = false) :
    s.issue (.seq x) (opLoadTo reg p am g sg simm) =
      let c := s.dev.core (.seq x)
      let m := dataMem (x.val / 10) + (c.ea p am simm).toNat
      s.coreIs (.seq x) { c.retire.movedX p (if reg = regX p then none else (c.ptrNext p am simm.toInt g).1) with
        pend := [⟨reg, extend (2 ^ g) sg (part (s.dev.rd (m - m % 4)) (m % 4) (2 ^ g)), 0xFFFFFFFF, c.n + 3⟩] } := by
  let c := s.dev.core (.seq x)
  let m := dataMem (x.val / 10) + (c.ea p am simm).toNat
  let o := if reg = regX p then none else (c.ptrNext p am simm.toInt g).1
  let v := extend (2 ^ g) sg (part (s.dev.rd (m - m % 4)) (m % 4) (2 ^ g))
  let l := c.ptrPend p o ++ [⟨reg, v, 0xFFFFFFFF, c.n + 3⟩]
  have hrun : (opLoadTo reg p am g sg simm).run (.seq x) c { s with dev := s.dev.stepped (.seq x) } =
      { s := { s with dev := s.dev.awaits x l } } := by
    have hmem : (s.dev.awaits x (c.ptrPend p o)).rd (m - m % 4) = s.dev.rd (m - m % 4) := Dev.rd_stepped_data s.dev x _
    simp only [opLoadTo, c, hleg, Bool.false_and, Bool.false_eq_true, if_false, Dev.stepped_awaits h, State.putPtr_awaits, State.loadAt]
    rw [Dev.seqLoad_data (s.dev.awaits x _) x ha hal hue]
    dsimp only
    rw [hmem]
    simp only [State.put, Dev.awaits_put]
    rfl
  rw [State.issue_seq_run (opLoadTo reg p am g sg simm) h hsimm (by simp) (.inl rfl) (.inl rfl) hrun, Dev.seqEvent_done]
  dsimp only [Dev.awaits]
  rw [Dev.setCore_seq, Dev.ctxSettle_setCtx, Core.settle_load hp]
  rfl

/-- A pointer's update by the instruction of a core. -/
def Dev.movePtr (d : Dev) (e : CoreId) (c : Core) (p : Nat) (o : Option Word) : Dev :=
  match o with
  | some w => d.put e c.n (32 + p) w
  | none => d

theorem State.putPtr_eq (s : State) (e : CoreId) (c : Core) (p : Nat) (o : Option Word) :
    s.putPtr e c p o = { s with dev := s.dev.movePtr e c p o } := by
  cases o <;> rfl

theorem Dev.rd_movePtr (d : Dev) (e : CoreId) (c : Core) (p : Nat) (o : Option Word) (a : Nat) :
    (d.movePtr e c p o).rd a = d.rd a := by
  cases o with
  | none => rfl
  | some w => exact Dev.rd_put ..

/-- A store of a context to its data memory. -/
theorem State.issue_store_data {s : State} {x : Ctx} (h : s.CanIssue (.seq x) false) (val : Core → Word) {p : Nat} {am : Nat}
    (g : Nat) {simm : BitVec 12} (hsimm : simmOk am simm = true)
    (hleg : ((s.dev.core (.seq x)).ptrNext p am simm.toInt g).2 = false)
    (ha : ((s.dev.core (.seq x)).ea p am simm).toNat < 0x20000) (hal : ((s.dev.core (.seq x)).ea p am simm).toNat % 2 ^ g = 0) :
    s.issue (.seq x) (opStoreFrom val p am g simm) =
      let c := s.dev.core (.seq x)
      let m := dataMem (x.val / 10) + (c.ea p am simm).toNat
      s.acts (.seq x) (fun d => (d.movePtr (.seq x) c p (c.ptrNext p am simm.toInt g).1).memWrite (m - m % 4)
        (setPart (s.dev.rd (m - m % 4)) (m % 4) (2 ^ g) (val c).toNat)) := by
  let c := s.dev.core (.seq x)
  let m := dataMem (x.val / 10) + (c.ea p am simm).toNat
  let d := (s.dev.stepped (.seq x)).movePtr (.seq x) c p (c.ptrNext p am simm.toInt g).1
  have hmem : d.rd (m - m % 4) = s.dev.rd (m - m % 4) := (Dev.rd_movePtr ..).trans (Dev.rd_stepped_data s.dev x _)
  have hrun : (opStoreFrom val p am g simm).run (.seq x) c { s with dev := s.dev.stepped (.seq x) } =
      { s := { s with dev := d.memWrite (m - m % 4) (setPart (s.dev.rd (m - m % 4)) (m % 4) (2 ^ g) (val c).toNat) } } := by
    simp only [opStoreFrom, c, hleg, Bool.false_and, Bool.false_eq_true, if_false, State.putPtr_eq, State.storeAt]
    rw [Dev.seqStore_data _ x ha hal, ← hmem]
    rfl
  rw [State.issue_seq_run (opStoreFrom val p am g simm) h hsimm (by simp) (.inl rfl) (.inl rfl) hrun, Dev.seqEvent_done]
  rfl

/-! ### The statement -/

/-- Lakebed behind a store of the low n bytes of a number. -/
theorem State.lakeWrite_byte {s : State} {b n v : Nat} :
    let u := s.lakeWrite b ((List.range n).map (fun i => BitVec.ofNat 8 (v / 256 ^ i)))
    u.dev.close.health.load = none → u.dev.close.pwr.fill = false → ∀ a,
      Memory.byte u.finish.mem a = if b ≤ a ∧ a < b + n then BitVec.ofNat 8 (v / 256 ^ (a - b)) else Memory.byte s.mem a := by
  intro u hl hf a
  rw [State.finish_mem hl hf]
  exact Memory.byte_puts_bytes b n v s.mem a

/-- Settles O21: a load or a store by its core and the memory that it reaches; SIMM, the size and the sign of a load as the mnemonic
gives them. A load of Efyon-S reads Lakebed as it stands and a store reaches it at once (DESIGN CHOICE, notes/assumptions/101), in the
pool too, where it changes no queue (notes/assumptions/27). -/
theorem memoryAccesses : Obligations.MemoryAccesses := by
  unfold Obligations.MemoryAccesses
  intro s rd xd p am z simm hmode wide sx ea next moved
  have hsimm : simmOk am.val simm = true := by
    rcases hmode with rfl | rfl | rfl <;> simp [simmOk]
  have hp : p.val < 32 := by omega
  have hx : xd.val < 32 := xd.isLt
  have hrd : rd.val ≠ regX p.val := by unfold regX; omega
  have hwide : wide z = 2 ^ sizeLog z := by cases z <;> rfl
  have hsx (v : Nat) : extend (2 ^ sizeLog z) true v = sx z v := by
    rw [extend_signed (by positivity)]
    cases z
    · rfl
    · rfl
    · exact BitVec.signExtend_eq _
  have hsame (c : Core) (o : Option Word) : c.movedX p.val (if regX xd.val = regX p.val then none else o) =
      if xd.val = p.val then c else c.movedX p.val o := by
    unfold regX
    by_cases h : xd.val = p.val
    · rw [if_pos h, if_pos (by rw [h])]
      rfl
    · rw [if_neg h, if_neg (by omega)]
  simp only [hwide]
  refine ⟨fun h b => ⟨fun hleg hspan => ⟨fun hb hue => ⟨?ld, ?ldu⟩, ?st⟩, fun hleg hspan => ⟨fun hb hue => ?ldx, ?stx⟩⟩,
    fun x h => ⟨fun hleg ha hal => ⟨fun hue => ⟨?seqLd, ?seqLdu⟩, ?seqSt⟩, fun hleg ha hal => ⟨fun hue => ?seqLdx, ?seqStx⟩⟩⟩
  case ld =>
    refine congrArg _ ((State.issue_load h rd.val p.val hp am.val (sizeLog z) true simm hsimm hleg b hspan hb hue).trans ?_)
    rw [if_neg hrd, Core.apply_d _ rd.isLt, hsx]
    rfl
  case ldu =>
    refine congrArg _ ((State.issue_load h rd.val p.val hp am.val (sizeLog z) false simm hsimm hleg b hspan hb hue).trans ?_)
    rw [if_neg hrd, Core.apply_d _ rd.isLt]
    rfl
  case st =>
    exact ⟨congrArg _ ((State.issue_store h (·.dr rd.val) hp (sizeLog z) hsimm hleg hspan).trans (by dsimp only; rw [bytesLE_eq_map]; rfl)),
      fun hl hf a => State.lakeWrite_byte hl hf a⟩
  case ldx =>
    refine congrArg _ ((State.issue_load h (regX xd.val) p.val hp am.val 2 false simm hsimm hleg b hspan hb hue).trans ?_)
    rw [hsame, regX, Core.apply_x _ hx]
    rfl
  case stx =>
    exact ⟨congrArg _ ((State.issue_store h (·.xr xd.val) hp 2 hsimm hleg hspan).trans (by dsimp only; rw [bytesLE_eq_map]; rfl)),
      fun hl hf a => State.lakeWrite_byte hl hf a⟩
  case seqLd =>
    refine congrArg _ ((State.issue_load_data h rd.val hp (sizeLog z) true hsimm hleg ha hal hue).trans ?_)
    dsimp only
    rw [if_neg hrd, hsx]
    rfl
  case seqLdu =>
    refine congrArg _ ((State.issue_load_data h rd.val hp (sizeLog z) false hsimm hleg ha hal hue).trans ?_)
    dsimp only
    rw [if_neg hrd]
    rfl
  case seqSt => exact congrArg _ (State.issue_store_data h (·.dr rd.val) (sizeLog z) hsimm hleg ha hal)
  case seqLdx =>
    refine congrArg _ ((State.issue_load_data h (regX xd.val) hp 2 false hsimm hleg ha hal hue).trans ?_)
    dsimp only
    rw [hsame]
    rfl
  case seqStx => exact congrArg _ (State.issue_store_data h (·.xr xd.val) 2 hsimm hleg ha hal)

end Sys2Proof.Machine
end

section
/-! PROOFS. What every command leaves: the queue of waiting commands as it was, and Lakebed canonical where it was; and the statements
StepKeepsCanonical, EveryCommandCompletes, StepRunsFrontCommand, EmptyQueueTicks and ResetCanonical. -/

namespace Sys2Proof.Machine

/-- From `s` to `t` the commands that wait stay, and so does the canonical form of Lakebed. -/
def State.Leads (s t : State) : Prop := t.pending = s.pending ∧ (s.Canonical → t.Canonical)

/-! ### Composition -/

@[simp] theorem State.Leads.refl (s : State) : s.Leads s := ⟨rfl, id⟩

theorem State.Leads.trans {s t u : State} (h : s.Leads t) (k : t.Leads u) : s.Leads u :=
  ⟨k.1.trans h.1, fun c => k.2 (h.2 c)⟩

/-- A change of the device alone. -/
theorem State.Leads.dev {s t : State} (h : s.Leads t) (d : Dev) : s.Leads { t with dev := d } := h

theorem State.leads_dev (s : State) (d : Dev) : s.Leads { s with dev := d } := (State.Leads.refl s).dev d

theorem State.leads_ite {s t u : State} (c : Prop) [Decidable c] (h : s.Leads t) (k : s.Leads u) : s.Leads (if c then t else u) := by
  split
  · exact h
  · exact k

/-- Bytes that are written to Lakebed. -/
theorem State.leads_mem (s : State) {m : List Host.Cell} (h : Memory.wf s.mem = true → Memory.wf m = true) (d : Dev) :
    s.Leads { s with mem := m, dev := d } := ⟨rfl, h⟩

/-! ### The end of a command -/

theorem State.leads_loads (s : State) : s.Leads s.loads := by
  refine ⟨?_, State.loads_canonical⟩
  have h : ∀ t : State, State.pending (match t.dev.health.load with
      | none => t
      | some (i, half) =>
        { t with mem := Memory.load t.mem (half * halfSize) imageSize (t.dev.slot i).image
                 dev := t.dev.updHealth (fun h => { h with load := none }) }) = t.pending := by
    intro t
    split <;> rfl
  unfold State.loads
  split
  · exact h _
  · exact h _

theorem State.leads_finish (s : State) : s.Leads s.finish := (s.leads_dev _).trans (State.leads_loads _)

theorem State.Leads.finish {s t : State} (h : s.Leads t) : s.Leads t.finish := h.trans t.leads_finish

theorem State.leads_act (s : State) (f : Dev → Dev) : s.Leads (s.act f) := (s.leads_dev _).trans (State.leads_loads _)

theorem State.leads_actWiped (s : State) (f : Dev → Dev) : s.Leads (s.actWiped f) :=
  (s.leads_mem (fun _ => rfl) _).trans (State.leads_loads _)

theorem State.leads_live (s : State) (f : Dev → Dev) : s.Leads (s.live f) := State.leads_ite _ (s.leads_act f) (.refl s)

theorem State.leads_island (s : State) (f : Dev → Dev) : s.Leads (s.island f) := State.leads_ite _ (.refl s) (s.leads_act f)

theorem State.leads_viaPath (s : State) (p : Path) (f : Dev → Dev) : s.Leads (s.viaPath p f) :=
  State.leads_ite _ (s.leads_act f) (.refl s)

theorem State.leads_write (s : State) (p : Path) (a : Nat) (v : Word) : s.Leads (s.write p a v) := s.leads_viaPath p _

theorem State.leads_read (s : State) (p : Path) (a : Nat) : s.Leads (s.read p a) := s.leads_viaPath p _

theorem State.leads_access (s : State) (p : Path) (a : Nat) (w : Option Word) : s.Leads (s.access p a w) := by
  cases w with
  | none => exact s.leads_read p a
  | some v => exact s.leads_write p a v

/-! ### Loads and stores of the cores -/

/-- A load of Efyon-S leaves the waiting commands. -/
theorem State.mainLoad_pending (s : State) (a n : Nat) : (s.mainLoad a n).1.pending = s.pending := by
  unfold State.mainLoad
  repeat' split
  all_goals rfl

theorem State.leads_mainLoad (s : State) (a n : Nat) : s.Leads (s.mainLoad a n).1 :=
  ⟨s.mainLoad_pending a n, fun h => (congrArg Memory.wf (s.mainLoad_mem a n)).trans h⟩

theorem State.leads_lakeWrite (s : State) (b : Nat) (bs : List Byte) : s.Leads (s.lakeWrite b bs) :=
  s.leads_mem (Memory.wf_puts bs b) _

theorem State.leads_mainStore (s : State) (a n v : Nat) : s.Leads (s.mainStore a n v).1 := by
  unfold State.mainStore
  split
  · split
    · exact .refl s
    · exact s.leads_dev _
  · split
    · exact .refl s
    · exact s.leads_lakeWrite _ _

theorem State.leads_loadAt (s : State) (e : CoreId) (a : Word) (n : Nat) : s.Leads (s.loadAt e a n).1 := by
  cases e with
  | main => exact s.leads_mainLoad _ n
  | seq x => exact s.leads_dev _

theorem State.leads_storeAt (s : State) (e : CoreId) (a : Word) (n : Nat) (v : Word) : s.Leads (s.storeAt e a n v).1 := by
  cases e with
  | main => exact s.leads_mainStore _ n _
  | seq x => exact s.leads_dev _

theorem State.leads_macLoad (s : State) (e : CoreId) (a : Word) (n : Nat) : s.Leads (s.macLoad e a n).1 := by
  have h := s.leads_loadAt e a n
  unfold State.macLoad
  split
  · rename_i t heq
    rw [heq] at h
    exact h.dev _
  · exact h

theorem State.leads_pushWords (l : List Word) : ∀ (a : Nat) (s t : State), State.pushWords l a s = some t → s.Leads t := by
  induction l with
  | nil => rintro a s t ⟨⟩; exact .refl s
  | cons w ws ih =>
    intro a s t h
    have hs := s.leads_mainStore a 4 w.toNat
    simp only [State.pushWords] at h
    split at h
    · rename_i u _ _ heq
      rw [heq] at hs
      exact hs.trans (ih _ u t h)
    · cases h

theorem State.leads_pullWords (n : Nat) : ∀ (a : Nat) (s : State), s.Leads (State.pullWords n a s).1 := by
  induction n with
  | zero => exact fun a s => .refl s
  | succ n ih =>
    intro a s
    have hs := s.leads_mainLoad a 4
    simp only [State.pullWords]
    split
    · rename_i u _ _ heq
      rw [heq] at hs
      exact hs.trans (ih _ u)
    · rename_i u _ _ heq
      rw [heq] at hs
      exact hs

/-! ### Entries and exits of Efyon-S -/

theorem State.leads_doubleFault (s : State) : s.Leads s.doubleFault := s.leads_dev _

theorem State.leads_pushFrame {s t : State} {r : Return} {cause fa : Word} (h : s.pushFrame r cause fa = some t) : s.Leads t := by
  unfold State.pushFrame at h
  dsimp only at h
  split at h
  · cases h
  · exact State.leads_pushWords _ _ s t h

theorem State.leads_exception (s : State) (vec src : Nat) (fa : Word) (r : Return) : s.Leads (s.exception vec src fa r) := by
  unfold State.exception
  dsimp only
  split
  · exact s.leads_doubleFault
  · split
    · exact s.leads_doubleFault
    · rename_i t heq
      exact (State.leads_pushFrame heq).dev _

theorem State.leads_recause (s : State) (src : Nat) : s.Leads (s.recause src) := by
  unfold State.recause
  dsimp only
  generalize hc : causeWord 32 src _ = cause
  have hs := s.leads_mainStore ((s.dev.esc.core.xr 7).toNat + 24) 4 cause.toNat
  split
  · rename_i t _ _ heq
    rw [heq] at hs
    exact hs.dev _
  · exact s.leads_doubleFault

theorem State.leads_normalGo (s : State) (src : Nat) : s.Leads (s.normalGo src) := by
  unfold State.normalGo
  dsimp only
  split
  · exact s.leads_doubleFault
  · rename_i t heq
    exact (State.leads_pushFrame heq).dev _

theorem State.leads_takeBack (s : State) (u : Undo) : s.Leads (s.takeBack u) := by
  unfold State.takeBack
  dsimp only
  cases u.frame with
  | none => exact s.leads_dev _
  | some x => exact s.leads_mem (Memory.wf_puts _ _) _

theorem State.leads_fastEntry (s : State) (i : Nat) : s.Leads (s.fastEntry i) := by
  unfold State.fastEntry
  dsimp only
  split
  · exact .refl s
  split
  · exact State.leads_ite _ (s.leads_dev _) (.refl s)
  split
  · exact (s.leads_takeBack _).dev _
  · exact State.leads_ite _ ((s.leads_takeBack _).dev _) (.refl s)
  · exact .refl s

theorem State.leads_normalEntry (s : State) : s.Leads s.normalEntry := by
  unfold State.normalEntry
  dsimp only
  split
  · exact .refl s
  · split
    · exact .refl s
    · split
      · exact State.leads_ite _ (s.leads_normalGo _) (.refl s)
      · split
        · exact State.leads_ite _ (s.leads_recause _) (.refl s)
        · exact .refl s

theorem State.leads_dueEntry (s : State) : s.Leads s.dueEntry := by
  unfold State.dueEntry
  split
  · exact s.leads_fastEntry _
  · exact s.leads_normalEntry

theorem State.leads_enterDone (s : State) : s.Leads s.enterDone := by
  unfold State.enterDone
  dsimp only
  split
  · exact .refl s
  · have h : s.Leads { s with dev := s.dev.setEsc { s.dev.esc with entering := false, undo := none } } := s.leads_dev _
    split
    · exact State.leads_ite _ (h.dev _) h
    · split
      · exact State.leads_ite _ h (h.trans (State.leads_recause _ _))
      · exact h
    · exact h

theorem State.leads_popFrame (s : State) : s.Leads s.popFrame := by
  have h := State.leads_pullWords 9 (s.dev.esc.core.xr 7).toNat s
  unfold State.popFrame
  dsimp only
  split
  · rename_i heq
    rw [heq] at h
    exact h.dev _
  all_goals
    rename_i heq
    rw [heq] at h
    exact h.trans (State.leads_exception _ _ _ _ _)

theorem State.leads_normalExit (s : State) : s.Leads s.normalExit := by
  unfold State.normalExit
  dsimp only
  split
  · exact s.leads_dev _
  · exact State.leads_ite _ ((s.leads_dev _).trans (State.leads_recause _ _)) s.leads_popFrame
  · exact s.leads_popFrame

theorem State.leads_land (k : Nat) : ∀ s : State, s.Leads (State.land k s) := by
  induction k with
  | zero => exact fun s => .refl s
  | succ k ih =>
    intro s
    unfold State.land
    dsimp only
    exact State.leads_ite _ (s.leads_normalExit.trans (ih _)) (State.leads_ite _ ((s.leads_dev _).trans (ih _)) (.refl s))

/-! ### Instructions -/

/-- An instruction whose execution keeps what every command keeps. -/
def Op.Leads (o : Op) : Prop := ∀ (e : CoreId) (c : Core) (s : State), s.Leads (o.run e c s).s

theorem opIllegal_leads : opIllegal.Leads := fun _ _ s => .refl s
theorem opNop_leads : opNop.Leads := fun _ _ s => .refl s
theorem opSync_leads : opSync.Leads := fun _ _ s => s.leads_dev _
theorem opHalt_leads : opHalt.Leads := fun _ _ s => .refl s
theorem opTrap_leads (n : Nat) : (opTrap n).Leads := fun _ _ s => .refl s
theorem opWaitph_leads (m : Nat) : (opWaitph m).Leads := fun _ _ s => .refl s
theorem opSkip_leads (cc : Nat) : (opSkip cc).Leads := fun _ _ s => .refl s
theorem op3_leads (f : Core → Word → Word → Res) (rd ra rb : Nat) : (op3 f rd ra rb).Leads := fun _ _ s => s.leads_dev _
theorem opI_leads (f : Word → Word → Res) (imm : Core → Word) (rd ra : Nat) : (opI f imm rd ra).Leads := fun _ _ s => s.leads_dev _
theorem opMovi_leads (rd : Nat) (i : BitVec 16) : (opMovi rd i).Leads := fun _ _ s => s.leads_dev _
theorem opMovx_leads (x ra : Nat) : (opMovx x ra).Leads := fun _ _ s => s.leads_dev _
theorem opMovfx_leads (rd x : Nat) : (opMovfx rd x).Leads := fun _ _ s => s.leads_dev _
theorem opMovfs_leads (rd x : Nat) : (opMovfs rd x).Leads := fun _ _ s => s.leads_dev _
theorem opProduct_leads (f : Word → Word → Res) (rd ra rb : Nat) : (opProduct f rd ra rb).Leads := fun _ _ s => s.leads_dev _
theorem opAcc_leads (f : Int → Word → Word → Int) (acc ra rb : Nat) : (opAcc f acc ra rb).Leads := fun _ _ s => s.leads_dev _
theorem opMova_leads (rd acc k : Nat) : (opMova rd acc k).Leads := fun _ _ s => s.leads_dev _
theorem opMovas_leads (rd acc k : Nat) : (opMovas rd acc k).Leads := fun _ _ s => s.leads_dev _
theorem opDivide_leads (f : Word → Word → Res) (rd ra rb : Nat) : (opDivide f rd ra rb).Leads := fun _ _ s => s.leads_dev _
theorem opPort_leads (port : Core → Nat) (v : Core → Word) : (opPort port v).Leads := fun _ _ s => s.leads_dev _
theorem opQstat_leads (rd rb : Nat) : (opQstat rd rb).Leads := fun _ _ s => s.leads_dev _
theorem opPop_leads (rd : Nat) (queue : Core → Nat) : (opPop rd queue).Leads := fun _ _ s => s.leads_dev _

theorem opMovs_leads (x ra : Nat) : (opMovs x ra).Leads := by
  intro e c s
  show s.Leads (s.putSpecial e c x (c.dr ra))
  unfold State.putSpecial
  split
  · exact s.leads_dev _
  · exact s.leads_dev _
  · exact s.leads_dev _
  · exact .refl s

theorem opJump_leads (link : Option Nat) (target : Core → Word) : (opJump link target).Leads := by
  intro e c s
  cases link with
  | none => exact .refl s
  | some rd => exact s.leads_dev _

theorem State.leads_putPtr (s : State) (e : CoreId) (c : Core) (p : Nat) (v : Option Word) : s.Leads (s.putPtr e c p v) := by
  cases v with
  | none => exact .refl s
  | some v => exact s.leads_dev _

theorem opLoadTo_leads (reg p am g : Nat) (signed : Bool) (simm : BitVec 12) : (opLoadTo reg p am g signed simm).Leads := by
  intro e c s
  unfold opLoadTo
  dsimp only
  generalize c.ptrNext p am simm.toInt g = next
  split
  · exact .refl s
  · generalize ho : (if reg = regX p then none else next.1) = o
    have h := (s.leads_putPtr e c p o).trans (State.leads_loadAt _ e (c.ea p am simm) (2 ^ g))
    split
    · rename_i heq
      rw [heq] at h
      exact h.dev _
    · rename_i heq
      rw [heq] at h
      exact h
    · rename_i heq
      rw [heq] at h
      exact h

theorem opStoreFrom_leads (val : Core → Word) (p am g : Nat) (simm : BitVec 12) : (opStoreFrom val p am g simm).Leads := by
  intro e c s
  unfold opStoreFrom
  dsimp only
  split
  · exact .refl s
  · exact (s.leads_putPtr e c p _).trans (State.leads_storeAt _ e _ _ _)

theorem opMac2_leads (acc p q amp amq : Nat) (word : Bool) : (opMac2 acc p q amp amq word).Leads := by
  intro e c s
  unfold opMac2
  dsimp only
  generalize (if word then 2 else 1) = g
  generalize c.ptrNext p (macMode amp) 0 g = np
  generalize c.ptrNext q (macMode amq) 0 g = nq
  split
  · exact .refl s
  · have h := ((s.leads_putPtr e c p np.1).trans (State.leads_putPtr _ e c q nq.1)).trans
      (State.leads_macLoad _ e (c.xr p) (2 ^ g))
    split
    · rename_i t _ _ heq
      rw [heq] at h
      have k := h.trans (t.leads_macLoad e (c.xr q) (2 ^ g))
      split
      · rename_i heq'
        rw [heq'] at k
        exact k.dev _
      · rename_i heq'
        rw [heq'] at k
        exact k
    · rename_i heq
      rw [heq] at h
      exact h

/-! ### Words -/

theorem reserved_leads (fs : List Nat) {o : Op} (h : o.Leads) : (reserved fs o).Leads := by
  unfold reserved
  split
  · exact h
  · exact opIllegal_leads

theorem decodeControl_leads (fn rd ra rb : Nat) : (decodeControl fn rd ra rb).Leads := by
  unfold decodeControl opJr opJalr opPushq opPushqe opQabort opQlast opPopq opQdrop
  repeat' split
  all_goals
    simp only [reserved_leads, opIllegal_leads, opNop_leads, opJump_leads, opMovx_leads, opMovfx_leads, opMovs_leads, opMovfs_leads,
      opPort_leads, opQstat_leads, opPop_leads, opSync_leads, opHalt_leads, opTrap_leads, opSkip_leads]

theorem decodeAlu_leads (fn rd ra rb : Nat) : (decodeAlu fn rd ra rb).Leads := by
  unfold decodeAlu
  split
  all_goals
    simp only [reserved_leads, opIllegal_leads, op3_leads, op2, opAdd, opAddc, opSub, opSubc, opAdds, opSubs, opNeg, opNegs, opAbs, opAbss,
      opCmp, opMin, opMax, opMinu, opMaxu, opAnd, opOr, opXor, opAndn, opTst, opShl, opShr, opSar, opRor, opRol, opClz, opPopc,
      opBrev, opSextb, opSexth, opZextb, opZexth]

theorem decodeMul_leads (fn rd ra rb : Nat) : (decodeMul fn rd ra rb).Leads := by
  unfold decodeMul
  split
  all_goals
    simp only [reserved_leads, opIllegal_leads, opProduct_leads, opAcc_leads, opMova_leads, opMovas_leads, opDivide_leads, opMul, opMulh,
      opMulhu, opMulq, opMac, opMsu, opMacu, opClra, opMta, opDiv, opDivu, opRem, opRemu, opDivs]

theorem decodeImm_leads (op rd ra : Nat) (i : BitVec 16) : (decodeImm op rd ra i).Leads := by
  unfold decodeImm
  dsimp only
  split
  all_goals
    simp only [reserved_leads, opI_leads, op3_leads, opMovi_leads, opWaitph_leads, opPort_leads, opPop_leads, op2, opAddi, opAddsi, opAndi,
      opOri, opXori, opCmpi, opShli, opShri, opSari, opRori, opPushqi, opPopqi]

theorem decodeMem_leads (op : Nat) (w : Word) : (decodeMem op w).Leads := by
  unfold decodeMem
  dsimp only
  split
  · split
    · exact opIllegal_leads
    · exact reserved_leads _ (opMac2_leads _ _ _ _ _ _)
  · split
    · exact opIllegal_leads
    · refine reserved_leads _ ?_
      split
      · exact opLoadTo_leads _ _ _ _ _ _
      · exact opLoadTo_leads _ _ _ _ _ _
      · exact opStoreFrom_leads _ _ _ _ _
      · exact opLoadTo_leads _ _ _ _ _ _
      · exact opStoreFrom_leads _ _ _ _ _
      · exact opIllegal_leads

/-- Every word of program memory stands for an instruction that keeps what every command keeps; prefixes are no instructions. -/
theorem decodeEfyon_leads {w : Word} {o : Op} (h : decodeEfyon w = .op o) : o.Leads := by
  have hp : decodePrefix w = .op o → o.Leads := by
    unfold decodePrefix
    dsimp only
    intro h
    repeat' split at h
    all_goals
      cases h <;> exact opIllegal_leads
  unfold decodeEfyon at h
  dsimp only at h
  split at h
  · cases h; exact decodeControl_leads _ _ _ _
  split at h
  · cases h; exact decodeAlu_leads _ _ _ _
  split at h
  · cases h; exact decodeMul_leads _ _ _ _
  split at h
  · cases h; exact decodeImm_leads _ _ _ _
  split at h
  · cases h; exact decodeMem_leads _ _
  split at h
  · cases h; exact opJump_leads _ _
  split at h
  · cases h; exact opJump_leads _ _
  split at h
  · exact hp h
  · cases h; exact opIllegal_leads

/-! ### Issue and steps -/

theorem State.leads_seqIssue (s : State) (x : Ctx) {op : Op} (h : op.Leads) : s.Leads (s.seqIssue x op) := by
  unfold State.seqIssue
  dsimp only
  split
  · exact s.leads_dev _
  split
  · exact s.leads_dev _
  split
  · exact s.leads_dev _
  split
  · exact s.leads_dev _
  · exact ((s.leads_dev _).trans (h _ _ _)).dev _

theorem State.leads_mainEvent {r s : State} (c : Core) {o : Out} (hs : r.Leads s) (ho : r.Leads o.s) : r.Leads (s.mainEvent c o) := by
  unfold State.mainEvent
  dsimp only
  split
  · exact ho.trans (State.leads_land _ _)
  · exact ho.trans (State.leads_land _ _)
  · exact State.leads_ite _ (hs.trans (State.leads_exception _ _ _ _ _)) (ho.dev _)
  · exact ho.dev _
  · exact (ho.dev _).trans (State.leads_exception _ _ _ _ _)
  · exact (ho.dev _).trans (State.leads_exception _ _ _ _ _)
  · exact (ho.dev _).trans (State.leads_exception _ _ _ _ _)
  · exact ho.trans (State.leads_exception _ _ _ _ _)
  · exact ho.trans (State.leads_exception _ _ _ _ _)
  · exact (ho.dev _).trans (State.leads_land _ _)
  · exact (ho.dev _).trans (State.leads_land _ _)
  · exact ho.dev _

theorem State.leads_mainFetchUe (s : State) (pc : Word) : s.Leads (s.mainFetchUe pc) := by
  unfold State.mainFetchUe
  split
  · exact s.leads_dev _
  · exact .refl s

theorem State.leads_mainIssue (s : State) {op : Op} (h : op.Leads) : s.Leads (s.mainIssue op) := by
  have hd := s.leads_enterDone
  unfold State.mainIssue
  dsimp only
  split
  · exact hd.dev _
  split
  · exact (hd.trans (State.leads_mainFetchUe _ _)).trans (State.leads_exception _ _ _ _ _)
  split
  · exact hd.trans (State.leads_exception _ _ _ _ _)
  split
  · exact (hd.dev _).trans (State.leads_land _ _)
  · exact State.leads_ite _ (hd.trans (State.leads_exception _ _ _ _ _))
      (State.leads_mainEvent _ hd ((hd.dev _).trans (h _ _ _)))

theorem State.leads_issueRaw (s : State) (e : CoreId) {op : Op} (h : op.Leads) : s.Leads (s.issueRaw e op) := by
  cases e with
  | main => exact s.leads_mainIssue h
  | seq x => exact s.leads_seqIssue x h

theorem State.leads_issue (s : State) (e : CoreId) {op : Op} (h : op.Leads) : s.Leads (s.issue e op) :=
  State.leads_ite _ (s.leads_issueRaw e h).finish (.refl s)

theorem State.leads_prefixRaw (s : State) (e : CoreId) (rep : Bool) (f : Core → Core) : s.Leads (s.prefixRaw e rep f) := by
  have hn : Op.Leads { ok := false, run := fun _ _ s => { s := s } } := fun _ _ s => .refl s
  unfold State.prefixRaw
  cases e with
  | main =>
    have hd := s.leads_enterDone
    dsimp only
    split
    · exact hd.trans (State.leads_issueRaw _ _ hn)
    · exact State.leads_ite _ (hd.trans (State.leads_issueRaw _ _ hn)) (hd.dev _)
  | seq x =>
    dsimp only
    split
    · exact s.leads_issueRaw _ hn
    · exact State.leads_ite _ (s.leads_dev _) (State.leads_ite _ (s.leads_dev _) (s.leads_dev _))

theorem State.leads_prefixed (s : State) (e : CoreId) (rep : Bool) (f : Core → Core) : s.Leads (s.prefixed e rep f) :=
  State.leads_ite _ (s.leads_prefixRaw e rep f).finish (.refl s)

theorem State.leads_stepWord (s : State) (e : CoreId) (w : Word) : s.Leads (s.stepWord e w).1 := by
  unfold State.stepWord
  split
  · rename_i heq
    exact s.leads_issueRaw e (decodeEfyon_leads heq)
  · exact s.leads_prefixRaw e _ _
  · exact s.leads_prefixRaw e _ _
  · exact s.leads_prefixRaw e _ _

theorem State.leads_stepCore (e : CoreId) (k : Nat) : ∀ s : State, s.Leads (State.stepCore e k s) := by
  induction k with
  | zero => exact fun s => .refl s
  | succ k ih =>
    intro s
    have h := s.leads_stepWord e (s.fetchWord e)
    unfold State.stepCore
    dsimp only
    exact State.leads_ite _ (h.trans (ih _)) h

theorem State.leads_stepCtx (s : State) (x : Ctx) : s.Leads (s.stepCtx x) :=
  State.leads_ite _ (.refl s) ((State.leads_stepCore _ _ s).dev _)

theorem State.leads_runSteps (s : State) : s.Leads s.runSteps := by
  have hl : ∀ (l : List Nat) (t : State),
      t.Leads (l.foldl (fun (s : State) x => if h : x < 160 then s.stepCtx ⟨x, h⟩ else s) t) := by
    intro l
    induction l with
    | nil => exact fun t => .refl t
    | cons x l ih =>
      intro t
      refine State.Leads.trans ?_ (ih _)
      dsimp only
      split
      · exact t.leads_stepCtx _
      · exact .refl t
  unfold State.runSteps
  dsimp only
  exact State.leads_ite _ (.refl s) ((s.leads_dev _).trans (hl _ _)).finish

theorem State.Leads.runSteps {s t : State} (h : s.Leads t) : s.Leads t.runSteps := h.trans t.leads_runSteps

/-! ### Lakebed, the monitor and the field -/

theorem State.leads_bar2Write (s : State) (a : Nat) (bs : List Byte) : s.Leads (s.bar2Write a bs) := by
  unfold State.bar2Write
  split
  · exact s.leads_act _
  · exact (s.leads_mem (Memory.wf_puts bs a) s.dev).trans (State.leads_act _ _)

theorem State.leads_bar2Read (s : State) (a n : Nat) : s.Leads (s.bar2Read a n) := by
  unfold State.bar2Read
  exact s.leads_act _

theorem State.leads_bar2 (s : State) (a : Nat) (w : Option (List Byte)) (n : Nat) : s.Leads (s.bar2 a w n) := by
  unfold State.bar2
  split
  · exact .refl s
  cases w with
  | some bs => exact State.leads_ite _ (s.leads_bar2Write a bs) (.refl s)
  | none => exact State.leads_ite _ (s.leads_bar2Read a n) (.refl s)

theorem State.leads_scrubbed (s : State) (m : ScrubMem) (a : Nat) (r : ScrubResult) : s.Leads (s.scrubbed m a r) := by
  unfold State.scrubbed
  dsimp only
  refine (s.leads_mem ?_ s.dev).trans (State.leads_act _ _)
  intro h
  split
  · exact Memory.wf_putWords _ h
  · exact h

theorem State.leads_weirFrame (s : State) (words : List ChipWords) (synced : Bool) : s.Leads (s.weirFrame words synced) := by
  unfold State.weirFrame
  split
  · exact (s.leads_mem (Memory.wf_putWords _) s.dev).trans (State.leads_act _ _)
  · exact .refl s

theorem State.leads_weirCommit (s : State) : s.Leads s.weirCommit := by
  unfold State.weirCommit
  split
  · exact (s.leads_mem (Memory.wf_putWords _) s.dev).trans (State.leads_act _ _)
  · exact .refl s

theorem State.leads_line (s : State) (n : Nat) {f : State → State × MonAns} (h : ∀ t : State, t.Leads (f t).1) : s.Leads (s.line n f) := by
  unfold State.line
  dsimp only
  split
  · exact .refl s
  · refine State.Leads.finish (State.Leads.dev (State.leads_ite _ (.refl s) ?_) _)
    split
    · exact s.leads_dev _
    · exact (s.leads_dev _).trans (h _)

theorem State.leads_devLine (s : State) (n : Nat) (f : Dev → Dev × MonAns) : s.Leads (s.devLine n f) :=
  s.leads_line n (fun t => t.leads_dev _)

theorem State.leads_monStep (s : State) : s.Leads s.monStep.1 := by
  unfold State.monStep
  split
  · exact .refl s
  · exact (State.leads_ite _ (State.leads_stepCore _ _ s) (.refl s)).trans (State.leads_dueEntry _)

theorem State.leads_loaded (s : State) (p : Path) : s.Leads (s.loaded p) := by
  unfold State.loaded
  split
  · exact State.leads_ite _ (.refl s) ((s.leads_dev _).trans (State.leads_land _ _))
  · exact .refl s

theorem State.leads_proxyEnd (s : State) (p : Path) (f : Dev → Dev) : s.Leads (s.proxyEnd p f) :=
  State.leads_ite _ ((s.leads_dev _).trans (State.leads_loaded _ p)).finish (.refl s)

theorem State.leads_page (s : State) (m : PageMsg) : s.Leads (s.page m) := by
  unfold State.page
  cases m with
  | request off w => exact s.leads_live _
  | completion p v => exact s.leads_proxyEnd p _

theorem State.leads_fieldReset (s : State) (k : FieldReset) : s.Leads (s.fieldReset k) := by
  unfold State.fieldReset
  cases k with
  | fire p key => exact s.leads_write p _ _
  | instant => exact s.leads_live _

theorem tick_leads (s : State) : s.Leads (tick s) := by
  unfold tick
  split
  · exact State.Leads.runSteps (s.leads_act Dev.cycle)
  split
  · exact s.leads_dev _
  · exact .refl s

/-! ### Every command -/

/-- What a command leads to, by the form of its meaning: an action on the device, an access by a path, an instruction of a core, or an
operation that writes Lakebed. -/
theorem exec_leads (i : Instr) (s : State) : ∃ t, exec i s = .next t ∧ s.Leads t := by
  cases i
  all_goals refine ⟨_, rfl, ?_⟩
  case poresetRelease | clockFaultRestart | aonFail | aonCrystalReturn | ltimePairLatch | ilkLow | ilkHigh | perstAssert | perstRelease =>
    exact s.leads_act _
  case islandPowerOn | vaonLoss =>
    exact s.leads_actWiped _
  case poresetAssert | railFault | clockFault =>
    exact State.leads_ite _ (.refl s) (s.leads_actWiped _)
  case powerDown =>
    exact State.leads_ite _ (s.leads_actWiped _) (.refl s)
  case thermalTrip | thermalTripClear =>
    exact State.leads_ite _ (s.leads_act _) (.refl s)
  case readyRise | campResetAct | campResetDone | watchdogExpiry | linkUp | tapReset | keptRequestExecute | standbyClocksStopped |
      campwatchDrainDone | drainTimeout | safeOffWake | checkComplete | pitchApply | settlingEnd | flapCloseSettled | forceRampDone |
      flapIsolated | overvoltage | senseLoss | cmpEntry | complyEntry | complyExit | apertureEnd | calibrationComplete | encoderEdge |
      encLineFault | encLineRecover | encIndex | zStuck | zcEdge | plsPulse | plsStuck | stallEntry | extrapEnd | markFire |
      weirDriveStart | weirDriveEnd | streamOutput | phaseGridRelease | coefCopyDone | gateDurationEnd | sensorSample | stovePowerMeasure |
      leaseExpiry | deferExpiry | cooldownEnd | pendingPacketRetry | spillMove | spillRefill | linkSweepDone | lossRecordEmit | timerMatch |
      timerOverflow | timerOutputAct | tinEdge | tinStuck | stormWindowEnd | moderationEnd | l1Entry | d3hotEntry | d0Entry | flr |
      hotReset | linkDown | descFetchDone | outletFlushTimeout | packetAcked | stretchTimeout | busStuckTimeout | attentionRequest |
      atnAbandon | backoffEnd | drainRecord | startUpComplete | configurationRequest | l1Exit | viermaLinkTrained | lossOfSignal | enum |
      delay | phase | fieldJoin | query | vote | fieldEventDecide | go | refuse | fieldEventInstant | wready | fstart | data | record |
      uplinkLoss | downlinkLoss | wearSnapshot | eolPrediction | idleSlotCalibration | referenceCheckDone | fwLoadDone | monBreak |
      baudRevert | lockoutEnd | haltTimeout | debug =>
    exact s.leads_live _
  case extest | highz | idcode | samplePreload | bypass | fwProgramDone =>
    exact s.leads_live _
  case cwWriteApply | senseChange | senseStuck | pollDue | pollTransferDone | wakeHoldExpiry =>
    exact s.leads_island _
  case resetDevice | resetCore | resetCamp | wdogKick | pwrReqStandby | pwrReqReady | pwrReqCampwatch | pwrReqWithdraw | pitchCheck |
      pitchArm | pitchDisarm | pitchDiscard | stageRevert | faultAck | quarWrite | calFull | calQuick | calFlapTest | clearErrors |
      turnsZero | weirStart | weirAbort | rearm | clearFlCount | push | pushEop | pcmdAbort | pcmdSetLastb | drop | flush |
      clearQueueCounters | tailWrite | tmStart | tmStop | tmLoad | tmCapture | tmRelease | ctxRelease | doorbell | clrPend | setEnS |
      clrEnS | setEnH | clrEnH | clrStormed | completeS | completeH | icBitmapWrite | outletTailWrite | close | atnRaise | releaseWake |
      emptyBatch | fire | load =>
    exact s.leads_write _ _ _
  case readClear | ltimeLoRead | phFracRead | consumerRead | headRead | countLoRead | capLtHiRead | claimS | claimH | aonLoRead =>
    exact s.leads_read _ _
  case cwDataAccess | tblDataAccess =>
    exact s.leads_access _ _ _
  case mgmtTransaction | program | switch =>
    exact s.leads_viaPath _ _
  case registerWrite =>
    exact (s.leads_viaPath _ _).runSteps
  case ctxStep =>
    exact (s.leads_write _ _ _).runSteps
  case movx | movfx | movfs | pushq | pushqe | qabort | qlast | qstat | popq | qdrop | sync | add | addc | sub | subc | adds | subs | neg |
      negs | abs | abss | cmp | min | max | minu | maxu | and | or | xor | andn | tst | shl | shr | sar | ror | rol | clz | popc | brev |
      sextb | sexth | zextb | zexth | mul | mulh | mulhu | mulq | mac | msu | macu | clra | mta | mova | movas | div | divu | rem | remu |
      divs | addi | addsi | andi | ori | xori | cmpi | movi | shli | shri | sari | rori | pushqi | popqi =>
    exact s.leads_issue _ (fun _ _ t => t.leads_dev _)
  case jr | jalr | br | call =>
    exact s.leads_issue _ (opJump_leads _ _)
  case movs =>
    exact s.leads_issue _ (opMovs_leads _ _)
  case ld | ldu | ldx =>
    exact s.leads_issue _ (opLoadTo_leads _ _ _ _ _ _)
  case st | stx =>
    exact s.leads_issue _ (opStoreFrom_leads _ _ _ _ _)
  case mac2 =>
    exact s.leads_issue _ (opMac2_leads _ _ _ _ _ _)
  case nop =>
    exact s.leads_issue _ opNop_leads
  case halt =>
    exact s.leads_issue _ opHalt_leads
  case trap =>
    exact s.leads_issue _ (opTrap_leads _)
  case waitph =>
    exact s.leads_issue _ (opWaitph_leads _)
  case skip =>
    exact s.leads_issue _ (opSkip_leads _)
  case illegalEncoding =>
    exact State.leads_ite _ (s.leads_issue _ opIllegal_leads) (.refl s)
  case repN | repLc | imx =>
    exact s.leads_prefixed _ _ _
  case fastInterruptEntry =>
    exact State.leads_ite _ (s.leads_fastEntry _).finish (.refl s)
  case normalInterruptEntry =>
    exact State.leads_ite _ s.leads_normalEntry.finish (.refl s)
  case bar2Request =>
    exact s.leads_bar2 _ _ _
  case weirFrameEnd =>
    exact s.leads_weirFrame _ _
  case weirCommit =>
    exact s.leads_weirCommit
  case scrubAccess =>
    exact s.leads_scrubbed _ _ _
  case page =>
    exact s.leads_page _
  case fieldReset =>
    exact s.leads_fieldReset _
  case proxyTimeout =>
    exact s.leads_proxyEnd _ _
  case monId | monUnlock | monKey | monLock | monBaud | monPeek | monRd | monPop | monQdrop | monPush | monCtx | monCtxRelease | monHalt |
      monGo | monSreg | monFlap | monFlapOpen =>
    exact s.leads_devLine _ _
  case monWr | monCtxStep =>
    exact (s.leads_devLine _ _).runSteps
  case monSstep =>
    exact s.leads_line _ State.leads_monStep
  case referenceCheck =>
    rename_i p
    cases p with
    | none => exact s.leads_live _
    | some p => exact s.leads_write _ _ _

/-- Settles O4: Lakebed stays canonical through every command and through every tick. -/
theorem stepKeepsCanonical : Obligations.StepKeepsCanonical := by
  unfold Obligations.StepKeepsCanonical
  intro s t hs h
  obtain ⟨pending, mem, dev⟩ := s
  cases pending with
  | nil =>
    cases h
    exact (tick_leads _).2 hs
  | cons c rest =>
    obtain ⟨u, hu, -, hc⟩ := exec_leads c ⟨rest, mem, dev⟩
    cases hu.symm.trans h
    exact hc hs

/-- Settles O3: every command leads to a state with the same waiting commands. -/
theorem everyCommandCompletes : Obligations.EveryCommandCompletes := by
  unfold Obligations.EveryCommandCompletes
  intro i s
  obtain ⟨t, ht, hp, -⟩ := exec_leads i s
  exact ⟨t, ht, hp⟩

/-! ### The front command, ticks and reset -/

/-- Settles O1: the step is the front command's meaning on the queue's rest. -/
theorem stepRunsFrontCommand : Obligations.StepRunsFrontCommand := by
  unfold Obligations.StepRunsFrontCommand
  intro i rest s
  rfl

/-- Settles O5: reset lists no byte and no command. -/
theorem resetCanonical : Obligations.ResetCanonical := by
  unfold Obligations.ResetCanonical
  exact ⟨reset_canonical, rfl, fun _ => rfl⟩

/-- The poll engine changes Campwatch's part alone. -/
theorem Dev.pollNext_cw (d : Dev) : ∃ c, d.pollNext = d.setCw c := by
  unfold Dev.pollNext
  split
  · exact ⟨_, rfl⟩
  · exact ⟨d.cw, rfl⟩

/-- An edge of CK_AON changes Campwatch's polls alone. -/
theorem Dev.cwEdge_cw (d : Dev) : ∃ c, d.cwEdge = d.setCw c := by
  obtain ⟨c, hc⟩ := Dev.pollNext_cw ((d.setCw { d.cw with first := [], olds := [] }).setCw
    { d.cw with first := [], olds := []
                due := (d.cw.first.filter (d.setCw { d.cw with first := [], olds := [] }).polls? ++ d.cw.due).insertionSort (· ≤ ·) })
  exact ⟨c, hc⟩

/-- Settles O2: an empty queue ticks, by the clock that runs. -/
theorem emptyQueueTicks : Obligations.EmptyQueueTicks := by
  unfold Obligations.EmptyQueueTicks
  intro s hp
  refine ⟨by simp only [step, hp], fun hs => ⟨if_pos hs, rfl⟩, fun hs hv => ?_, fun hs hv => ?_⟩
  · have ht : tick s = { s with dev := s.dev.aonCycle } := by simp [tick, hs, hv]
    obtain ⟨c, hc⟩ := Dev.cwEdge_cw { s.dev with pwr := { s.dev.pwr with aonCnt := s.dev.pwr.aonCnt + 1, aonFrac := 0 } }
    exact ⟨c, ht.trans (congrArg (fun d => ({ s with dev := d } : State)) hc)⟩
  · simp [tick, hs, hv]

end Sys2Proof.Machine
end

section
/-! PROOFS. The interrupt controller: which source a claim takes, what each command makes of the controller, and the statements
ClaimTakesLowest and InterruptCommands. -/

namespace Sys2Proof.Machine

/-! ### Claims (R392, R394) -/

theorem IntCtl.claimH_bit (c : IntCtl) {k : Nat} (hk : k < 1024) :
    c.claimH.getLsbD k = true ↔ c.pend.getLsbD k ∧ c.enH.getLsbD k ∧ !c.active.getLsbD k := by
  simp only [IntCtl.claimH, BitVec.getLsbD_and, BitVec.getLsbD_not, hk, decide_true, Bool.true_and, Bool.and_eq_true]
  tauto

theorem IntCtl.claimS_bit (c : IntCtl) {k : Nat} (hk : k < 1024) :
    c.claimS.getLsbD k = true ↔ c.pend.getLsbD k ∧ c.enS.getLsbD k ∧ !c.active.getLsbD k := by
  simp only [IntCtl.claimS, BitVec.getLsbD_and, BitVec.getLsbD_not, hk, decide_true, Bool.true_and, Bool.and_eq_true]
  tauto

/-- The lowest number below a bound that a test accepts. -/
theorem find?_range_lowest {n j : Nat} {p : Nat → Bool} :
    (List.range n).find? p = some j ↔ j < n ∧ p j = true ∧ ∀ k < j, p k = false := by
  simp only [List.find?_range_eq_some, List.mem_range, Bool.not_eq_true']
  tauto

/-- One bit that is set or cleared. -/
theorem bset_bit {n : Nat} (v : BitVec n) {i : Nat} (hi : i < n) (b : Bool) (k : Nat) :
    (bset v i b).getLsbD k = if k = i then b else v.getLsbD k := by
  have hone : (BitVec.ofNat n (2 ^ i)).getLsbD k = (decide (k < n) && decide (i = k)) := by
    rw [BitVec.getLsbD_ofNat, Nat.testBit_two_pow]
  rcases b with _ | _
  · rw [bset, if_neg Bool.false_ne_true, BitVec.getLsbD_and, BitVec.getLsbD_not, hone]
    by_cases hk : k = i
    · simp [hk]
    · by_cases hn : k < n
      · simp [hk, hn, Ne.symm hk]
      · simp [hk, hn, BitVec.getLsbD_of_ge v k (by omega)]
  · rw [bset, if_pos rfl, BitVec.getLsbD_or, hone]
    by_cases hk : k = i
    · simp [hk, hi]
    · simp [hk, Ne.symm hk]

/-- Settles O50: a claim takes the first number that its test accepts, and the test reads the bits of PEND, of the enable and of
ACTIVE. -/
theorem claimTakesLowest : Obligations.ClaimTakesLowest := by
  unfold Obligations.ClaimTakesLowest
  intro c j
  refine ⟨?host, ?efyonS, fun b i hj => bset_bit c.pend hj b i⟩
  case host =>
    have hfree : ∀ k < 1024, c.claimH.getLsbD k = false ↔ ¬(c.pend.getLsbD k ∧ c.enH.getLsbD k ∧ !c.active.getLsbD k) :=
      fun k hk => by rw [← c.claimH_bit hk, Bool.not_eq_true]
    refine find?_range_lowest.trans ⟨fun ⟨hj, hc, hl⟩ => ?_, fun ⟨hj, hp, he, ha, hl⟩ => ⟨hj, (c.claimH_bit hj).mpr ⟨hp, he, ha⟩, ?_⟩⟩
    · obtain ⟨hp, he, ha⟩ := (c.claimH_bit hj).mp hc
      exact ⟨hj, hp, he, ha, fun k hk => (hfree k (by omega)).mp (hl k hk)⟩
    · exact fun k hk => (hfree k (by omega)).mpr (hl k hk)
  case efyonS =>
    have hfree : ∀ k < 1024, (decide (16 ≤ k) && c.claimS.getLsbD k) = false ↔
        (16 ≤ k → ¬(c.pend.getLsbD k ∧ c.enS.getLsbD k ∧ !c.active.getLsbD k)) := fun k hk => by
      rw [← c.claimS_bit hk, Bool.and_eq_false_iff, decide_eq_false_iff_not, Bool.not_eq_true]
      tauto
    refine find?_range_lowest.trans ⟨fun ⟨hj, hc, hl⟩ => ?_, fun ⟨h16, hj, hp, he, ha, hl⟩ => ⟨hj, ?_, ?_⟩⟩
    · simp only [Bool.and_eq_true, decide_eq_true_eq] at hc
      obtain ⟨hp, he, ha⟩ := (c.claimS_bit hj).mp hc.2
      exact ⟨hc.1, hj, hp, he, ha, fun k hk => (hfree k (by omega)).mp (hl k hk)⟩
    · simp only [Bool.and_eq_true, decide_eq_true_eq]
      exact ⟨h16, (c.claimS_bit hj).mpr ⟨hp, he, ha⟩⟩
    · exact fun k hk => (hfree k (by omega)).mpr (hl k hk)

/-! ### Commands -/

/-- A word of SRC_CMD carries its operation and its source (R406). -/
theorem srcWord_fields (i : Source) {op : Nat} (h : op < 7) : fld (srcWord op i) 31 28 = op ∧ fld (srcWord op i) 9 0 = i.val := by
  have hi := i.isLt
  have hn : (srcWord op i).toNat = op * 2 ^ 28 + i.val := by
    simp only [srcWord, w32, BitVec.toNat_ofNat]
    omega
  simp only [fld, hn, Nat.shiftRight_eq_div_pow]
  constructor <;> omega

theorem Dev.srcCmd_word (d : Dev) (i : Source) {op : Nat} (h : op < 7) : d.srcCmd (srcWord op i) = d.srcOp op i.val := by
  obtain ⟨ho, hi⟩ := srcWord_fields i h
  rw [Dev.srcCmd, ho, hi, if_neg (by omega)]

/-- A command of a path on one source. -/
theorem State.write_srcCmd {s : State} {p : Path} (h : s.Via p) (i : Source) {op : Nat} (ho : op < 7) :
    s.write p 0xC044 (srcWord op i) = s.act (fun d => d.srcOp op i.val) := by
  rw [State.write_of h (by decide)]
  exact State.act_congr ((Dev.regWrite_srcCmd _ _ _).trans (Dev.srcCmd_word _ i ho))

/-- A read of CLAIM_S. -/
theorem Dev.regRead_claimS {d : Dev} (h : d.pwr.st ≠ .starting) :
    d.regRead .efyonS 0xC048 = (d.claimRead .efyonS false, d.view .efyonS 0xC048) := by
  unfold Dev.regRead
  simp [Dev.readsReset_started h]

/-- A read of CLAIM_H. -/
theorem Dev.regRead_claimH {d : Dev} (h : d.pwr.st ≠ .starting) :
    d.regRead .host 0xC050 = (d.claimRead .host true, d.view .host 0xC050) := by
  unfold Dev.regRead
  simp [Dev.readsReset_started h]

theorem Dev.claimRead_efyonS {d : Dev} {j : Nat} (h : d.ic.claimable .efyonS = some j) :
    d.claimRead .efyonS false = d.claim j false := by
  unfold Dev.claimRead
  dsimp only
  rw [h]

theorem Dev.claimRead_host {d : Dev} {j : Nat} (h : d.ic.claimable .host = some j) : d.claimRead .host true = d.claim j true := by
  unfold Dev.claimRead
  dsimp only
  rw [h]

/-- Settles O49: each command by the operation of its register, each interval by its end. That an interval ends when its command
comes is notes/assumptions/75, 100 and 105. -/
theorem interruptCommands : Obligations.InterruptCommands := by
  unfold Obligations.InterruptCommands
  intro s p i v b w
  refine ⟨fun h => ⟨fun hv => ?_, fun hv => ?_, ?_, ?_, ?_, ?_, ?_, ?_, ?_⟩, fun h hst j hj => ?claimS, fun h hst j hj => ?claimH, fun h => ?_,
    fun h => ?_, fun h hp => ?_, fun h => ⟨State.live_next h rfl, State.live_next h rfl⟩⟩
  · exact State.write_next h (by decide) ((Dev.regWrite_doorbell _ p v).trans (if_pos hv))
  · exact State.write_next h (by decide) ((Dev.regWrite_doorbell _ p v).trans (if_neg (by omega)))
  · exact congrArg _ (State.write_srcCmd h i (op := 1) (by decide))
  · exact congrArg _ (State.write_srcCmd h i (op := 2) (by decide))
  · exact congrArg _ (State.write_srcCmd h i (op := 3) (by decide))
  · exact congrArg _ (State.write_srcCmd h i (op := 4) (by decide))
  · exact congrArg _ (State.write_srcCmd h i (op := 5) (by decide))
  · exact congrArg _ (State.write_srcCmd h i (op := 6) (by decide))
  · have ha : bitmapAt b + 4 * w.val < 0x2000000 := by
      have hw := w.isLt
      cases b <;> simp only [bitmapAt] <;> omega
    exact State.write_next h ha (Dev.regWrite_bitmap _ p b w v)
  case claimS =>
    refine State.read_next h (by decide) ?_
    rw [Dev.regRead_claimS hst, Dev.claimRead_efyonS hj]
    rfl
  case claimH =>
    refine State.read_next h (by decide) ?_
    rw [Dev.regRead_claimH hst, Dev.claimRead_host hj]
    rfl
  · exact State.write_next h (by decide) (Dev.regWrite_completeS _ _ v)
  · exact State.write_next h (by decide) (Dev.regWrite_completeH _ _ v)
  · exact State.write_next h (by decide) ((Dev.regWrite_completeS _ p v).trans (if_pos hp))

end Sys2Proof.Machine
end

section
/-! PROOFS. Requests of BAR2: writes to Lakebed and reads of it, and the statement Bar2Requests. -/

namespace Sys2Proof.Machine

/-- Lakebed after an action that loads no image and starts nothing up. -/
theorem State.act_mem {s : State} {f : Dev → Dev} (hl : (f s.dev).close.health.load = none) (hf : (f s.dev).close.pwr.fill = false) :
    (s.act f).mem = s.mem := by
  have hl' : (s.dev.closeFrom (f s.dev)).health.load = none := hl
  have hf' : (s.dev.closeFrom (f s.dev)).pwr.fill = false := hf
  simp [State.act, State.loads, hl', hf']

/-- Lakebed after a write of bytes, byte by byte. -/
theorem Memory.byte_puts (bs : List Byte) (a : Nat) (m : List Host.Cell) (j : Nat) :
    Memory.byte (Memory.puts bs a m) j = if a ≤ j ∧ j < a + bs.length then bs.getD (j - a) 0 else Memory.byte m j := by
  split
  · rename_i h
    obtain ⟨i, rfl⟩ : ∃ i, j = a + i := ⟨j - a, by omega⟩
    have hi : i < bs.length := by omega
    rw [Memory.byte_puts_mem bs a m hi, Nat.add_sub_cancel_left, List.getD_eq_getElem _ _ hi]
  · rename_i h
    exact Memory.byte_puts_ne bs a m (by omega)

section
variable {s : State} {a : Nat} {bs : List Byte} (hp : s.dev.pathOk .host = true) (k : Nat)
include hp

/-- A write within Lakebed. -/
theorem exec_bar2Request_write (ha : a + bs.length ≤ 0x100000000) :
    exec (.bar2Request a (some bs) k) s = .next (s.bar2Write a bs) := by
  show Host.Outcome.next (s.bar2 a (some bs) k) = _
  unfold State.bar2
  rw [if_neg (by simp [hp])]
  exact congrArg _ (if_pos ha)

/-- A read within Lakebed. -/
theorem exec_bar2Request_read (ha : a + k ≤ 0x100000000) : exec (.bar2Request a none k) s = .next (s.bar2Read a k) := by
  show Host.Outcome.next (s.bar2 a none k) = _
  unfold State.bar2
  rw [if_neg (by simp [hp])]
  exact congrArg _ (if_pos ha)

end

/-- No byte of the request lies in a protected region. -/
theorem any_bar2Locked {d : Dev} {a n : Nat} :
    (List.range n).any (fun i => d.bar2Locked (a + i)) = true ↔ ∃ i < n, d.bar2Locked (a + i) = true := by
  simp only [List.any_eq_true, List.mem_range]

/-- A write outside the protected regions. -/
theorem State.bar2Write_open {s : State} {a : Nat} {bs : List Byte} (h : ∀ i < bs.length, s.dev.bar2Locked (a + i) = false) :
    s.bar2Write a bs = State.act { s with mem := Memory.puts bs a s.mem } (fun d =>
      { d with lbUe := d.lbUe.filter (fun k => !decide (a < k * 8 + 8 ∧ k * 8 < a + bs.length)) }) := by
  unfold State.bar2Write
  rw [if_neg (mt any_bar2Locked.mp (by simpa using h))]

/-- A write that touches a protected region. -/
theorem State.bar2Write_locked {s : State} {a : Nat} {bs : List Byte} (h : ∃ i < bs.length, s.dev.bar2Locked (a + i) = true) :
    s.bar2Write a bs = s.act (fun d => d.fault hostPage 3) := by
  unfold State.bar2Write
  rw [if_pos (any_bar2Locked.mpr h)]

/-- A read of codewords without an uncorrectable error. -/
theorem State.bar2Read_clean {s : State} {a n : Nat} (h : s.dev.ueIn a n = []) :
    s.bar2Read a n = s.act (fun d => d.setHost { d.host with bar2 := s.bar2Bytes a n, poisoned := false }) := by
  unfold State.bar2Read
  refine State.act_congr ?_
  simp [h, Dev.lbAccessUe]

/-- Settles O52: a write either goes to Lakebed whole or is a fault of the host page, and a read answers bytes. That a write which
straddles a protected region is discarded whole is notes/assumptions/27. -/
theorem bar2Requests : Obligations.Bar2Requests := by
  unfold Obligations.Bar2Requests
  intro s a bs n k hp
  refine ⟨fun ha hfree => ?write, fun ha hlock => ?_, fun ha hue => ?_, fun i hi hpool hoc => ?_, fun j hj => ?_⟩
  case write =>
    intro f t
    refine ⟨?_, fun hl hf j => ?_⟩
    · rw [exec_bar2Request_write hp k ha, State.bar2Write_open hfree]
    · have hm : t.mem = Memory.puts bs a s.mem := State.act_mem (s := { s with mem := Memory.puts bs a s.mem }) hl hf
      rw [hm]
      exact Memory.byte_puts bs a s.mem j
  · rw [exec_bar2Request_write hp k ha, State.bar2Write_locked hlock]
    rfl
  · rw [exec_bar2Request_read hp n ha, State.bar2Read_clean hue]
  · simp [State.bar2Bytes, List.getD, hi, hpool, hoc]
  · simp [Dev.bar2Locked, hj]

end Sys2Proof.Machine
end

section
/-! PROOFS. Outlets: what messages leave of the host port and the fabric, host memory behind posted writes, the close of a buffer, the
delivery of a packet, and the statement OutletCommands. -/

namespace Sys2Proof.Machine

/-! ### What a message leaves -/

/-- The outlets, host memory and the count of bytes sent. -/
def HostPort.out (h : HostPort) : SMap Outlet × List Host.Cell × Word := (h.outlets, h.mem, h.dmaBytes)

theorem HostPort.pme_out (h : HostPort) : h.pme.out = h.out := by
  unfold HostPort.pme
  split <;> rfl

/-- What an interrupt message leaves as it was: the queues, and what the outlets have sent. -/
def Dev.sent (d : Dev) : Fabric × SMap Outlet × List Host.Cell × Word := (d.fab, d.host.out)

theorem Dev.sent_icUpd (d : Dev) (f : IntCtl → IntCtl) : (d.icUpd f).sent = d.sent := by
  have hw (c : IntCtl) : (Dev.hostWake { d with ic := c }).sent = d.sent := congrArg (Prod.mk d.fab) d.host.pme_out
  unfold Dev.icUpd
  dsimp only
  split
  · split
    · exact hw _
    · rfl
  · rfl

theorem Dev.sent_watchWake (d : Dev) (i : Nat) : (d.watchWake i).sent = d.sent := by
  unfold Dev.watchWake
  split <;> rfl

theorem Dev.sent_msgRaw (d : Dev) (i : Nat) (r : Bool) : (d.msgRaw i r).sent = d.sent := by
  unfold Dev.msgRaw
  dsimp only
  split
  · rfl
  · split
    · rfl
    · rw [Dev.sent_icUpd, Dev.sent_watchWake]

theorem Dev.sent_msg (d : Dev) (i : Nat) (r : Bool) : (d.msg i r).sent = d.sent := by
  unfold Dev.msg
  dsimp only
  split
  · rw [Dev.sent_msgRaw, Dev.sent_msgRaw]
  · exact Dev.sent_msgRaw d i r

theorem Dev.sent_sampleGroup (d : Dev) (w : Nat) : (d.sampleGroup w).sent = d.sent := by
  unfold Dev.sampleGroup
  dsimp only
  split
  · rfl
  · split
    · rw [Dev.sent_msg]; rfl
    · split <;> rfl

theorem Dev.sent_setQueue (d : Dev) (q : Nat) (x : QueueDyn) :
    (d.setQueue q x).sent = ({ d.fab with queues := SMap.put {} d.fab.queues q x }, d.host.out) := by
  unfold Dev.setQueue
  rw [Dev.sent_sampleGroup]
  rfl

theorem Dev.hostByte_of_sent {d e : Dev} (h : d.sent = e.sent) (a : Nat) : d.hostByte a = e.hostByte a :=
  congrArg (fun x : Fabric × SMap Outlet × List Host.Cell × Word => SMap.get (0 : Byte) x.2.2.1 a) h

theorem Dev.ol_of_sent {d e : Dev} (h : d.sent = e.sent) (o : Nat) : d.ol o = e.ol o := 
  congrArg (fun x : Fabric × SMap Outlet × List Host.Cell × Word => SMap.get ({} : Outlet) x.2.1 o) h

/-! ### The outlet's record -/

@[simp] theorem Dev.ol_setOl (d : Dev) (o : Nat) (x : Outlet) : (d.setOl o x).ol o = x := by simp [Dev.setOl, Dev.ol]
@[simp] theorem Dev.setOl_setOl (d : Dev) (o : Nat) (x y : Outlet) : (d.setOl o x).setOl o y = d.setOl o y := by simp [Dev.setOl]
@[simp] theorem Dev.hostByte_setOl (d : Dev) (o : Nat) (x : Outlet) (a : Nat) : (d.setOl o x).hostByte a = d.hostByte a := rfl
@[simp] theorem Dev.ol_hostWrite (d : Dev) (a : Nat) (bs : List Byte) (o : Nat) : (d.hostWrite a bs).ol o = d.ol o := rfl
@[simp] theorem Dev.rd_hostWrite (d : Dev) (a : Nat) (bs : List Byte) (r : Nat) : (d.hostWrite a bs).rd r = d.rd r := rfl
@[simp] theorem Dev.rb_hostWrite (d : Dev) (a : Nat) (bs : List Byte) (r i : Nat) : (d.hostWrite a bs).rb r i = d.rb r i := rfl
@[simp] theorem Dev.ol_olRaise (d : Dev) (o : Nat) : (d.olRaise o).ol o = { d.ol o with since := 0 } :=
  (Dev.ol_of_sent (Dev.sent_msg _ _ _) o).trans (Dev.ol_setOl d o _)
@[simp] theorem Dev.hostByte_olRaise (d : Dev) (o a : Nat) : (d.olRaise o).hostByte a = d.hostByte a :=
  Dev.hostByte_of_sent (Dev.sent_msg (d.setOl o { d.ol o with since := 0 }) _ _) a

/-! ### Host memory (R417, R418) -/

/-- Host memory behind a posted write: the bytes of the write, and every other one as before. -/
theorem Dev.hostByte_hostWrite (d : Dev) (a : Nat) (bs : List Byte) (j : Nat) :
    (d.hostWrite a bs).hostByte j = if a ≤ j ∧ j < a + bs.length then bs.getD (j - a) 0 else d.hostByte j := by
  have hget (m : List Host.Cell) (k : Nat) (v : Byte) :
      SMap.get 0 (SMap.insert m k v) j = if j = k then v else SMap.get 0 m j := by
    split
    · rename_i h
      rw [h, SMap.get, SMap.find?_insert_self]
    · rename_i h
      rw [SMap.get, SMap.get, SMap.find?_insert_ne m v h]
  have hfold : ∀ (bs : List Byte) (a : Nat) (m : List Host.Cell),
      SMap.get 0 (bs.foldl (fun (am : Nat × List Host.Cell) b => (am.1 + 1, SMap.insert am.2 am.1 b)) (a, m)).2 j =
        if a ≤ j ∧ j < a + bs.length then bs.getD (j - a) 0 else SMap.get 0 m j := by
    intro bs
    induction bs with
    | nil => intro a m; rw [if_neg (by simp)]; rfl
    | cons b bs ih =>
      intro a m
      rw [List.foldl_cons, ih, hget]
      by_cases h : j = a
      · subst h
        rw [if_neg (by omega), if_pos rfl, if_pos (by simp), Nat.sub_self, List.getD_cons_zero]
      · rw [if_neg h]
        by_cases h' : a < j
        · obtain ⟨k, rfl⟩ : ∃ k, j = a + (k + 1) := ⟨j - a - 1, by omega⟩
          simp only [List.length_cons, show a + (k + 1) - (a + 1) = k by omega, show a + (k + 1) - a = k + 1 by omega,
            List.getD_cons_succ]
          by_cases hk : k < bs.length
          · rw [if_pos (by omega), if_pos (by omega)]
          · rw [if_neg (by omega), if_neg (by omega)]
        · rw [if_neg (by omega), if_neg (by omega)]
  exact hfold bs a d.host.mem

/-- A byte of a posted write. -/
theorem Dev.hostByte_hostWrite_in (d : Dev) (a : Nat) (bs : List Byte) {j : Nat} (h : j < bs.length) :
    (d.hostWrite a bs).hostByte (a + j) = bs.getD j 0 := by
  rw [Dev.hostByte_hostWrite, if_pos (by omega), Nat.add_sub_cancel_left]

/-- A byte outside a posted write. -/
theorem Dev.hostByte_hostWrite_out (d : Dev) (a : Nat) (bs : List Byte) {j : Nat} (h : j < a ∨ a + bs.length ≤ j) :
    (d.hostWrite a bs).hostByte j = d.hostByte j := by
  rw [Dev.hostByte_hostWrite, if_neg (by omega)]

@[simp] theorem bytesOf_length (w : Word) : (bytesOf w).length = 4 := rfl

theorem bytesOf_getD (w : Word) {j : Nat} (h : j < 4) : (bytesOf w).getD j 0 = BitVec.ofNat 8 (w.toNat / 256 ^ j) := by
  have hp : (256 : Nat) ^ j = 2 ^ (8 * j) := (pow_mul 2 8 j).symm
  simp only [bytesOf, List.getD, List.getElem?_map, List.getElem?_range h, Option.map_some, Option.getD_some, hp,
    Nat.shiftRight_eq_div_pow]

/-- The bytes of a number that a word takes. -/
theorem bytesOf_w32 (n : Nat) {j : Nat} (h : j < 4) : (bytesOf (w32 n)).getD j 0 = BitVec.ofNat 8 (n / 256 ^ j) := by
  rw [bytesOf_getD _ h]
  apply BitVec.eq_of_toNat_eq
  simp only [w32, BitVec.toNat_ofNat]
  have hj : j = 0 ∨ j = 1 ∨ j = 2 ∨ j = 3 := by omega
  rcases hj with rfl | rfl | rfl | rfl <;> omega

theorem flatMap_bytesOf_length (f : Nat → Word) (n : Nat) : ((List.range n).flatMap (fun i => bytesOf (f i))).length = 4 * n := by
  simp [List.length_flatMap, Nat.mul_comm]

/-- The bytes of words that lie one behind the other. -/
theorem flatMap_bytesOf_getD (f : Nat → Word) (n : Nat) : ∀ {j : Nat}, j < 4 * n →
    ((List.range n).flatMap (fun i => bytesOf (f i))).getD j 0 = BitVec.ofNat 8 ((f (j / 4)).toNat / 256 ^ (j % 4)) := by
  have hlen := flatMap_bytesOf_length f
  induction n with
  | zero => intro j h; omega
  | succ n ih =>
    intro j h
    rw [List.range_succ, List.flatMap_append, List.flatMap_singleton]
    by_cases hj : j < 4 * n
    · rw [List.getD_append _ _ _ _ (by rw [hlen]; exact hj), ih hj]
    · rw [List.getD_append_right _ _ _ _ (by rw [hlen]; omega), hlen, bytesOf_getD _ (by omega), show j / 4 = n by omega,
        show j - 4 * n = j % 4 by omega]

/-! ### Closing a buffer (R417, R419) -/

/-- Where the descriptor of the buffer at HEAD lies, and where HEAD is written back. -/
def Dev.headDesc (d : Dev) (o : Nat) : Nat := d.ringBase o + (d.ol o).head.toNat % d.ringSize o * 32
def Dev.headBack (d : Dev) (o : Nat) : Nat := (join64 (d.rd (olAt o + 0x1C)) (d.rd (olAt o + 0x18))).toNat

/-- The status words of a buffer that closes early. -/
def OutBuf.status (b : OutBuf) : List Byte :=
  bytesOf (w32 (2 ^ 31 + b.ue.toNat * 2 ^ 30 + b.loss.toNat * 2 ^ 29 + 2 ^ 28 + b.bytes)) ++ bytesOf (w32 b.pkts) ++
    bytesOf (w32 b.ueOfs) ++ bytesOf (w32 (b.seqLast.toNat * 2 ^ 16 + b.seqFirst.toNat))

/-- What an early close writes to host memory. -/
def Dev.closeWrites (d : Dev) (o : Nat) (b : OutBuf) : Dev :=
  let e := d.hostWrite (d.headDesc o + 16) b.status
  if d.rb (olAt o + 8) 0 then e.hostWrite (d.headBack o) (bytesOf (w32 ((d.ol o).head + 1).toNat)) else e

@[simp] theorem Dev.ol_closeWrites (d : Dev) (o : Nat) (b : OutBuf) : (d.closeWrites o b).ol o = d.ol o := by
  unfold Dev.closeWrites
  dsimp only
  split
  · rw [Dev.ol_hostWrite, Dev.ol_hostWrite]
  · rw [Dev.ol_hostWrite]

/-- An early close while the function can master: the writes to host memory, then the outlet's record, then its source. -/
theorem Dev.olClose_early {d : Dev} {o : Nat} {b : OutBuf} (hb : (d.ol o).buf = some b) (hm : d.canMaster = true) :
    ∃ n, d.olClose o true = ((d.closeWrites o b).setOl o { d.ol o with
      head := (d.ol o).head + 1, buf := none, since := (d.ol o).since + 1, bufs := (d.ol o).bufs + 1, closeDue := false, kick := 0
      noDesc := n }).olRaise o := by
  unfold Dev.olClose
  dsimp only
  rw [hb]
  dsimp only
  rw [if_neg (by simp [hm]), if_pos (by simp)]
  simp only [Dev.ol_setOl, Dev.setOl_setOl, Dev.rd_hostWrite, Dev.rb_hostWrite, Bool.toNat_true, one_mul, if_true]
  exact ⟨_, rfl⟩

/-- A close that the function cannot master falls due later (R421). -/
theorem Dev.olClose_waits {d : Dev} {o : Nat} {b : OutBuf} (hb : (d.ol o).buf = some b) (hm : d.canMaster = false) (early : Bool) :
    d.olClose o early = (d.setOl o { d.ol o with closeDue := true }).leaveL1 := by
  unfold Dev.olClose
  dsimp only
  rw [hb]
  dsimp only
  rw [if_pos (by simp [hm])]

theorem Dev.olClose_none {d : Dev} {o : Nat} (hb : (d.ol o).buf = none) (early : Bool) : d.olClose o early = d := by
  unfold Dev.olClose
  dsimp only
  rw [hb]

/-- The four status words, byte by byte. -/
theorem OutBuf.status_getD (b : OutBuf) {j : Nat} (h : j < 4) :
    b.status.getD j 0 = BitVec.ofNat 8 ((2 ^ 31 + b.ue.toNat * 2 ^ 30 + b.loss.toNat * 2 ^ 29 + 2 ^ 28 + b.bytes) / 256 ^ j) ∧
    b.status.getD (4 + j) 0 = BitVec.ofNat 8 (b.pkts / 256 ^ j) ∧
    b.status.getD (8 + j) 0 = BitVec.ofNat 8 (b.ueOfs / 256 ^ j) ∧
    b.status.getD (12 + j) 0 = BitVec.ofNat 8 ((b.seqLast.toNat * 2 ^ 16 + b.seqFirst.toNat) / 256 ^ j) := by
  unfold OutBuf.status
  refine ⟨?_, ?_, ?_, ?_⟩
  · rw [List.getD_append _ _ _ _ (by simp; omega), List.getD_append _ _ _ _ (by simp; omega), List.getD_append _ _ _ _ (by simp; omega),
      bytesOf_w32 _ h]
  · rw [List.getD_append _ _ _ _ (by simp; omega), List.getD_append _ _ _ _ (by simp; omega), List.getD_append_right _ _ _ _ (by simp)]
    simp only [bytesOf_length, Nat.add_sub_cancel_left]
    exact bytesOf_w32 _ h
  · rw [List.getD_append _ _ _ _ (by simp; omega), List.getD_append_right _ _ _ _ (by simp)]
    simp only [List.length_append, bytesOf_length, Nat.add_sub_cancel_left]
    exact bytesOf_w32 _ h
  · rw [List.getD_append_right _ _ _ _ (by simp)]
    simp only [List.length_append, bytesOf_length, Nat.add_sub_cancel_left]
    exact bytesOf_w32 _ h

theorem OutBuf.status_length (b : OutBuf) : b.status.length = 16 := by simp [OutBuf.status]

/-- The status words stand behind an early close, unless the write-back of HEAD lies across them. -/
theorem Dev.closeWrites_status {d : Dev} {o : Nat} (b : OutBuf)
    (h : d.rb (olAt o + 8) 0 = false ∨ d.headBack o + 4 ≤ d.headDesc o + 16 ∨ d.headDesc o + 32 ≤ d.headBack o) {i : Nat} (hi : i < 16) :
    (d.closeWrites o b).hostByte (d.headDesc o + 16 + i) = b.status.getD i 0 := by
  have hs : (d.hostWrite (d.headDesc o + 16) b.status).hostByte (d.headDesc o + 16 + i) = b.status.getD i 0 :=
    Dev.hostByte_hostWrite_in d _ _ (by rw [b.status_length]; exact hi)
  unfold Dev.closeWrites
  dsimp only
  split
  · rename_i hwb
    rcases h with h | h
    · exact absurd hwb (by simp [h])
    · rw [Dev.hostByte_hostWrite_out _ _ _ (by rw [bytesOf_length]; omega), hs]
  · exact hs

/-- HEAD written back. -/
theorem Dev.closeWrites_back {d : Dev} {o : Nat} (b : OutBuf) (h : d.rb (olAt o + 8) 0 = true) {j : Nat} (hj : j < 4) :
    (d.closeWrites o b).hostByte (d.headBack o + j) = BitVec.ofNat 8 (((d.ol o).head + 1).toNat / 256 ^ j) := by
  unfold Dev.closeWrites
  dsimp only
  rw [if_pos h, Dev.hostByte_hostWrite_in _ _ _ (by rw [bytesOf_length]; exact hj), bytesOf_w32 _ hj]

/-- An early close writes nothing else to host memory. -/
theorem Dev.closeWrites_frame {d : Dev} {o : Nat} (b : OutBuf) {a : Nat} (ha : a < d.headDesc o + 16 ∨ d.headDesc o + 32 ≤ a)
    (hb : d.rb (olAt o + 8) 0 = false ∨ a < d.headBack o ∨ d.headBack o + 4 ≤ a) : (d.closeWrites o b).hostByte a = d.hostByte a := by
  have hs : (d.hostWrite (d.headDesc o + 16) b.status).hostByte a = d.hostByte a :=
    Dev.hostByte_hostWrite_out d _ _ (by rw [b.status_length]; omega)
  unfold Dev.closeWrites
  dsimp only
  split
  · rename_i hwb
    rcases hb with hb | hb
    · exact absurd hwb (by simp [hb])
    · rw [Dev.hostByte_hostWrite_out _ _ _ (by rw [bytesOf_length]; exact hb), hs]
  · exact hs

/-! ### Delivery (R418, R420) -/

/-- The device with an outlet's head packet sent and gone from its queue: bytes in host memory, the buffer and the queue. -/
def Dev.delivered (d : Dev) (o q : Nat) (b : OutBuf) (k : Packet) : Dev :=
  let d := d.hostWrite (b.addr + b.bytes) ((List.range k.items.length).flatMap (fun i => bytesOf (k.item i)))
  let d := d.setOl o { d.ol o with
    buf := some { b with bytes := b.bytes + 4 * k.items.length, pkts := b.pkts + 1, seqLast := k.seq
                         seqFirst := if b.pkts = 0 then k.seq else b.seqFirst }
    kick := (d.ol o).kick - 1 }
  ({ d with host := { d.host with dmaBytes := d.host.dmaBytes + w32 (4 * k.items.length) } } : Dev).takePacket q

/-- A packet that fits in the open buffer, without an error, a loss or a kick. -/
theorem Dev.olDeliver_fits {d : Dev} {o q : Nat} {b : OutBuf} {k : Packet} {rest : List Packet} (hr : d.ust (.outlet o) = .run)
    (hb : (d.ol o).buf = some b) (hm : d.canMaster = true) (hq : d.olQueues o = [q]) (hk : (d.queue q).pkts = k :: rest)
    (hfit : b.bytes + 4 * k.items.length ≤ b.len) (hue : k.ue = []) (hl : (d.queue q).lossTag = false) (hkick : (d.ol o).kick ≠ 1) :
    d.olDeliver o = d.delivered o q b k := by
  have ho : d.olOpen o = d := if_pos (by simp [hb])
  unfold Dev.olDeliver
  rw [hq]
  dsimp only
  rw [hk]
  dsimp only
  rw [if_neg (by simp [hr, hm]), hb]
  simp only [hb, hfit, decide_true, if_true, ho]
  simp only [hl, hue, Dev.ol_hostWrite, bne_self_eq_false, Bool.or_false, Bool.false_and, Bool.false_eq_true, if_false, hkick]
  rfl

/-- What a delivered packet leaves of the queues, the outlets, host memory and the count of bytes. -/
theorem Dev.sent_delivered (d : Dev) (o q : Nat) (b : OutBuf) (k : Packet) :
    (d.delivered o q b k).sent =
      ({ d.fab with
          queues := SMap.put {} d.fab.queues q { d.queue q with pkts := headIn (d.queue q).pkts.tail, rd := 0, lossTag := false } },
        SMap.put {} d.host.outlets o { d.ol o with
          buf := some { b with bytes := b.bytes + 4 * k.items.length, pkts := b.pkts + 1, seqLast := k.seq
                               seqFirst := if b.pkts = 0 then k.seq else b.seqFirst }
          kick := (d.ol o).kick - 1 },
        (d.hostWrite (b.addr + b.bytes) ((List.range k.items.length).flatMap (fun i => bytesOf (k.item i)))).host.mem,
        d.host.dmaBytes + w32 (4 * k.items.length)) := by
  unfold Dev.delivered Dev.takePacket
  dsimp only
  rw [Dev.sent_setQueue]
  rfl

theorem Dev.ol_delivered (d : Dev) (o q : Nat) (b : OutBuf) (k : Packet) :
    (d.delivered o q b k).ol o = { d.ol o with
      buf := some { b with bytes := b.bytes + 4 * k.items.length, pkts := b.pkts + 1, seqLast := k.seq
                           seqFirst := if b.pkts = 0 then k.seq else b.seqFirst }
      kick := (d.ol o).kick - 1 } := by
  have h : (d.delivered o q b k).host.outlets = _ := congrArg (fun x => x.2.1) (d.sent_delivered o q b k)
  rw [Dev.ol, h, SMap.get_put_self]

theorem Dev.queue_delivered (d : Dev) (o q : Nat) (b : OutBuf) (k : Packet) :
    (d.delivered o q b k).queue q = { d.queue q with pkts := headIn (d.queue q).pkts.tail, rd := 0, lossTag := false } := by
  have h : (d.delivered o q b k).fab = _ := congrArg Prod.fst (d.sent_delivered o q b k)
  rw [Dev.queue, h, SMap.get_put_self]

theorem Dev.dmaBytes_delivered (d : Dev) (o q : Nat) (b : OutBuf) (k : Packet) :
    (d.delivered o q b k).host.dmaBytes = d.host.dmaBytes + w32 (4 * k.items.length) :=
  congrArg (fun x => x.2.2.2) (d.sent_delivered o q b k)

theorem Dev.hostByte_delivered (d : Dev) (o q : Nat) (b : OutBuf) (k : Packet) (a : Nat) :
    (d.delivered o q b k).hostByte a =
      (d.hostWrite (b.addr + b.bytes) ((List.range k.items.length).flatMap (fun i => bytesOf (k.item i)))).hostByte a :=
  congrArg (fun x : Fabric × SMap Outlet × List Host.Cell × Word => SMap.get (0 : Byte) x.2.2.1 a) (d.sent_delivered o q b k)

/-! ### Commands of an outlet -/

/-- A register value's bits 15:0 as an index. -/
theorem fld_index (v : Word) : BitVec.ofNat 16 (fld v 15 0) = v.truncate 16 := by
  apply BitVec.eq_of_toNat_eq
  simp [fld]

@[simp] theorem Dev.ringSize_setOl (d : Dev) (o : Nat) (x : Outlet) (p : Nat) : (d.setOl o x).ringSize p = d.ringSize p := rfl
@[simp] theorem Dev.ust_setOl (d : Dev) (o : Nat) (x : Outlet) (u : Un) : (d.setOl o x).ust u = d.ust u := rfl

/-- Where HEAD has not met TAIL, a write to TAIL clears NO_DESC (R417, R420). -/
theorem Dev.olTail_apart {d : Dev} {o : Nat} {i : BitVec 16} (h : i ≠ (d.ol o).head) :
    d.olTail o i = (d.setOl o { d.ol o with tail := i, noDesc := false },
      if d.ringSize o < (i - (d.ol o).head).toNat then some 18 else none) := by
  have hi : (i == (d.ol o).head) = false := by simp [h]
  have hh : ((d.ol o).head == i) = false := by simp [Ne.symm h]
  unfold Dev.olTail Dev.olDry Dev.olRunsDry
  simp only [hi, hh, Dev.ol_setOl, Dev.ringSize_setOl, Dev.ust_setOl, Bool.and_false, Bool.false_and, Bool.false_eq_true, if_false]

/-- Where it has, an outlet that runs without a buffer meets NO_DESC, once (R420). -/
theorem Dev.olTail_dry {d : Dev} {o : Nat} {i : BitVec 16} (h : i = (d.ol o).head) (hr : d.ust (.outlet o) = .run)
    (hb : (d.ol o).buf = none) (hn : (d.ol o).noDesc = false) :
    d.olTail o i = ((d.setOl o { d.ol o with tail := i, noDesc := true, since := 0 }).msg (64 + o), none) := by
  unfold Dev.olTail Dev.olDry Dev.olRunsDry
  simp [← h, hb, hn, hr, Dev.olRaise]

/-- Otherwise the write changes TAIL alone. -/
theorem Dev.olTail_met {d : Dev} {o : Nat} {i : BitVec 16} (h : i = (d.ol o).head)
    (hw : d.ust (.outlet o) ≠ .run ∨ (d.ol o).buf ≠ none ∨ (d.ol o).noDesc = true) :
    d.olTail o i = (d.setOl o { d.ol o with tail := i }, none) := by
  have hx : { d.ol o with tail := i, noDesc := (d.ol o).noDesc && i == (d.ol o).head } = { d.ol o with tail := i } := by simp [h]
  have hdry : (d.setOl o { d.ol o with tail := i }).olRunsDry o = false := by
    unfold Dev.olRunsDry
    rcases hw with hw | hw | hw <;> simp [hw]
  unfold Dev.olTail
  dsimp only
  rw [hx, Dev.olDry, if_neg (by simp [hdry]), if_neg (by simp [h])]

theorem descOk_iff (x : Nat × Nat) : descOk x = true ↔ x.1 % 64 = 0 ∧ x.2 % 64 = 0 ∧ 16384 ≤ x.2 ∧ x.2 ≤ 4194304 := by
  simp [descOk, and_assoc]

/-- What a fetch takes of the descriptors that it has read (R418). -/
def Dev.fetchRoom (d : Dev) (o : Nat) : Nat :=
  min 8 (((d.ol o).tail - (d.ol o).head).toNat - ((d.ol o).descs.length + (d.ol o).buf.isSome.toNat))

theorem Dev.descFetch_bufs {d : Dev} {o : Nat} (hr : d.ust (.outlet o) = .run) (l : List (Nat × Nat)) :
    d.descFetch o (.bufs l) = if (l.take (d.fetchRoom o)).all descOk
      then d.setOl o { d.ol o with descs := (d.ol o).descs ++ l.take (d.fetchRoom o) }
      else (d.setOl o { d.ol o with descs := (d.ol o).descs ++ (l.take (d.fetchRoom o)).takeWhile descOk }).olFault o 18 := by
  have hroom : min 8 (((d.ol o).tail - (d.ol o).head).toNat - ((d.ol o).descs.length + if (d.ol o).buf.isSome then 1 else 0)) =
      d.fetchRoom o := by
    unfold Dev.fetchRoom
    cases (d.ol o).buf <;> rfl
  unfold Dev.descFetch Dev.olFetched
  dsimp only
  rw [if_neg (by simp [hr]), hroom]
  by_cases h : ((l.take (d.fetchRoom o)).all descOk) = true
  · rw [if_pos h, if_pos h]
  · rw [if_neg h, if_neg h]

theorem Dev.descFetch_error {d : Dev} {o : Nat} (hr : d.ust (.outlet o) = .run) : d.descFetch o .error = d.olFault o 19 :=
  if_pos (by simp [hr])

/-- A flush time that has passed closes the open buffer (R419). -/
theorem Dev.flushEnd_due {d : Dev} {o : Nat} {b : OutBuf} (hr : d.ust (.outlet o) = .run) (hb : (d.ol o).buf = some b)
    (ht : d.rf (olAt o + 0xC) 23 0 ≠ 0) (hd : d.rf (olAt o + 0xC) 23 0 * 1000 ≤ (d.now - b.openAt).toNat) :
    d.flushEnd o = d.olClose o true := by
  have hdue : d.flushDue o = true := by
    unfold Dev.flushDue
    dsimp only
    rw [hb]
    dsimp only
    rw [decide_eq_true hd]
    simp [hr, ht]
  unfold Dev.flushEnd
  rw [if_pos hdue]

theorem Dev.olCmd_close (d : Dev) (o : Nat) : d.olCmd o 1 = if d.ust (.outlet o) = .run then d.olClose o true else d := by
  unfold Dev.olCmd
  simp [fld]

/-- Outside RUN nothing leaves a queue. -/
theorem Dev.olDeliver_notRun {d : Dev} {o : Nat} (hr : d.ust (.outlet o) ≠ .run) : d.olDeliver o = d := by
  have hready : d.olReady o = false := by
    unfold Dev.olReady
    simp [hr]
  unfold Dev.olDeliver
  split
  · split
    · rfl
    · dsimp only
      rw [if_pos (by simp [hr]), if_neg (by simp [hready])]
  · rfl

/-! ### An early close, as it is found -/

/-- What an early close leaves: the outlet's record, the status words, HEAD written back, and the rest of host memory. -/
def Dev.ClosedTo (d e : Dev) (o : Nat) (b : OutBuf) : Prop :=
  (e.ol o).head = (d.ol o).head + 1 ∧ (e.ol o).tail = (d.ol o).tail ∧ (e.ol o).buf = none ∧ (e.ol o).bufs = (d.ol o).bufs + 1 ∧
  (d.rb (olAt o + 8) 0 = false ∨ d.headBack o + 4 ≤ d.headDesc o + 16 ∨ d.headDesc o + 32 ≤ d.headBack o → ∀ j < 4,
    e.hostByte (d.headDesc o + 16 + j) =
      BitVec.ofNat 8 ((2 ^ 31 + b.ue.toNat * 2 ^ 30 + b.loss.toNat * 2 ^ 29 + 2 ^ 28 + b.bytes) / 256 ^ j) ∧
    e.hostByte (d.headDesc o + 20 + j) = BitVec.ofNat 8 (b.pkts / 256 ^ j) ∧
    e.hostByte (d.headDesc o + 24 + j) = BitVec.ofNat 8 (b.ueOfs / 256 ^ j) ∧
    e.hostByte (d.headDesc o + 28 + j) = BitVec.ofNat 8 ((b.seqLast.toNat * 2 ^ 16 + b.seqFirst.toNat) / 256 ^ j)) ∧
  (d.rb (olAt o + 8) 0 = true → ∀ j < 4, e.hostByte (d.headBack o + j) = BitVec.ofNat 8 (((d.ol o).head + 1).toNat / 256 ^ j)) ∧
  (∀ a, a < d.headDesc o + 16 ∨ d.headDesc o + 32 ≤ a → d.rb (olAt o + 8) 0 = false ∨ a < d.headBack o ∨ d.headBack o + 4 ≤ a →
    e.hostByte a = d.hostByte a)

theorem Dev.olClose_closedTo {d : Dev} {o : Nat} {b : OutBuf} (hb : (d.ol o).buf = some b) (hm : d.canMaster = true) :
    d.ClosedTo (d.olClose o true) o b := by
  obtain ⟨n, he⟩ := Dev.olClose_early hb hm
  rw [he]
  unfold Dev.ClosedTo
  simp only [Dev.ol_olRaise, Dev.ol_setOl, Dev.hostByte_olRaise, Dev.hostByte_setOl]
  refine ⟨trivial, trivial, trivial, trivial, fun h j hj => ?_, fun h j hj => Dev.closeWrites_back b h hj,
    fun a ha hw => Dev.closeWrites_frame b ha hw⟩
  obtain ⟨h0, h1, h2, h3⟩ := b.status_getD hj
  have hs (i : Nat) (hi : i < 16) := Dev.closeWrites_status b h (i := i) hi
  refine ⟨(hs j (by omega)).trans h0, ?_, ?_, ?_⟩
  · rw [show d.headDesc o + 20 + j = d.headDesc o + 16 + (4 + j) by omega, hs _ (by omega), h1]
  · rw [show d.headDesc o + 24 + j = d.headDesc o + 16 + (8 + j) by omega, hs _ (by omega), h2]
  · rw [show d.headDesc o + 28 + j = d.headDesc o + 16 + (12 + j) by omega, hs _ (by omega), h3]

/-- A write to TAIL, by what the outlet makes of the index. -/
theorem Dev.olTailWrite_none {d e : Dev} {o : Nat} {v : Word} (h : d.olTail o (v.truncate 16) = (e, none)) : d.olTailWrite o v = e := by
  unfold Dev.olTailWrite
  rw [fld_index, h]

theorem Dev.olTailWrite_some {d e : Dev} {o b : Nat} {v : Word} (h : d.olTail o (v.truncate 16) = (e, some b)) :
    d.olTailWrite o v = e.olFault o b := by
  unfold Dev.olTailWrite
  rw [fld_index, h]

/-- Settles O53: TAIL by where it meets HEAD, the fetch by what it takes, CLOSE and FLUSH_T by the early close, and the delivery of the
head packet. That CLOSE and PACKET_ACKED do nothing outside RUN rests on notes/assumptions/4 and 106. -/
theorem outletCommands : Obligations.OutletCommands := by
  unfold Obligations.OutletCommands
  intro s p o v l b does d x slot ring desc wb byteOf closed
  have ho := o.isLt
  have hat : olAt o.val + 0x50 < 0x2000000 := by simp only [olAt, Un.addr]; omega
  have hclosed (hb : x.buf = some b) (hm : d.canMaster = true) : closed (d.olClose o.val true) := Dev.olClose_closedTo hb hm
  refine ⟨fun h => ⟨?tail, ?close, ?waits, ?notRun⟩, fun h => ⟨?fetch, ?flush, ?acked, ?ackedNotRun⟩⟩
  case tail =>
    intro i
    have hwrite {g : Dev → Dev} (hg : d.olTailWrite o.val v = g d) : exec (.outletTailWrite p o v) s = does g :=
      State.write_next h (by omega) ((Dev.regWrite_outlet_tail _ p o v).trans hg)
    refine ⟨fun hi hle => ?_, fun hlt => ?_, fun hi hr hb hn => hwrite (Dev.olTailWrite_none (Dev.olTail_dry hi hr hb hn)),
      fun hi hw => hwrite (Dev.olTailWrite_none (Dev.olTail_met hi hw))⟩
    · exact hwrite (Dev.olTailWrite_none ((Dev.olTail_apart hi).trans (congrArg (Prod.mk _) (if_neg (Nat.not_lt.mpr hle)))))
    · have hi : i ≠ x.head := fun hi => by rw [hi, BitVec.sub_self] at hlt; exact absurd hlt (Nat.not_lt_zero _)
      exact hwrite (Dev.olTailWrite_some ((Dev.olTail_apart hi).trans (congrArg (Prod.mk _) (if_pos hlt))))
  case close =>
    intro hr hb hm
    exact ⟨State.write_next h hat ((Dev.regWrite_outlet_cmd _ p o 1).trans ((Dev.olCmd_close _ _).trans (if_pos hr))), hclosed hb hm⟩
  case waits =>
    intro hr hb hm
    exact State.write_next h hat ((Dev.regWrite_outlet_cmd _ p o 1).trans
      (((Dev.olCmd_close _ _).trans (if_pos hr)).trans (Dev.olClose_waits hb hm true)))
  case notRun =>
    intro hn
    refine State.write_next h hat ((Dev.regWrite_outlet_cmd _ p o 1).trans ((Dev.olCmd_close _ _).trans ?_))
    split
    · rename_i hr
      exact Dev.olClose_none (hn.resolve_left (not_not_intro hr)) true
    · rfl
  case fetch =>
    intro hr new
    have hall : new.all descOk = true ↔ ∀ y ∈ new, y.1 % 64 = 0 ∧ y.2 % 64 = 0 ∧ 16384 ≤ y.2 ∧ y.2 ≤ 4194304 := by
      simp only [List.all_eq_true, descOk_iff]
    refine ⟨fun hy => ?_, fun ⟨y, hy, hbad⟩ => ?_, State.live_next h (Dev.descFetch_error hr)⟩
    · exact State.live_next h ((Dev.descFetch_bufs hr l).trans (if_pos (hall.mpr hy)))
    · exact State.live_next h ((Dev.descFetch_bufs hr l).trans (if_neg fun ha => hbad (hall.mp ha y hy)))
  case flush =>
    intro hr hb ht hm hd
    exact ⟨State.live_next h (Dev.flushEnd_due hr hb ht hd), hclosed hb hm⟩
  case acked =>
    intro q k rest hr hb hm hq hk hfit hue hl hkick e
    have he : e = d.delivered o.val q b k := Dev.olDeliver_fits hr hb hm hq hk hfit hue hl hkick
    refine ⟨State.live_next h rfl, ?_, ?_, ?_, ?_, fun j hj => ?_, fun a ha => ?_⟩
    · rw [he, Dev.ol_delivered]
    · rw [he, Dev.ol_delivered]
    · rw [he, Dev.queue_delivered, hk]; rfl
    · rw [he, Dev.dmaBytes_delivered]
    · rw [he, Dev.hostByte_delivered, Dev.hostByte_hostWrite_in _ _ _ (by rw [flatMap_bytesOf_length]; exact hj),
        flatMap_bytesOf_getD _ _ hj]
    · rw [he, Dev.hostByte_delivered, Dev.hostByte_hostWrite_out _ _ _ (by rw [flatMap_bytesOf_length]; exact ha)]
  case ackedNotRun =>
    intro hr
    exact State.live_next h (Dev.olDeliver_notRun hr)

end Sys2Proof.Machine
end

section
/-! PROOFS. The management bus: its CRC-8, the wrap of a pointer, what a ready attention request brings, and the statement
MgmtCommands. -/

namespace Sys2Proof.Machine

/-! ### The CRC-8 and the pointer (R433, R435) -/

theorem crcByte_zero (b : Byte) : pec [b] = crcByte 0 b := rfl

/-- The CRC starts from 0. -/
theorem pec_start (b : Byte) : (0 : Byte) ^^^ b = b := BitVec.zero_xor

theorem crcByte_xor (c b : Byte) : crcByte c b = crcByte 0 (c ^^^ b) := by
  unfold crcByte
  rw [pec_start]

theorem pec_snoc (l : List Byte) (b : Byte) : pec (l ++ [b]) = pec [pec l ^^^ b] := by
  rw [crcByte_zero, ← crcByte_xor, pec, List.foldl_append]
  rfl

theorem pec_self (l : List Byte) : pec (l ++ [pec l]) = 0 := by
  rw [pec_snoc, BitVec.xor_self]
  decide

theorem wrapPtr_block (p n : Nat) : wrapPtr p n / 32 = p / 32 ∧ wrapPtr p n % 32 = (p + n) % 32 := by
  unfold wrapPtr
  constructor <;> omega

/-! ### Attention requests (R438, R439) -/

/-- A request is on the bus, or can start. -/
theorem Dev.atnReady_of {d : Dev} (h : d.mgmt.atnActive = true ∨ d.mgmt.backoff = none ∧ d.atnCause ≠ 0) : d.linesHigh.atnReady = true := by
  have hc : d.linesHigh.atnCause = d.atnCause := rfl
  unfold Dev.atnReady
  rw [hc]
  rcases h with h | ⟨hb, hn⟩
  · simp [Dev.linesHigh, Dev.updMgmt, h]
  · rw [bne_iff_ne.mpr hn]
    simp [Dev.linesHigh, Dev.updMgmt, hb]

/-- What a ready request brings, by its result. -/
theorem Dev.atnRequest_ready {d : Dev} (h : d.linesHigh.atnReady = true) (r : AtnResult) : d.atnRequest r = match r with
    | .started => d.linesHigh.updMgmt (fun m => { m with atnActive := true })
    | .served extra =>
      let e := d.linesHigh.updMgmt (fun m => { m with
        atnPend := m.atnPend &&& ~~~d.atnCause, inRow := 0, atnActive := false, fetched := none
        sent := BitVec.ofNat 8 d.atnCause.toNat :: (if extra then [0xFF] else []) })
      if extra then e.fault mgmtPage 0 else e
    | .lost => d.linesHigh.atnLost := by
  unfold Dev.atnRequest
  dsimp only
  rw [if_neg (by simp [h])]
  cases r <;> rfl

theorem Dev.atnAbandon_ready {d : Dev} (h : d.linesHigh.atnReady = true) :
    d.atnAbandon = d.linesHigh.atnFailed.count 0x18050 15 8 := by
  unfold Dev.atnAbandon
  dsimp only
  rw [if_pos h]

theorem Dev.stretchLate_fetched {d : Dev} {f : Fetch} (h : d.mgmt.fetched = some f) :
    d.stretchLate = (d.updMgmt (fun m => { m with sent := lateSent f m.sent, fetched := none })).fault mgmtPage 8 := by
  unfold Dev.stretchLate
  rw [h]

theorem Dev.backoffOver_some {d : Dev} {t ns} (h : d.mgmt.backoff = some (t, ns)) :
    d.backoffOver = if ns ≤ (d.now - t).toNat then d.updMgmt (fun m => { m with backoff := none }) else d := by
  unfold Dev.backoffOver
  rw [h]

theorem Dev.mgmtXfer_eq (d : Dev) (x : MgmtXfer) : d.mgmtXfer x =
    let withPec := d.rb 0x18040 0
    let d := d.updMgmt (fun m => { m with
      xfers := m.xfers + 1, last := m.ptr, stuck := false, sent := [], fetched := none, busy := true
      acks := d.mgmtAcks x.bytes withPec })
    let head := if x.bytes = [] then [] else d.addrByte false :: x.bytes
    let d := d.mgmtWrite x withPec
    if d.mgmt.busy = false then d
    else
      let d := d.mgmtRead (if withPec && Dev.mgmtDeaf x.bytes then 0 else x.readN) withPec head
      (match x.err with | some e => d.busError (errBit e) | none => d).mgmtFree := by
  unfold Dev.mgmtXfer
  exact if_congr (Iff.of_eq (Bool.not_eq_true' _)) rfl rfl

/-- Host and Efyon-S raise an attention request; the other paths are refused (R438). -/
theorem Dev.atnRaise_allowed {d : Dev} {p : Path} (h : p = .host ∨ p = .efyonS) : d.atnRaise p 1 = d.atn 5 := by
  rcases h with rfl | rfl <;> rfl

theorem Dev.atnRaise_other {d : Dev} {p : Path} (hh : p ≠ .host) (he : p ≠ .efyonS) : d.atnRaise p 1 = d.fault 0x18000 29 := by
  cases p with
  | host => exact absurd rfl hh
  | efyonS => exact absurd rfl he
  | mgmt => rfl
  | ctx n => rfl

/-- Settles O54: the CRC-8 by its recursion, the transaction by its parts, and an attention request by its result where one is ready.
That a transaction is one command is notes/assumptions/65 and 66; when the timeouts come, 100; lines counted low, 109. -/
theorem mgmtCommands : Obligations.MgmtCommands := by
  unfold Obligations.MgmtCommands
  refine ⟨⟨fun b => ?_, pec_snoc, pec_self, wrapPtr_block⟩, fun s p x extra => ⟨fun h => ?_, fun h hp => ?_, fun h hh he => ?_,
    fun h => ⟨fun f hf => ?_, ?_, fun t ns hb => ?_, fun hr => ?_⟩⟩⟩
  · rw [crcByte_zero, crcByte, pec_start]
  · exact (congrArg _ (State.viaPath_of h _)).trans (State.act_next (Dev.mgmtXfer_eq _ x))
  · exact State.write_next h (by decide) ((Dev.regWrite_atnRaise _ p 1).trans (Dev.atnRaise_allowed hp))
  · exact State.write_next h (by decide) ((Dev.regWrite_atnRaise _ p 1).trans (Dev.atnRaise_other hh he))
  · exact State.live_next h (Dev.stretchLate_fetched hf)
  · exact State.live_next h rfl
  · exact State.live_next h (Dev.backoffOver_some hb)
  · have hready := Dev.atnReady_of hr
    intro cause k after
    exact ⟨State.live_next h (Dev.atnRequest_ready hready _), State.live_next h (Dev.atnRequest_ready hready _),
      State.live_next h (Dev.atnRequest_ready hready _), State.live_next h (Dev.atnAbandon_ready hready)⟩

end Sys2Proof.Machine
end

section
/-! PROOFS. Field events: the command at the root, the votes, the decision, the instant, and the statement FieldEvents. -/

namespace Sys2Proof.Machine

/-! ### The command (R472, R479) -/

theorem fieldWord_fire (n : Fin 256) : fld (w32 (n.val * 256 + 1)) 3 0 = 1 ∧ fld (w32 (n.val * 256 + 1)) 15 8 = n.val := by
  have hn := n.isLt
  simp only [fld, w32, BitVec.toNat_ofNat, Nat.shiftRight_eq_div_pow]
  constructor <;> omega

theorem fieldWord_reset (key : BitVec 16) :
    fld (w32 (key.toNat * 0x10000 + 2)) 3 0 = 2 ∧ fld (w32 (key.toNat * 0x10000 + 2)) 31 16 = key.toNat := by
  have hk := key.isLt
  simp only [fld, w32, BitVec.toNat_ofNat, Nat.shiftRight_eq_div_pow]
  constructor <;> omega

theorem Dev.fieldCmd_fire (d : Dev) (n : Fin 256) : d.fieldCmd (w32 (n.val * 256 + 1)) = d.fieldTrigger n.val := by
  obtain ⟨hc, hn⟩ := fieldWord_fire n
  unfold Dev.fieldCmd
  rw [hc, hn]
  rfl

/-- A field reset takes its KEY alone. -/
theorem Dev.fieldCmd_reset (d : Dev) (key : BitVec 16) :
    d.fieldCmd (w32 (key.toNat * 0x10000 + 2)) = if key = 0x4B53 then d.fieldReset else d.invalid fieldPage := by
  obtain ⟨hc, hk⟩ := fieldWord_reset key
  have hkey : key.toNat = 0x4B53 ↔ key = 0x4B53 := ⟨fun h => BitVec.eq_of_toNat_eq h, fun h => h ▸ rfl⟩
  unfold Dev.fieldCmd
  rw [hc, hk]
  simp only [hkey]

/-! ### Votes and the decision (R473) -/

/-- A device's vote for an event has come, and it is OK. -/
def FieldEv.votedFor (e : FieldEv) (a : Nat) : Prop := e.votes.find? (fun x => x.1 == a) = some (a, true)

/-- What the root finds of an address: no vote, or one against. -/
def FieldEv.against (e : FieldEv) (a : Nat) : Bool := match e.votes.find? (fun x => x.1 == a) with
  | some x => !x.2
  | none => true

theorem FieldEv.against_false_iff (e : FieldEv) (a : Nat) : e.against a = false ↔ e.votedFor a := by
  unfold FieldEv.against FieldEv.votedFor
  cases h : e.votes.find? (fun x => x.1 == a) with
  | none => simp
  | some x =>
    obtain ⟨b, ok⟩ := x
    have hb : b = a := by simpa using List.find?_some h
    simp [hb]

theorem FieldEv.against_true_iff (e : FieldEv) (a : Nat) : e.against a = true ↔ ¬ e.votedFor a := by
  rw [← e.against_false_iff, Bool.not_eq_false]

/-- Every device has voted for the event: the root decides GO. -/
theorem Dev.fieldDecide_go {d : Dev} {n : Nat} {e : FieldEv} (he : d.event n = some e) (hr : d.root = true) (hg : e.go = false)
    (ht : e.t.toNat ≤ d.now.toNat + d.bcastLat + 1000) (h : ∀ b ∈ 1 :: d.vl.members.map (·.addr), e.votedFor b) :
    d.fieldDecide n = (d.setEvent n (some { e with go := true })).updVl (fun v => { v with vote := w32 (n * 2 ^ 24 + 2 ^ 22) }) := by
  have hfind : (1 :: d.vl.members.map (·.addr)).find? e.against = none :=
    List.find?_eq_none.mpr fun b hb => by rw [(e.against_false_iff b).mpr (h b hb)]; exact Bool.false_ne_true
  unfold Dev.fieldDecide
  rw [he]
  dsimp only
  rw [if_neg (by simp [hr, hg, ht])]
  split
  · rfl
  · rename_i a ha
    exact absurd (hfind.symm.trans ha) (by simp)

/-- Otherwise it decides against, by the first device without a vote for it. -/
theorem Dev.fieldDecide_against {d : Dev} {n b : Nat} {e : FieldEv} {front back : List Nat} (he : d.event n = some e)
    (hr : d.root = true) (hg : e.go = false) (ht : e.t.toNat ≤ d.now.toNat + d.bcastLat + 1000)
    (hl : 1 :: d.vl.members.map (·.addr) = front ++ b :: back) (hf : ∀ c ∈ front, e.votedFor c) (hb : ¬ e.votedFor b) :
    d.fieldDecide n = (((d.setEvent n none).updVl (fun v =>
      { v with vote := w32 (n * 2 ^ 24 + (if e.votes.any (fun x => x.1 == b) then 2 else 3) * 2 ^ 22 + b) })).fault fieldPage 0).fieldRefuse
        n := by
  have hfind : (1 :: d.vl.members.map (·.addr)).find? e.against = some b := by
    rw [hl]
    refine List.find?_eq_some_iff_append.mpr ⟨(e.against_true_iff b).mpr hb, front, back, rfl, fun c hc => ?_⟩
    rw [(e.against_false_iff c).mpr (hf c hc)]
    rfl
  unfold Dev.fieldDecide
  rw [he]
  dsimp only
  rw [if_neg (by simp [hr, hg, ht])]
  split
  · rename_i ha
    exact absurd (hfind.symm.trans ha) (by simp)
  · rename_i a ha
    obtain rfl : b = a := Option.some.inj (hfind.symm.trans ha)
    rfl

/-- Before the decision is due the root waits. -/
theorem Dev.fieldDecide_early {d : Dev} {n : Nat} {e : FieldEv} (he : d.event n = some e)
    (ht : d.now.toNat + d.bcastLat + 1000 < e.t.toNat) : d.fieldDecide n = d := by
  unfold Dev.fieldDecide
  rw [he]
  dsimp only
  rw [if_pos (by simp [ht])]

theorem Dev.fieldVote_open {d : Dev} {n a : Nat} {e : FieldEv} {ok : Bool} (he : d.event n = some e) (hr : d.root = true)
    (hg : e.go = false) :
    d.fieldVote n a ok = d.setEvent n (some { e with votes := e.votes.filter (fun x => x.1 != a) ++ [(a, ok)] }) := by
  unfold Dev.fieldVote
  rw [he]
  dsimp only
  rw [if_pos (by simp [hr, hg])]

theorem Dev.fieldInstant_due {d : Dev} {n : Nat} {e : FieldEv} (he : d.event n = some e) (hg : e.go = true) (ht : e.t = d.now) :
    d.fieldInstant n =
      let d := d.setEvent n none
      let d := forEach (d.armedFor (namesEvent n)) (fun k (d : Dev) => d.pitchApply k) d
      d.weirOn 3 n (d.rf 0x1A04C 2 0) := by
  unfold Dev.fieldInstant
  rw [he]
  dsimp only
  rw [if_pos (by simp [hg, ht])]

/-! ### Members (R473) -/

section
variable {d : Dev} {n : Nat}

theorem Dev.fieldQuery_member (hr : d.root = false) (hf : d.inField = true) :
    d.fieldQuery n = d.updVl (fun x => { x with voted := SMap.put 0 x.voted n (d.voteOf n) }) := by
  unfold Dev.fieldQuery
  dsimp only
  rw [if_neg (by simp [hr, hf])]

theorem Dev.fieldGo_member (hr : d.root = false) (hf : d.inField = true) (t : Time) :
    d.fieldGo n t = if t < d.now then (d.fieldRefuse n).fault linkPage 6
      else d.setEvent n (some { t := t, votes := [], go := true }) := by
  unfold Dev.fieldGo
  rw [if_neg (by simp [hr, hf])]

theorem Dev.refuseIn_member (hr : d.root = false) (hf : d.inField = true) : d.refuseIn n = d.fieldRefuse n := if_neg (by simp [hr, hf])

/-- The instant of a field reset, at a member or at the root whose own time has come (R479). -/
theorem Dev.fieldResetAct_due (hf : d.inField = true) (h : d.root = true → ∃ u, d.vl.resetAt = some u ∧ u ≤ d.now) :
    d.fieldResetAct = d.deviceReset := by
  refine if_neg ?_
  cases hr : d.root with
  | false => simp [hf]
  | true =>
    obtain ⟨u, hu, hle⟩ := h hr
    simp [hf, hu, hle]

end

/-- Settles O57: each field event by what its function does at the root or at a member. That a wrong KEY is an invalid value is
notes/assumptions/44, the lead of the decision is 45, and a decision before its time doing nothing is 4. -/
theorem fieldEvents : Obligations.FieldEvents := by
  unfold Obligations.FieldEvents
  intro s p n a ok t key
  have hcmd (h : s.Via p) {v : Word} {g : Dev → Dev} (hg : s.dev.fieldCmd v = g s.dev) :
      (Host.Outcome.next (s.write p 0x1B044 v) : Host.Outcome State Fault Refusal) = .next (s.act g) :=
    State.write_next h (by decide) ((Dev.regWrite_fieldCmd _ p v).trans hg)
  refine ⟨fun h => ⟨hcmd h (Dev.fieldCmd_fire _ n), fun hr => hcmd h ?_, fun hk => hcmd h ?_⟩,
    fun h => ⟨fun hf hd => State.live_next h (Dev.fieldResetAct_due hf hd), fun hr hf => ⟨?_, fun ht => ?_, fun ht => ?_, ?_⟩,
      fun e he => ⟨fun hr hg => ⟨?_, fun ht hv => ?_, fun ht => ?_, fun b front back ht hl hv hb => ?_⟩, fun hg ht => ?_⟩⟩⟩
  · exact (Dev.fieldCmd_reset _ 0x4B53).trans ((if_pos rfl).trans (if_pos hr))
  · exact (Dev.fieldCmd_reset _ key).trans (if_neg hk)
  · exact State.live_next h (Dev.fieldQuery_member hr hf)
  · exact State.live_next h ((Dev.fieldGo_member hr hf t).trans (if_pos ht))
  · exact State.live_next h ((Dev.fieldGo_member hr hf t).trans (if_neg (BitVec.not_lt.mpr ht)))
  · exact State.live_next h (Dev.refuseIn_member hr hf)
  · exact State.live_next h (Dev.fieldVote_open he hr hg)
  · exact State.live_next h (Dev.fieldDecide_go he hr hg ht hv)
  · exact State.live_next h (Dev.fieldDecide_early he ht)
  · exact State.live_next h (Dev.fieldDecide_against he hr hg ht hl hv hb)
  · exact State.live_next h (Dev.fieldInstant_due he hg ht)

end Sys2Proof.Machine
end

section
/-! PROOFS. The Vierma link: the join, frames of the proxy window, and the statement ViermaCommands. -/

namespace Sys2Proof.Machine

/-! ### The join (R470) -/

/-- A cancelled pitch leaves the power part and the field alone. -/
theorem Dev.pitchCancel_field (d : Dev) (k result : Nat) (off : Word) :
    ((d.pitchCancel k result off).rest.pwr, (d.pitchCancel k result off).vl) = (d.rest.pwr, d.vl) := by
  have h : (d.pitchCancel k result off).rest = (d.setCtl k _).rest := Dev.rest_fabCommit _ _ _
  have hp := congrArg (fun d : Dev => (d.pwr, d.vl)) h
  exact hp

/-- So do any number of them. -/
theorem Dev.pitchCancels_field (l : List Nat) (d : Dev) (result : Nat) (off : Word) :
    (forEach l (fun k (d : Dev) => d.pitchCancel k result off) d).pwr.origin = d.pwr.origin ∧
    (forEach l (fun k (d : Dev) => d.pitchCancel k result off) d).now = d.now ∧
    (forEach l (fun k (d : Dev) => d.pitchCancel k result off) d).vl = d.vl := by
  have h := forEach_keeps (g := fun d : Dev => (d.rest.pwr, d.vl)) (fun k d => d.pitchCancel_field k result off) l d
  obtain ⟨hp, hv⟩ := Prod.mk.inj h
  exact ⟨(congrArg (fun p : Pwr => p.origin) hp :), (congrArg (fun p : Pwr => p.ltime) hp :), hv⟩

/-- LTIME, its origin and the membership behind a join. -/
theorem Dev.join_joined {d : Dev} (hr : d.root = false) (ha : d.vl.addr.isSome = true) (hu : d.vl.up.isSome = true)
    (hj : d.vl.joined = false) (hw : d.anyActive false = false) (t : Time) :
    (d.join t).pwr.origin = 2 ∧ (d.join t).now = t ∧ (d.join t).vl.joined = true := by
  unfold Dev.join
  dsimp only
  rw [if_neg (by simp [hr, hj, Option.isSome_iff_ne_none.mp ha, Option.isSome_iff_ne_none.mp hu]), if_neg (by simp [hw])]
  obtain ⟨ho, hn, hv⟩ := Dev.pitchCancels_field _ _ _ _
  exact ⟨ho, hn, congrArg Vierma.joined hv⟩

/-- A join while a unit runs is refused (R470). -/
theorem Dev.join_busy {d : Dev} (hr : d.root = false) (ha : d.vl.addr.isSome = true) (hu : d.vl.up.isSome = true)
    (hj : d.vl.joined = false) (hw : d.anyActive false = true) (t : Time) : d.join t = d.fault 0x1A000 7 := by
  unfold Dev.join
  dsimp only
  rw [if_neg (by simp [hr, hj, Option.isSome_iff_ne_none.mp ha, Option.isSome_iff_ne_none.mp hu]), if_pos hw]
  rfl

/-! ### Links and frames -/

theorem Dev.linkUp_on {d : Dev} {p : Nat} (h : d.portOn p = true) : d.linkUp p = d.setPort p { d.port p with link := 2 } := by
  unfold Dev.linkUp
  rw [if_pos h]

theorem Dev.portDelay_up {d : Dev} {p : Nat} (h : (d.port p).link = 2) (rt : Nat) :
    d.portDelay p rt = d.setPort p { d.port p with dly := rt / 2 } := by
  unfold Dev.portDelay
  rw [if_pos h]

/-- A line without a signal. -/
theorem Dev.portLoss_lost {d : Dev} {p : Nat} (h : d.portOn p = true) : d.portLoss p true 0 =
    let d := d.count (0x1A088 + 0x10 * p) 15 0
    (d.setPort p { d.port p with link := 3 }).fault 0x1A000 1 := by
  unfold Dev.portLoss
  dsimp only
  rw [if_neg (by simp [h]), if_pos rfl, if_pos rfl, if_neg (by simp)]
  rfl

/-- A line with few CRC errors stays up. -/
theorem Dev.portLoss_errors {d : Dev} {p crc : Nat} (h : d.portOn p = true) (h0 : crc ≠ 0) (h16 : crc ≤ 16) :
    d.portLoss p false crc = (d.count (0x1A088 + 0x10 * p) 31 16 crc).fault 0x1A000 0 := by
  unfold Dev.portLoss
  dsimp only
  rw [if_neg (by simp [h]), if_neg h0, if_neg Bool.false_ne_true, if_pos (by simp [h16])]
  rfl

theorem Dev.wready_member {d : Dev} {a : Nat} (h : d.root = false ∨ a = 1) (cfg amp avg : Word) (pos : Nat) :
    d.wready a cfg amp avg pos = d := if_pos (by rcases h with h | h <;> simp [h])

theorem Dev.wready_root {d : Dev} {a : Nat} (hr : d.root = true) (ha : a ≠ 1) (cfg amp avg : Word) (pos : Nat) :
    d.wready a cfg amp avg pos = d.wreadyAt a cfg amp avg pos := if_neg (by simp [hr, ha])

/-- FSTART in a field run that waits for it. -/
theorem Dev.fstartIn_waits {d : Dev} {w : WeirData} (hw : d.weir.run = some w) (hf : w.cfg.field = true) (h1 : d.weir.rstate = 1)
    (t : Option Time) : d.fstartIn t = match t with
      | some t => d.updVl (fun v => { v with fstart := some t })
      | none => d.weirAbort 3 := by
  unfold Dev.fstartIn
  rw [hw]
  cases t <;> exact if_pos (by simp [hf, h1])

/-- A request from the field acts as an access of the host port (R476). -/
theorem Dev.pageFrame_request {d : Dev} {off : Nat} (ha : d.vl.addr.isSome = true) (ho : off < 0x2000000) (write : Option Word) :
    d.pageFrame (.request off write) = match write with
      | some v => d.busWrite .host off v
      | none => (d.busRead .host off).1 := by
  have h : ¬ (d.vl.addr.isNone || decide (0x2000000 ≤ off)) = true := by simp [Option.isSome_iff_ne_none.mp ha, ho]
  unfold Dev.pageFrame
  cases write <;> exact if_neg h

/-- What ends a proxy read: its answer lies with the path (R476). -/
def Dev.proxyAnswered (d : Dev) (p : Path) (v : Word) : Dev :=
  (d.updVl (fun x => { x with proxy := x.proxy.erase p.num })).setPath p { d.path p with ans := v }

theorem Dev.pageFrame_completion {d : Dev} {p : Path} (h : p.num ∈ d.vl.proxy) (v : Word) :
    d.pageFrame (.completion p v) = d.proxyAnswered p v := if_pos (List.contains_iff_mem.mpr h)

theorem Dev.proxyLate_waits {d : Dev} {p : Path} (h : p.num ∈ d.vl.proxy) :
    d.proxyLate p = (d.proxyAnswered p 0xFFFFFFFF).fault 0x1A000 5 := if_pos (List.contains_iff_mem.mpr h)

/-- An answer to a proxy read, by what it makes of the present device. -/
theorem State.proxyEnd_next {s : State} (h : s.Alive) {p : Path} {f : Dev → Dev} {e : Dev} (hf : f s.dev = e) :
    (Host.Outcome.next (s.proxyEnd p f) : Host.Outcome State Fault Refusal) = .next (State.loaded { s with dev := e } p).finish := by
  have h' : s.dev.alive = true := h
  rw [State.proxyEnd, if_pos h', hf]

/-- Settles O56: each frame by its function under the conditions at which it acts. When a time-out comes is the sender's word,
notes/assumptions/100; an FSTART without an instant aborts with cause 3, 92; the join's step is 44. -/
theorem viermaCommands : Obligations.ViermaCommands := by
  unfold Obligations.ViermaCommands
  intro s p crc rt f ph t lost m x a cfg amp avg wpos off v pa h does
  refine ⟨fun hp => ⟨State.live_next h (Dev.linkUp_on hp), State.live_next h (Dev.portLoss_lost hp), fun h0 h16 =>
      State.live_next h (Dev.portLoss_errors hp h0 h16)⟩, State.live_next h rfl, fun hl => State.live_next h (Dev.portDelay_up hl rt),
    fun _ _ => State.live_next h rfl, fun hr ha hu hj => ⟨fun hw => State.live_next h (Dev.join_busy hr ha hu hj hw t), fun hw =>
      ⟨State.live_next h rfl, Dev.join_joined hr ha hu hj hw t⟩⟩, fun hr ha => State.live_next h (Dev.wready_root hr ha _ _ _ _),
    fun ha => State.live_next h (Dev.wready_member ha _ _ _ _), fun w hw hf => ⟨fun h1 => ⟨?_, ?_⟩, State.live_next h rfl⟩,
    fun ha ho => ⟨?_, ?_⟩, ?proxy, State.live_next h rfl, State.live_next h rfl, fun _ => State.live_next h rfl⟩
  · exact State.live_next h (Dev.fstartIn_waits hw hf h1 (some t))
  · exact State.live_next h (Dev.fstartIn_waits hw hf h1 none)
  · exact State.live_next h (Dev.pageFrame_request ha ho (some v))
  · exact State.live_next h (Dev.pageFrame_request ha ho none)
  case proxy =>
    intro hpa answered
    have ha (v : Word) : answered v = { s with dev := s.dev.proxyAnswered pa v } := rfl
    exact ⟨State.proxyEnd_next (f := fun d => d.pageFrame (.completion pa v)) h (Dev.pageFrame_completion hpa v),
      State.proxyEnd_next (f := fun d => d.proxyLate pa) h (Dev.proxyLate_waits hpa)⟩

end Sys2Proof.Machine
end

section
/-! PROOFS. Health: a scrub that leaves Lakebed alone, the commands of FW_CMD and the ends of programming and loading, and the
statement HealthCommands. -/

namespace Sys2Proof.Machine

/-! ### Scrubbing (R484) -/

/-- A scrub access that finds no bad codeword in Lakebed leaves Lakebed's bytes alone. -/
theorem exec_scrub_quiet {m : ScrubMem} {r : ScrubResult} (h : m ≠ .lakebed ∨ r ≠ .uncorrectable) (s : State) (a : Nat) :
    exec (.scrubAccess m a r) s = .next (s.act (fun d => d.scrub m a r)) := by
  have hq : (m == .lakebed && r == .uncorrectable) = false := by
    rcases h with h | h <;> simp [h]
  show Host.Outcome.next (s.scrubbed m a r) = _
  unfold State.scrubbed
  dsimp only
  rw [hq]
  simp only [Bool.false_and, Bool.false_eq_true, if_false]

/-! ### FW_CMD (R491, R492) -/

/-- The image slot that a command names is no standby slot. -/
def Dev.slotBad (d : Dev) : Prop := d.imgSlot = 0 ∨ d.imgSlot = 3 ∨ d.imgSlot = d.pwr.slot

theorem Dev.fwProgram_refused {d : Dev} {hdr : Bool} (h : d.slotBad ∨ hdr = false ∨ d.rf 0x1C08C 6 0 < 8) :
    d.fwProgram hdr = d.fwRefuse 3 := by
  unfold Dev.fwProgram
  dsimp only
  refine if_pos ?_
  unfold Dev.slotBad at h
  simp only [Bool.or_eq_true, decide_eq_true_eq, Bool.not_eq_true']
  tauto

theorem Dev.fwProgram_accepted {d : Dev} {hdr : Bool} (hs : ¬ d.slotBad) (hh : hdr = true) (hb : 8 ≤ d.rf 0x1C08C 6 0)
    (hr : ∀ r ∈ d.lakeRegions, overlap (d.rf 0x1C08C 6 0) 1 r.1 r.2 = false) :
    d.fwProgram hdr = (d.setSlot d.imgSlot { d.slot d.imgSlot with magic := false }).updHealth (fun h =>
      { h with op := 1, opImg := d.imgSlot, opBase := d.rf 0x1C08C 6 0, result := 1, pct := 0 }) := by
  have hany : d.lakeRegions.any (fun r => overlap (d.rf 0x1C08C 6 0) 1 r.1 r.2) = false := by
    rw [List.any_eq_false]
    exact fun r hm => by rw [hr r hm]; exact Bool.false_ne_true
  unfold Dev.fwProgram
  dsimp only
  refine if_neg ?_
  unfold Dev.slotBad at hs
  simp only [Bool.or_eq_true, decide_eq_true_eq, Bool.not_eq_true', hany, hh, Nat.not_lt.mpr hb]
  tauto

theorem Dev.fwLoad_refused {d : Dev} (h : d.slotBad ∨ (d.slot d.imgSlot).magic = false) : d.fwLoad = d.fwRefuse 3 := by
  unfold Dev.fwLoad
  dsimp only
  refine if_pos ?_
  unfold Dev.slotBad at h
  simp only [Bool.or_eq_true, decide_eq_true_eq, Bool.not_eq_true']
  tauto

theorem Dev.fwLoad_accepted {d : Dev} (hs : ¬ d.slotBad) (hm : (d.slot d.imgSlot).magic = true)
    (hst : (d.slot d.imgSlot).st = .new ∨ (d.slot d.imgSlot).st = .good) :
    d.fwLoad = d.updHealth (fun h => { h with op := 2, opImg := d.imgSlot, result := 1, pct := 0, loaded := none }) := by
  unfold Dev.fwLoad
  dsimp only
  refine if_neg ?_
  have hst' : ((d.slot d.imgSlot).st == .new || (d.slot d.imgSlot).st == .good) = true := by
    rcases hst with h | h <;> rw [h] <;> rfl
  unfold Dev.slotBad at hs
  simp only [Bool.or_eq_true, decide_eq_true_eq, Bool.not_eq_true', hm, hst']
  simpa [or_assoc] using hs

/-- The commands of FW_CMD with no operation in progress. -/
theorem Dev.fwCmd_idle {d : Dev} {p : Path} (hp : p = .host ∨ p = .mgmt ∨ p = .efyonS) (h : d.health.op = 0) (hdr : Bool) (ns : Word) :
    d.fwCmd p (fwWord 1) hdr ns = d.fwProgram hdr ∧ d.fwCmd p (fwWord 2) hdr ns = d.fwLoad ∧
    d.fwCmd p (fwWord 3) hdr ns = d.fwSwitch ns := by
  have hop : ¬ d.health.op ≠ 0 := not_not_intro h
  rcases hp with rfl | rfl | rfl <;> exact ⟨if_neg hop, if_neg hop, if_neg hop⟩

theorem Dev.fwSwitch_none {d : Dev} (h : d.health.loaded = none) (ns : Word) : d.fwSwitch ns = d.fwRefuse 3 := by
  unfold Dev.fwSwitch
  rw [h]

theorem Dev.fwSwitch_some {d : Dev} {i : Nat} (h : d.health.loaded = some i) (ns : Word) : d.fwSwitch ns =
    let d := (d.saveWear.coreStop).wb 0x204C 6 true
    let d := d.updHealth (fun h => { h with half := 1 - h.half, loaded := none, result := 2, pct := 100 })
    ((d.setSlot i { d.slot i with st := .trial }).startFw i).fwRec 1 ns := by
  unfold Dev.fwSwitch
  rw [h]
  rfl

/-! ### Ends of programming and loading -/

theorem Dev.fwProgrammed_failed {d : Dev} (h : d.health.op = 1) (image : List Host.Cell) : d.fwProgrammed false image = d.fwRefuse 5 := by
  unfold Dev.fwProgrammed
  rw [if_neg (by simp [h]), if_pos (by simp)]

theorem Dev.fwProgrammed_done {d : Dev} (h : d.health.op = 1) (image : List Host.Cell) : d.fwProgrammed true image =
    (d.setSlot d.health.opImg
      { magic := true, seq := (d.slot (3 - d.health.opImg)).seq + 1, st := .new, crc := true, image := image }).updHealth
      (fun h => { h with op := 0, result := 2, pct := 100 }) := by
  unfold Dev.fwProgrammed
  rw [if_neg (by simp [h]), if_neg (by simp)]

theorem Dev.fwLoaded_failed {d : Dev} (h : d.health.op = 2) : d.fwLoaded false = d.fwRefuse 4 := by
  unfold Dev.fwLoaded
  rw [if_neg (by simp [h]), if_pos (by simp)]

theorem Dev.fwLoaded_done {d : Dev} (h : d.health.op = 2) : d.fwLoaded true = d.updHealth (fun h =>
    { h with op := 0, result := 2, pct := 100, loaded := some h.opImg, load := some (h.opImg, 1 - h.half) }) := by
  unfold Dev.fwLoaded
  rw [if_neg (by simp [h]), if_neg (by simp)]

/-! ### Firmware's daily work (R488, R490) -/

theorem Dev.eolDaily_running {d : Dev} (h : d.esc.running = true) : d.eolDaily = d.eolPredict := by
  unfold Dev.eolDaily
  rw [if_pos h]

theorem Dev.refDaily_running {d : Dev} (h : d.esc.running = true) (hc : d.rb 0x1C070 1 = true) : d.refDaily = d.refStart := by
  unfold Dev.refDaily
  rw [if_pos (by simp [h, hc])]

theorem Dev.stCmd_ref (d : Dev) : d.stCmd 1 = d.refStart := by
  unfold Dev.stCmd
  simp [fld]

/-- Settles O58: each command by its function, accepted or refused, and each end by its outcome. SWITCH sets RST_CAUSE.CORE by
notes/assumptions/39; the header's verdict is 43; when the snapshot, the prediction and the daily check come is 100. -/
theorem healthCommands : Obligations.HealthCommands := by
  unfold Obligations.HealthCommands
  intro s p m a r ppm hdr ns does refused slotBad
  refine ⟨fun hm => exec_scrub_quiet (.inl hm) s a, fun hr => exec_scrub_quiet (.inr hr) s a, fun h =>
    ⟨State.live_next h rfl, State.live_next h rfl, fun hrun => ⟨State.live_next h (Dev.eolDaily_running hrun), State.live_next h rfl,
      fun hc => State.live_next h (Dev.refDaily_running hrun hc)⟩, fun _ => State.live_next h rfl,
      fun hop => ⟨State.live_next h (Dev.fwProgrammed_failed hop _), State.live_next h (Dev.fwProgrammed_done hop _)⟩,
      fun hop => ⟨State.live_next h (Dev.fwLoaded_failed hop), State.live_next h (Dev.fwLoaded_done hop)⟩⟩,
    fun h => ⟨State.write_next h (by decide) ((Dev.regWrite_stCmd _ p 1).trans (Dev.stCmd_ref _)), fun hop => ?commands⟩⟩
  case commands =>
    have hcmd (hdr : Bool) (ns : Word) := Dev.fwCmd_idle h.2 hop hdr ns
    have hprogram {g : Dev → Dev} (hg : s.dev.fwProgram hdr = g s.dev) : exec (.program p hdr) s = does g :=
      (congrArg _ (State.viaPath_of h _)).trans (State.act_next ((hcmd hdr 0).1.trans hg))
    have hload {g : Dev → Dev} (hg : s.dev.fwLoad = g s.dev) : exec (.load p) s = does g :=
      State.write_next h (by decide) ((Dev.regWrite_fwCmd _ p _).trans ((hcmd _ _).2.1.trans hg))
    have hswitch {g : Dev → Dev} (hg : s.dev.fwSwitch (w32 ns) = g s.dev) : exec (.switch p ns) s = does g :=
      (congrArg _ (State.viaPath_of h _)).trans (State.act_next ((hcmd false (w32 ns)).2.2.trans hg))
    exact ⟨fun hb => hprogram (Dev.fwProgram_refused hb), fun hs hh hb hr => hprogram (Dev.fwProgram_accepted hs hh hb hr),
      fun hb => hload (Dev.fwLoad_refused hb), fun hs hm hst => hload (Dev.fwLoad_accepted hs hm hst),
      fun hl => hswitch (Dev.fwSwitch_none hl _), fun i hi => hswitch (Dev.fwSwitch_some hi _)⟩

end Sys2Proof.Machine
end

section
/-! PROOFS. The TAP: what a DEBUG access makes of the device, events of the monitor, and the statement TapCommands. -/

namespace Sys2Proof.Machine

/-- A word's access at an aligned offset of BAR0 has no error. -/
theorem spanErr_word {a : Nat} (h4 : a % 4 = 0) (h : a < 0x2000000) : spanErr a 1 = none := by
  unfold spanErr
  rw [if_neg (by omega), if_neg (by omega)]

/-- The end of a DEBUG access. -/
def Dev.debugged (d : Dev) (err : Bool) (v : Word) : Dev :=
  { d with mon := { d.mon with ir := .debug, jDone := true, jErr := err, jData := v } }

/-- DEBUG with OP 0 loads the instruction alone. -/
theorem Dev.debug_load (d : Dev) (v : Word) (off : Nat) : d.debug 0 v off = d.setIr .debug := rfl

/-- A peek through the TAP, where JTAG_DBG admits it and the register is no read with a side effect (R513). -/
theorem Dev.debug_peek {d : Dev} {off : Nat} (h4 : off % 4 = 0) (ho : off < 0x2000000) (hm : d.rf 0x1E040 3 2 = 1 ∨ d.rf 0x1E040 3 2 = 2)
    (hp : noPeek off = false) (v : Word) : d.debug 3 v off = d.debugged false ((d.setIr .debug).peek off) := by
  have hmode : (d.rf 0x1E040 3 2 == 2 || ((3 : Nat) == 3 && d.rf 0x1E040 3 2 == 1)) = true := by rcases hm with h | h <;> simp [h]
  unfold Dev.debug
  dsimp only
  rw [if_neg (by decide), if_neg (by simp only [spanErr_word h4 ho, hmode, hp]; decide)]
  rfl

/-- Reads and writes through the TAP answer an error unless JTAG_DBG is 2. -/
theorem Dev.debug_refused {d : Dev} {op : Nat} (ho : op = 1 ∨ op = 2) (hm : d.rf 0x1E040 3 2 ≠ 2) (v : Word) (off : Nat) :
    d.debug op v off = d.debugged true 0 := by
  have hmode : (d.rf 0x1E040 3 2 == 2) = false := by simp [hm]
  have h3 : (op == 3) = false := by rcases ho with rfl | rfl <;> rfl
  unfold Dev.debug
  dsimp only
  rw [if_neg (by omega), if_pos (by simp [hmode, h3])]
  rfl

theorem Dev.monBreak_on {d : Dev} (h : d.rb 0x1E040 0 = true) : d.monBreak =
    (d.updMon (fun m => { m with level := 0, chal := none, baud := 115200, baudNew := false, ans := none })).fault dbgPage 3 := by
  unfold Dev.monBreak
  rw [if_pos h]

theorem Dev.baudRevert_new {d : Dev} (h : d.mon.baudNew = true) :
    d.baudRevert = d.updMon (fun m => { m with baud := 115200, baudNew := false }) := by
  unfold Dev.baudRevert
  rw [if_pos h]

theorem Dev.haltTimeout_halted {d : Dev} (h : d.esc.monHalt = true) (hm : d.rf 0x1E040 31 16 ≠ 0) :
    d.haltTimeout = (d.setHalt false).fault dbgPage 4 := by
  unfold Dev.haltTimeout
  rw [if_pos (by simp [h, hm])]

/-- Settles O60: the TAP's instructions load, DEBUG answers by its operation and JTAG_DBG, and each event by its function. That OP 0
loads alone is notes/assumptions/72, that a break clears the challenge is 68, when the time-outs come is 100. -/
theorem tapCommands : Obligations.TapCommands := by
  unfold Obligations.TapCommands
  intro s v off h does loads done
  refine ⟨State.live_next h rfl, State.live_next h rfl, State.live_next h rfl, State.live_next h rfl, State.live_next h rfl,
    State.live_next h (Dev.debug_load _ v off), fun h4 ho => ⟨fun hm hp => State.live_next h (Dev.debug_peek h4 ho hm hp v),
      fun hm => ⟨State.live_next h (Dev.debug_refused (.inl rfl) hm v off), State.live_next h (Dev.debug_refused (.inr rfl) hm v off)⟩⟩,
    fun hb => State.live_next h (Dev.monBreak_on hb), fun hn => State.live_next h (Dev.baudRevert_new hn), State.live_next h rfl,
    fun hh hm => State.live_next h (Dev.haltTimeout_halted hh hm)⟩

end Sys2Proof.Machine
end

section
/-! PROOFS. The monitor's lines: when a line is refused, when it is malformed (ERR 5) and what it leaves when it is done, what each line
answers, and the statement MonitorLines. -/

namespace Sys2Proof.Machine

/-! ### A line's end (R504, R505) -/

/-- The device with a line taken: the wait for a valid line at a new rate is over. -/
def Dev.lineTaken (d : Dev) : Dev := d.updMon (fun m => { m with baudNew := false })

/-- The state with a line's effect on the device and its answer. -/
def State.answered (s : State) (d : Dev) (x : MonAns) : State :=
  State.finish { s with dev := d.updMon (fun m => { m with ans := some x }) }

section
variable {s : State} (h : s.Alive) (hp : s.dev.rb 0x1E040 0 = true)
include h hp

/-- A line while the port is on. -/
theorem State.line_on (n : Nat) (f : State → State × MonAns) : s.line n f =
    (let s0 : State := { s with dev := s.dev.lineTaken }
     let r := if s.dev.mon.level < n then (s0, .err 2) else f s0
     let t := if r.2 = .err 5 then s else r.1
     t.answered t.dev r.2) := by
  have h' : s.dev.alive = true := h
  exact if_neg (by simp [h', hp])

/-- A line above the level is refused. -/
theorem State.line_refused {n : Nat} (hl : s.dev.mon.level < n) (f : State → State × MonAns) :
    s.line n f = s.answered s.dev.lineTaken (.err 2) := by
  rw [State.line_on h hp]
  dsimp only
  rw [if_pos hl, if_neg (by simp)]
  rfl

/-- A line that is carried out, or answers an error other than ERR 5. -/
theorem State.line_done {n : Nat} (hl : n ≤ s.dev.mon.level) {f : State → State × MonAns} {t : State} {x : MonAns}
    (hf : f { s with dev := s.dev.lineTaken } = (t, x)) (hx : x ≠ .err 5) : s.line n f = t.answered t.dev x := by
  rw [State.line_on h hp]
  dsimp only
  rw [if_neg (Nat.not_lt.mpr hl), hf, if_neg hx]

/-- A malformed line (ERR 5) leaves the device alone. -/
theorem State.line_syntax {n : Nat} (hl : n ≤ s.dev.mon.level) {f : State → State × MonAns} {t : State}
    (hf : f { s with dev := s.dev.lineTaken } = (t, .err 5)) : s.line n f = s.answered s.dev (.err 5) := by
  rw [State.line_on h hp]
  dsimp only
  rw [if_neg (Nat.not_lt.mpr hl), hf, if_pos rfl]

theorem State.devLine_done {n : Nat} (hl : n ≤ s.dev.mon.level) {f : Dev → Dev × MonAns} {d : Dev} {x : MonAns}
    (hf : f s.dev.lineTaken = (d, x)) (hx : x ≠ .err 5) : s.devLine n f = s.answered d x :=
  State.line_done h hp hl (t := { s with dev := d }) (by dsimp only; rw [hf]) hx

theorem State.devLine_syntax {n : Nat} (hl : n ≤ s.dev.mon.level) {f : Dev → Dev × MonAns} {d : Dev}
    (hf : f s.dev.lineTaken = (d, .err 5)) : s.devLine n f = s.answered s.dev (.err 5) :=
  State.line_syntax h hp hl (t := { s with dev := d }) (by dsimp only; rw [hf])

end

/-! ### The lines' ends as commands -/

section
variable {s : State} (h : s.Alive) (hp : s.dev.rb 0x1E040 0 = true)
include h hp

theorem State.devLine_refused_next {n : Nat} (hl : s.dev.mon.level < n) (f : Dev → Dev × MonAns) :
    (Host.Outcome.next (s.devLine n f) : Host.Outcome State Fault Refusal) = .next (s.answered s.dev.lineTaken (.err 2)) :=
  congrArg Host.Outcome.next (State.line_refused h hp hl _)

theorem State.devLine_done_next {n : Nat} (hl : n ≤ s.dev.mon.level) {f : Dev → Dev × MonAns} {d : Dev} {x : MonAns}
    (hf : f s.dev.lineTaken = (d, x)) (hx : x ≠ .err 5) :
    (Host.Outcome.next (s.devLine n f) : Host.Outcome State Fault Refusal) = .next (s.answered d x) :=
  congrArg Host.Outcome.next (State.devLine_done h hp hl hf hx)

theorem State.devLine_syntax_next {n : Nat} (hl : n ≤ s.dev.mon.level) {f : Dev → Dev × MonAns} {d : Dev}
    (hf : f s.dev.lineTaken = (d, .err 5)) :
    (Host.Outcome.next (s.devLine n f) : Host.Outcome State Fault Refusal) = .next (s.answered s.dev (.err 5)) :=
  congrArg Host.Outcome.next (State.devLine_syntax h hp hl hf)

end

/-! ### What the lines answer -/

/-- The error of a malformed span (ERR 5), and of one outside the offsets that the monitor reaches. -/
theorem spanErr_syntax {a n : Nat} (h : n = 0 ∨ 16 < n ∨ a % 4 ≠ 0) : spanErr a n = some 5 := if_pos h
theorem spanErr_outside {a n : Nat} (h : ¬ (n = 0 ∨ 16 < n ∨ a % 4 ≠ 0)) (ho : 0x2000000 < a + 4 * n) : spanErr a n = some 3 :=
  (if_neg h).trans (if_pos ho)
theorem spanErr_inside {a n : Nat} (h : ¬ (n = 0 ∨ 16 < n ∨ a % 4 ≠ 0)) (ho : ¬ 0x2000000 < a + 4 * n) : spanErr a n = none :=
  (if_neg h).trans (if_neg ho)

theorem any_spanOf {a n : Nat} {f : Nat → Bool} : (spanOf a n).any f = true ↔ ∃ i < n, f (a + 4 * i) = true := by
  simp [spanOf, List.any_eq_true]

section
variable (d : Dev)

theorem Dev.monPeek_err {a n e : Nat} (h : spanErr a n = some e) : d.monPeek a n = (d, .err e) := by
  unfold Dev.monPeek
  rw [h]

theorem Dev.monPeek_ok {a n : Nat} (h : spanErr a n = none) :
    d.monPeek a n = if (spanOf a n).any noPeek then (d, .err 4) else (d, .ok ((spanOf a n).map d.peek)) := by
  unfold Dev.monPeek
  rw [h]

theorem Dev.monRd_err {a n e : Nat} (h : spanErr a n = some e) : d.monRd a n = (d, .err e) := by
  unfold Dev.monRd
  rw [h]

theorem Dev.monRd_ok {a n : Nat} (h : spanErr a n = none) :
    d.monRd a n = ((d.readAll (spanOf a n)).1, .ok (d.readAll (spanOf a n)).2) := by
  unfold Dev.monRd
  rw [h]

theorem Dev.monWr_err {a e : Nat} {v : Word} (h : spanErr a 1 = some e) : d.monWr a v = (d, .err e) := by
  unfold Dev.monWr
  rw [h]

theorem Dev.monWr_ok {a : Nat} {v : Word} (h : spanErr a 1 = none) : d.monWr a v = (d.busWrite .host a v, .ok []) := by
  unfold Dev.monWr
  rw [h]
  rfl

/-- One word read. -/
theorem Dev.monRd_word {a : Nat} (h : spanErr a 1 = none) :
    d.monRd a 1 = ((d.busRead .host a).1, .ok [(d.busRead .host a).2]) := by
  rw [d.monRd_ok h]
  rfl

end

/-- A fault leaves the monitor alone. -/
theorem Dev.mon_fault (d : Dev) (page b : Nat) : (d.fault page b).mon = d.mon := (congrArg Dev.mon (d.rest_fault page b) :)

/-- A key that comes too late, the right one, a wrong one, and the third wrong one (R505, R506). -/
theorem Dev.monKey_late {d : Dev} {g : Nat} {c r : Word} {t : Time} (hc : d.mon.chal = some (g, c, t))
    (ht : 10000000000 < (d.now - t).toNat) : d.monKey r = (d.updMon (fun m => { m with chal := none }), .err 4) := by
  unfold Dev.monKey
  rw [hc]
  exact if_pos ht

theorem Dev.monKey_right {d : Dev} {g : Nat} {c r : Word} {t : Time} (hc : d.mon.chal = some (g, c, t))
    (ht : ¬ 10000000000 < (d.now - t).toNat) (hr : d.mon.key ≠ 0 ∧ r = unlockResponse d.mon.key c g) :
    d.monKey r = ((d.updMon (fun m => { m with chal := none })).updMon (fun m => { m with level := g, wrong := 0 }), .ok []) := by
  unfold Dev.monKey
  rw [hc]
  exact (if_neg ht).trans (if_pos hr)

theorem Dev.monKey_wrong {d : Dev} {g : Nat} {c r : Word} {t : Time} (hc : d.mon.chal = some (g, c, t))
    (ht : ¬ 10000000000 < (d.now - t).toNat) (hr : ¬ (d.mon.key ≠ 0 ∧ r = unlockResponse d.mon.key c g)) (hw : d.mon.wrong < 2) :
    d.monKey r =
      (((d.updMon (fun m => { m with chal := none })).fault 0x1E000 1).updMon (fun m => { m with wrong := m.wrong + 1 }), .err 2) := by
  unfold Dev.monKey
  rw [hc]
  exact (if_neg ht).trans ((if_neg hr).trans (if_pos (by rw [Dev.mon_fault]; exact Nat.succ_lt_succ hw)))

theorem Dev.monKey_third {d : Dev} {g : Nat} {c r : Word} {t : Time} (hc : d.mon.chal = some (g, c, t))
    (ht : ¬ 10000000000 < (d.now - t).toNat) (hr : ¬ (d.mon.key ≠ 0 ∧ r = unlockResponse d.mon.key c g)) (hw : ¬ d.mon.wrong < 2) :
    d.monKey r = ((((d.updMon (fun m => { m with chal := none })).fault 0x1E000 1).updMon (fun m =>
      { m with wrong := 0, lockout := true })).fault 0x1E000 2, .err 2) := by
  unfold Dev.monKey
  rw [hc]
  exact (if_neg ht).trans ((if_neg hr).trans (if_neg (by rw [Dev.mon_fault]; exact fun h => hw (Nat.lt_of_succ_lt_succ h))))

theorem Dev.monKey_none {d : Dev} (hc : d.mon.chal = none) (r : Word) : d.monKey r = (d, .err 4) := by
  unfold Dev.monKey
  rw [hc]

theorem Dev.monHalt_running {d : Dev} (hr : d.esc.running = true ∧ d.esc.monHalt = false) :
    d.monHalt = (d.setEsc { d.esc with monHalt := true }, .ok []) := if_pos (by simp [hr])

theorem Dev.monHalt_other {d : Dev} (hr : ¬ (d.esc.running = true ∧ d.esc.monHalt = false)) : d.monHalt = (d, .err 4) :=
  if_neg (by simpa using hr)

/-- One instruction of the stopped core. -/
def State.stepped (s : State) : State :=
  if s.dev.stepsOn .main = true ∧ s.dev.esc.halted = false then State.stepCore .main 3 s else s

theorem State.monStep_halted {s : State} (h : s.dev.esc.monHalt = true) : s.monStep = (s.stepped.dueEntry, .ok []) := by
  have hs : s.stepped = if s.dev.stepsOn .main && !s.dev.esc.halted then State.stepCore .main 3 s else s := by
    simp [State.stepped]
  unfold State.monStep
  rw [if_neg (by simp [h]), hs]
  rfl

theorem State.monStep_other {s : State} (h : s.dev.esc.monHalt = false) : s.monStep = (s, .err 4) := if_pos (by simp [h])

/-! ### The lines by their level -/

section
variable {s : State} (h : s.Alive) (hp : s.dev.rb 0x1E040 0 = true)
include h hp

theorem exec_monUnlock (l : Fin 3) (c : Word) : exec (.monUnlock l c) s =
    (if l.val = 0 then .next (s.answered s.dev (.err 5))
     else if s.dev.mon.lockout then .next (s.answered s.dev.lineTaken (.err 4))
     else .next (s.answered (s.dev.lineTaken.updMon (fun m => { m with chal := some (l.val, c, s.dev.now) })) (.ok [c]))) := by
  split_ifs with h0 hlock
  · exact State.devLine_syntax_next h hp (Nat.zero_le _) (if_pos h0)
  · exact State.devLine_done_next h hp (Nat.zero_le _) ((if_neg h0).trans (if_pos hlock)) (by simp)
  · exact State.devLine_done_next h hp (Nat.zero_le _) ((if_neg h0).trans (if_neg hlock)) (by simp)

theorem exec_monKey {g : Nat} {c : Word} {t : Time} (hc : s.dev.mon.chal = some (g, c, t)) (r : Word) : exec (.monKey r) s =
    (let used := s.dev.lineTaken.updMon (fun m => { m with chal := none })
     if 10000000000 < (s.dev.now - t).toNat then .next (s.answered used (.err 4))
     else if s.dev.mon.key ≠ 0 ∧ r = unlockResponse s.dev.mon.key c g then
       .next (s.answered (used.updMon (fun m => { m with level := g, wrong := 0 })) (.ok []))
     else if s.dev.mon.wrong < 2 then
       .next (s.answered ((used.fault 0x1E000 1).updMon (fun m => { m with wrong := m.wrong + 1 })) (.err 2))
     else .next (s.answered (((used.fault 0x1E000 1).updMon (fun m => { m with wrong := 0, lockout := true })).fault 0x1E000 2)
       (.err 2))) := by
  extract_lets used
  split_ifs with ht hr hw
  · exact State.devLine_done_next h hp (Nat.zero_le _) (Dev.monKey_late hc ht) (by simp)
  · exact State.devLine_done_next h hp (Nat.zero_le _) (Dev.monKey_right hc ht hr) (by simp)
  · exact State.devLine_done_next h hp (Nat.zero_le _) (Dev.monKey_wrong hc ht hr hw) (by simp)
  · exact State.devLine_done_next h hp (Nat.zero_le _) (Dev.monKey_third hc ht hr hw) (by simp)

theorem exec_monBaud (b : Nat) : exec (.monBaud b) s =
    (if 9600 ≤ b ∧ b ≤ 3000000 then .next (s.answered (s.dev.lineTaken.updMon (fun m => { m with baud := b, baudNew := true })) (.ok []))
     else .next (s.answered s.dev (.err 5))) := by
  split_ifs with hb
  · exact State.devLine_done_next h hp (Nat.zero_le _) (if_neg (by omega)) (by simp)
  · exact State.devLine_syntax_next h hp (Nat.zero_le _) (if_pos (by omega))

theorem exec_monPeek (hl : 1 ≤ s.dev.mon.level) (a n : Nat) : exec (.monPeek a n) s =
    (if n = 0 ∨ 16 < n ∨ a % 4 ≠ 0 then .next (s.answered s.dev (.err 5))
     else if 0x2000000 < a + 4 * n then .next (s.answered s.dev.lineTaken (.err 3))
     else if ∃ i < n, noPeek (a + 4 * i) = true then .next (s.answered s.dev.lineTaken (.err 4))
     else .next (s.answered s.dev.lineTaken (.ok ((List.range n).map (fun i => s.dev.lineTaken.peek (a + 4 * i)))))) := by
  have hany : (spanOf a n).any noPeek = true ↔ ∃ i < n, noPeek (a + 4 * i) = true := any_spanOf
  have hmap : (spanOf a n).map s.dev.lineTaken.peek = (List.range n).map (fun i => s.dev.lineTaken.peek (a + 4 * i)) := List.map_map
  split_ifs with hs ho hn
  · exact State.devLine_syntax_next h hp hl (Dev.monPeek_err _ (spanErr_syntax hs))
  · exact State.devLine_done_next h hp hl (Dev.monPeek_err _ (spanErr_outside hs ho)) (by simp)
  · exact State.devLine_done_next h hp hl ((Dev.monPeek_ok _ (spanErr_inside hs ho)).trans (if_pos (hany.mpr hn))) (by simp)
  · rw [← hmap]
    exact State.devLine_done_next h hp hl ((Dev.monPeek_ok _ (spanErr_inside hs ho)).trans (if_neg fun hx => hn (hany.mp hx))) (by simp)

theorem exec_monSreg (hl : 1 ≤ s.dev.mon.level) (reg : Reg) : exec (.monSreg reg) s =
    .next (s.answered s.dev.lineTaken (if s.dev.esc.monHalt then .ok [s.dev.esc.core.dr reg.val] else .err 4)) := by
  split_ifs with hh
  · exact State.devLine_done_next h hp hl (if_pos hh) (by simp)
  · exact State.devLine_done_next h hp hl (if_neg hh) (by simp)

theorem exec_monRd (hl : 2 ≤ s.dev.mon.level) (a n : Nat) : exec (.monRd a n) s =
    (if n = 0 ∨ 16 < n ∨ a % 4 ≠ 0 then .next (s.answered s.dev (.err 5))
     else if 0x2000000 < a + 4 * n then .next (s.answered s.dev.lineTaken (.err 3))
     else .next (s.answered (s.dev.lineTaken.readAll (spanOf a n)).1 (.ok (s.dev.lineTaken.readAll (spanOf a n)).2))) := by
  split_ifs with hs ho
  · exact State.devLine_syntax_next h hp hl (Dev.monRd_err _ (spanErr_syntax hs))
  · exact State.devLine_done_next h hp hl (Dev.monRd_err _ (spanErr_outside hs ho)) (by simp)
  · exact State.devLine_done_next h hp hl (Dev.monRd_ok _ (spanErr_inside hs ho)) (by simp)

/-- A line that writes one word. -/
theorem State.devLine_monWr (hl : 2 ≤ s.dev.mon.level) (a : Nat) (v : Word) : s.devLine 2 (fun d => d.monWr a v) =
    (if a % 4 ≠ 0 then s.answered s.dev (.err 5)
     else if 0x2000000 < a + 4 then s.answered s.dev.lineTaken (.err 3)
     else s.answered (s.dev.lineTaken.busWrite .host a v) (.ok [])) := by
  split_ifs with hs ho
  · exact State.devLine_syntax h hp hl (Dev.monWr_err _ (spanErr_syntax (.inr (.inr hs))))
  · exact State.devLine_done h hp hl (Dev.monWr_err _ (spanErr_outside (by omega) ho)) (by simp)
  · exact State.devLine_done h hp hl (Dev.monWr_ok _ (spanErr_inside (by omega) ho)) (by simp)

/-- A write to a register of BAR0 that is a word's. -/
theorem State.devLine_monWr_word (hl : 2 ≤ s.dev.mon.level) {a : Nat} (h4 : a % 4 = 0) (ha : a < 0x2000000) (v : Word) :
    s.devLine 2 (fun d => d.monWr a v) = s.answered (s.dev.lineTaken.busWrite .host a v) (.ok []) := by
  rw [State.devLine_monWr h hp hl, if_neg (by omega), if_neg (by omega)]

theorem exec_monPop (hl : 2 ≤ s.dev.mon.level) (q : Queue) : exec (.monPop q) s =
    .next (s.answered (s.dev.lineTaken.busRead .host (0x520000 + 16 * q.val)).1
      (.ok [(s.dev.lineTaken.busRead .host (0x520000 + 16 * q.val)).2])) := by
  have hq := q.isLt
  exact State.devLine_done_next h hp hl (Dev.monRd_word _ (spanErr_inside (a := 0x520000 + 16 * q.val) (by omega) (by omega))) (by simp)

theorem exec_monQdrop (hl : 2 ≤ s.dev.mon.level) (q : Queue) :
    exec (.monQdrop q) s = .next (s.answered (s.dev.lineTaken.busWrite .host (0x52000C + 16 * q.val) 1) (.ok [])) := by
  have hq := q.isLt
  have ha : consPort q.val + 12 = 0x52000C + 16 * q.val := by unfold consPort; omega
  show Host.Outcome.next (s.devLine 2 (fun d => d.monWr (consPort q.val + 12) 1)) = _
  rw [ha, State.devLine_monWr_word h hp hl (by omega) (by omega)]

theorem exec_monPush (hl : 2 ≤ s.dev.mon.level) (q : Queue) (v : Word) (eop : Bool) : exec (.monPush q v eop) s =
    .next (s.answered (s.dev.lineTaken.busWrite .host (0x510000 + 16 * q.val + (if eop then 4 else 0)) v) (.ok [])) := by
  have hq := q.isLt
  show Host.Outcome.next (s.devLine 2 (fun d => d.monWr (0x510000 + 16 * q.val + (if eop then 4 else 0)) v)) = _
  rw [State.devLine_monWr_word h hp hl (by split <;> omega) (by split <;> omega)]

/-- A line that writes a context's CTL. -/
theorem State.devLine_ctx (hl : 2 ≤ s.dev.mon.level) (camp : Camp) (k : Fin 10) (v : Word) :
    s.devLine 2 (fun d => d.monWr (ctxPage (10 * camp.val + k.val) + 0x4C) v) =
      s.answered (s.dev.lineTaken.busWrite .host ((Un.ctx (10 * camp.val + k.val)).addr + 0x4C) v) (.ok []) := by
  have hc := camp.isLt
  have hk := k.isLt
  have hpage : (Un.ctx (10 * camp.val + k.val)).addr % 4 = 0 ∧ (Un.ctx (10 * camp.val + k.val)).addr + 0x4C < 0x2000000 := by
    simp only [Un.addr]
    omega
  exact State.devLine_monWr_word h hp hl (by unfold ctxPage; omega) (by unfold ctxPage; omega) v

theorem exec_monCtxStep (hl : 2 ≤ s.dev.mon.level) (camp : Camp) (k : Fin 10) : exec (.monCtxStep camp k) s =
    .next (s.answered (s.dev.lineTaken.busWrite .host ((Un.ctx (10 * camp.val + k.val)).addr + 0x4C) 2) (.ok [])).runSteps := by
  show Host.Outcome.next (State.runSteps _) = _
  rw [State.devLine_ctx h hp hl]

theorem exec_monCtxRelease (hl : 2 ≤ s.dev.mon.level) (camp : Camp) (k : Fin 10) : exec (.monCtxRelease camp k) s =
    .next (s.answered (s.dev.lineTaken.busWrite .host ((Un.ctx (10 * camp.val + k.val)).addr + 0x4C) 1) (.ok [])) :=
  congrArg Host.Outcome.next (State.devLine_ctx h hp hl camp k 1)

theorem exec_monWr (hl : 2 ≤ s.dev.mon.level) (a : Nat) (v : Word) : exec (.monWr a v) s =
    .next (if a % 4 ≠ 0 then s.answered s.dev (.err 5) else if 0x2000000 < a + 4 then s.answered s.dev.lineTaken (.err 3)
      else s.answered (s.dev.lineTaken.busWrite .host a v) (.ok [])).runSteps := by
  rw [← State.devLine_monWr h hp hl]
  rfl

theorem exec_monHalt (hl : 2 ≤ s.dev.mon.level) : exec .monHalt s =
    (if s.dev.esc.running = true ∧ s.dev.esc.monHalt = false
     then .next (s.answered (s.dev.lineTaken.setEsc { s.dev.esc with monHalt := true }) (.ok []))
     else .next (s.answered s.dev.lineTaken (.err 4))) := by
  split_ifs with hr
  · exact State.devLine_done_next h hp hl (Dev.monHalt_running hr) (by simp)
  · exact State.devLine_done_next h hp hl (Dev.monHalt_other hr) (by simp)

theorem exec_monGo (hl : 2 ≤ s.dev.mon.level) : exec .monGo s =
    (if s.dev.esc.monHalt then .next (s.answered (s.dev.lineTaken.setEsc { s.dev.esc with monHalt := false }) (.ok []))
     else .next (s.answered s.dev.lineTaken (.err 4))) := by
  split_ifs with hh
  · exact State.devLine_done_next h hp hl (if_pos hh) (by simp)
  · exact State.devLine_done_next h hp hl (if_neg hh) (by simp)

theorem exec_monSstep (hl : 2 ≤ s.dev.mon.level) : exec .monSstep s =
    (if s.dev.esc.monHalt then
       let t := State.stepped { s with dev := s.dev.lineTaken }
       .next (t.dueEntry.answered t.dueEntry.dev (.ok []))
     else .next (s.answered s.dev.lineTaken (.err 4))) := by
  show Host.Outcome.next (s.line 2 State.monStep) = _
  extract_lets t
  split_ifs with hh
  · have hm : State.monStep { s with dev := s.dev.lineTaken } = (t.dueEntry, .ok []) := State.monStep_halted hh
    rw [State.line_done h hp hl hm (by simp)]
  · have hm : State.monStep { s with dev := s.dev.lineTaken } = ({ s with dev := s.dev.lineTaken }, .err 4) :=
      State.monStep_other (Bool.not_eq_true _ ▸ hh)
    rw [State.line_done h hp hl hm (by simp)]
    rfl

end

/-- Settles O59: each line by its level, then by its function. The order of the checks and the errors are notes/assumptions/67, the
KEY 68, HALT, GO, SSTEP and SREG 69, the refusal of PEEK 70, the list of MON_CTX 71. -/
theorem monitorLines : Obligations.MonitorLines := by
  unfold Obligations.MonitorLines
  intro s l c r v a n b q camp k ch reg eop h hp d0 done answers syntaxErr page lvl
  have hrefused {n : Nat} (hl : lvl < n) (f : Dev → Dev × MonAns) := State.devLine_refused_next h hp hl f
  have hruns {n : Nat} (hl : lvl < n) (f : Dev → Dev × MonAns) : s.devLine n f = done s d0 (.err 2) := State.line_refused h hp hl _
  refine ⟨State.devLine_done_next h hp (Nat.zero_le _) rfl (by simp), State.devLine_done_next h hp (Nat.zero_le _) rfl (by simp),
    exec_monUnlock h hp l c,
    fun hc => State.devLine_done_next h hp (Nat.zero_le _) (Dev.monKey_none (d := s.dev.lineTaken) hc r) (by simp),
    fun g c t hc => exec_monKey h hp hc r, exec_monBaud h hp b,
    fun hl => ⟨hrefused hl _, hrefused hl _, hrefused hl _, hrefused hl _⟩, fun hl => ?one, fun hl => ?below, fun hl => ?two⟩
  case one =>
    exact ⟨exec_monPeek h hp hl a n, State.devLine_done_next h hp hl rfl (by simp), State.devLine_done_next h hp hl rfl (by simp),
      exec_monSreg h hp hl reg⟩
  case below =>
    exact ⟨hrefused hl _, congrArg (fun t => Host.Outcome.next (State.runSteps t)) (hruns hl _), hrefused hl _, hrefused hl _,
      hrefused hl _, congrArg (fun t => Host.Outcome.next (State.runSteps t)) (hruns hl _), hrefused hl _, hrefused hl _,
      hrefused hl _, hrefused hl _, congrArg Host.Outcome.next (State.line_refused h hp hl _)⟩
  case two =>
    exact ⟨exec_monRd h hp hl a n, exec_monWr h hp hl a v, exec_monPop h hp hl q, exec_monQdrop h hp hl q, exec_monPush h hp hl q v eop,
      exec_monCtxStep h hp hl camp k, exec_monCtxRelease h hp hl camp k, State.devLine_done_next h hp hl rfl (by simp),
      exec_monHalt h hp hl, exec_monGo h hp hl, exec_monSstep h hp hl⟩

end Sys2Proof.Machine
end

section
/-! PROOFS. Interrupt entries of Efyon-S: the registers through a change with a bank, a fast entry and its exit, the frame of a normal
entry, and the statements FastEntries and NormalEntry. -/

namespace Sys2Proof.Machine

/-! ### Registers and banks (R378) -/

section
variable (c : Core)

theorem Core.dr_setD_same {r : Nat} (h : r ≠ 0) (v : Word) : (c.setD r v).dr r = v := by
  unfold Core.setD
  rw [if_neg h]
  exact (if_neg h).trans (SMap.get_put_self _ _ _)

theorem Core.xr_setD (r : Nat) (v : Word) (x : Nat) : (c.setD r v).xr x = c.xr x := by
  unfold Core.xr
  rw [(c.setD_keeps r v).1]

theorem Core.dr_setX (x : Nat) (v : Word) (r : Nat) : (c.setX x v).dr r = c.dr r := rfl
theorem Core.xr_setX_same (x : Nat) (v : Word) : (c.setX x v).xr x = v := SMap.get_put_self _ _ _
theorem Core.xr_setX_ne {x y : Nat} (h : y ≠ x) (v : Word) : (c.setX x v).xr y = c.xr y := SMap.get_put_ne _ _ h

/-- One register of a bank goes into the core. -/
def Core.loadReg (m : SMap Word) (k : Nat) (c : Core) : Core :=
  if k < 8 then c.setD (24 + k) (SMap.get 0 m k) else c.setX (k - 2) (SMap.get 0 m k)

/-- The first n registers of a bank in the core: of d24 to d31 those that n reaches, and of the pointers those behind them. -/
theorem Core.loadRegs (m : SMap Word) (n : Nat) :
    (∀ r, (forRange n (Core.loadReg m) c).dr r = if 24 ≤ r ∧ r < 24 + min n 8 then SMap.get 0 m (r - 24) else c.dr r) ∧
    (∀ x, (forRange n (Core.loadReg m) c).xr x = if 6 ≤ x ∧ x + 2 < n then SMap.get 0 m (x + 2) else c.xr x) ∧
    (forRange n (Core.loadReg m) c).lc = c.lc := by
  induction n with
  | zero => exact ⟨fun r => by rw [if_neg (by omega)]; rfl, fun x => by rw [if_neg (by omega)]; rfl, rfl⟩
  | succ n ih =>
    obtain ⟨hd, hx, hl⟩ := ih
    have hs : forRange (n + 1) (Core.loadReg m) c = Core.loadReg m n (forRange n (Core.loadReg m) c) := by
      simp [forRange, List.range_succ]
    rw [hs]
    generalize forRange n (Core.loadReg m) c = e at hd hx hl
    unfold Core.loadReg
    by_cases hn : n < 8
    · rw [if_pos hn]
      refine ⟨fun r => ?_, fun x => ?_, (e.setD_keeps _ _).2.2.1.trans hl⟩
      · by_cases hr : r = 24 + n
        · subst hr
          rw [Core.dr_setD_same _ (by omega), if_pos (by omega), Nat.add_sub_cancel_left]
        · rw [Core.dr_setD_ne _ hr, hd]
          by_cases hin : 24 ≤ r ∧ r < 24 + min n 8
          · rw [if_pos hin, if_pos (by omega)]
          · rw [if_neg hin, if_neg (by omega)]
      · rw [Core.xr_setD, hx, if_neg (by omega), if_neg (by omega)]
    · rw [if_neg hn]
      refine ⟨fun r => ?_, fun x => ?_, hl⟩
      · rw [Core.dr_setX, hd]
        by_cases hin : 24 ≤ r ∧ r < 24 + min n 8
        · rw [if_pos hin, if_pos (by omega)]
        · rw [if_neg hin, if_neg (by omega)]
      · by_cases hx' : x = n - 2
        · subst hx'
          rw [Core.xr_setX_same, if_pos (by omega), Nat.sub_add_cancel (by omega)]
        · rw [Core.xr_setX_ne _ hx', hx]
          by_cases hin : 6 ≤ x ∧ x + 2 < n
          · rw [if_pos hin, if_pos (by omega)]
          · rw [if_neg hin, if_neg (by omega)]

theorem Core.dr_loadBank (m : SMap Word) (r : Nat) :
    (c.loadBank m).dr r = if 24 ≤ r ∧ r < 32 then SMap.get 0 m (r - 24) else c.dr r := (c.loadRegs m 10).1 r

theorem Core.xr_loadBank (m : SMap Word) (x : Nat) :
    (c.loadBank m).xr x = if 6 ≤ x ∧ x + 2 < 10 then SMap.get 0 m (x + 2) else c.xr x := (c.loadRegs m 10).2.1 x

theorem Core.lc_loadBank (m : SMap Word) : (c.loadBank m).lc = c.lc := (c.loadRegs m 10).2.2

/-- A map filled by number holds what was put under each. -/
theorem SMap.get_fill {α : Type} [DecidableEq α] (z : α) (f : Nat → α) (n : Nat) {k : Nat} (h : k < n) :
    SMap.get z ((List.range n).foldl (fun m k => SMap.put z m k (f k)) []) k = f k := by
  induction n with
  | zero => omega
  | succ n ih =>
    rw [List.range_succ, List.foldl_append]
    by_cases hk : k = n
    · subst hk
      exact SMap.get_put_self _ _ _
    · exact (SMap.get_put_ne _ _ hk).trans (ih (by omega))

theorem Core.bankRegs_d {r : Nat} (h : 24 ≤ r) (h' : r < 32) : SMap.get 0 c.bankRegs (r - 24) = c.dr r := by
  unfold Core.bankRegs
  rw [SMap.get_fill 0 _ 10 (by omega), if_pos (by omega), Nat.add_sub_cancel' h]

theorem Core.bankRegs_x {x : Nat} (h : 6 ≤ x) (h' : x + 2 < 10) : SMap.get 0 c.bankRegs (x + 2) = c.xr x := by
  unfold Core.bankRegs
  rw [SMap.get_fill 0 _ 10 h', if_neg (by omega), Nat.add_sub_cancel]

end

/-! ### A fast entry and its exit (R378, R380) -/

/-- The bank of a source. -/
def Esc.bank (e : Esc) (i : Nat) : Bank := SMap.get {} e.banks i

theorem Esc.keepWait_keeps (e : Esc) : e.keepWait.core = e.core ∧ e.keepWait.banks = e.banks ∧ e.keepWait.stack = e.stack := by
  unfold Esc.keepWait
  split <;> exact ⟨rfl, rfl, rfl⟩

theorem Esc.bank_swap (e : Esc) (i : Nat) : (e.swap i).bank i = { e.bank i with regs := e.core.bankRegs, flags := e.core.flags } :=
  SMap.get_put_self _ _ _

/-- A core that has loaded a bank, at the start of the handler, and one at the return point that the bank holds. -/
def Core.entered (c : Core) (b : Bank) (pc : Word) : Core :=
  { (({ c with flags := b.flags } : Core).setD 31 fastToken).fresh with pc := pc }
def Core.returned (c : Core) (b : Bank) : Core :=
  { ({ c with flags := b.flags } : Core).fresh with pc := b.retPc, again := if b.retRep = 0 then none else some b.retRep }

section
variable (c : Core) (b : Bank)

theorem Core.dr_entered (pc : Word) {k : Nat} (h : k ≠ 31) : (c.entered b pc).dr k = c.dr k :=
  Core.dr_setD_ne ({ c with flags := b.flags } : Core) h fastToken

theorem Core.xr_entered (pc : Word) (k : Nat) : (c.entered b pc).xr k = c.xr k :=
  Core.xr_setD ({ c with flags := b.flags } : Core) 31 fastToken k

theorem Core.entered_token (pc : Word) : (c.entered b pc).dr 31 = fastToken :=
  Core.dr_setD_same ({ c with flags := b.flags } : Core) (by decide) fastToken

theorem Core.entered_keeps (pc : Word) : (c.entered b pc).pc = pc ∧ (c.entered b pc).flags = b.flags ∧ (c.entered b pc).lc = c.lc := by
  obtain ⟨_, _, hl, _, hf, _⟩ := Core.setD_keeps ({ c with flags := b.flags } : Core) 31 fastToken
  exact ⟨rfl, hf, hl⟩

theorem Core.dr_returned (k : Nat) : (c.returned b).dr k = c.dr k := rfl
theorem Core.xr_returned (k : Nat) : (c.returned b).xr k = c.xr k := rfl

end

/-- Behind an entry and its exit the core has the registers that it had. -/
theorem Core.loadBank_back (c : Core) (b : Bank) (pc : Word) :
    (∀ k, ((((c.loadBank b.regs).entered b pc).loadBank c.bankRegs).dr k = c.dr k)) ∧
    (∀ k, ((((c.loadBank b.regs).entered b pc).loadBank c.bankRegs).xr k = c.xr k)) := by
  refine ⟨fun k => ?_, fun k => ?_⟩
  · rw [Core.dr_loadBank]
    by_cases hk : 24 ≤ k ∧ k < 32
    · rw [if_pos hk]
      exact c.bankRegs_d hk.1 hk.2
    · rw [if_neg hk, Core.dr_entered _ _ _ (by omega), Core.dr_loadBank, if_neg hk]
  · rw [Core.xr_loadBank]
    by_cases hk : 6 ≤ k ∧ k + 2 < 10
    · rw [if_pos hk]
      exact c.bankRegs_x hk.1 hk.2
    · rw [if_neg hk, Core.xr_entered, Core.xr_loadBank, if_neg hk]

section
variable (d : Dev) (i : Nat)

theorem Dev.fastGo_core : (d.fastGo i).esc.core =
    (d.esc.core.loadBank (d.esc.bank i).regs).entered (d.esc.bank i) (d.rd vbase + w32 (16 * (16 + i))) := by
  obtain ⟨hc, hb, _⟩ := d.esc.keepWait_keeps
  show ({ ((d.esc.keepWait.swap i).core.setD 31 fastToken).fresh with pc := d.rd vbase + w32 (16 * (16 + i)) } : Core) = _
  unfold Esc.swap Esc.bank Core.entered
  rw [hc, hb]

theorem Dev.fastGo_stack : (d.fastGo i).esc.stack = .fast i :: d.esc.stack := by
  obtain ⟨_, _, hs⟩ := d.esc.keepWait_keeps
  exact congrArg (List.cons (Handler.fast i)) hs

/-- The bank holds the interrupted registers and the return point. -/
theorem Dev.fastGo_bank : (d.fastGo i).esc.bank i = { regs := d.esc.core.bankRegs, flags := d.esc.core.flags
                                                      retPc := d.esc.core.returnPoint.pc, retRep := d.esc.core.returnPoint.rep } := by
  obtain ⟨hc, _, _⟩ := d.esc.keepWait_keeps
  have h : (d.fastGo i).esc.bank i = { (d.esc.keepWait.swap i).bank i with
      retPc := d.esc.core.returnPoint.pc, retRep := d.esc.core.returnPoint.rep } := SMap.get_put_self _ _ _
  rw [h, Esc.bank_swap, hc]

end

/-- What a fast exit leaves of Efyon-S. -/
theorem Dev.fastExit_esc {d : Dev} {i : Nat} {rest : List Handler} (h : d.esc.stack = .fast i :: rest) :
    d.fastExit.esc.core = (d.esc.core.loadBank (d.esc.bank i).regs).returned (d.esc.bank i) ∧ d.fastExit.esc.stack = rest := by
  unfold Dev.fastExit
  dsimp only
  rw [h]
  exact ⟨rfl, rfl⟩

/-- A fast source that requests entry enters where the core stands between instructions and no fast handler runs. -/
theorem exec_fastEntry {s : State} {i : Fin 16} (h : s.Alive) (hm : s.dev.esc.monHalt = false) (hr : s.dev.fastRequest = some i.val)
    (he : s.dev.esc.entering = false) (hb : s.dev.esc.boundary = true) (hf : s.dev.esc.inFast = false) :
    exec (.fastInterruptEntry i) s = .next (State.finish { s with dev := s.dev.fastGo i.val }) := by
  have ha : s.dev.alive = true := h
  have hrun : s.dev.esc.running = true := by
    unfold Esc.boundary at hb
    simp only [Bool.and_eq_true] at hb
    tauto
  have hgo : s.fastEntry i.val = { s with dev := s.dev.fastGo i.val } := by
    unfold State.fastEntry
    dsimp only
    rw [if_neg (by simp [hr, hrun]), if_pos (by simp [he]), if_pos (by simp [hb, hf])]
  show Host.Outcome.next (if s.dev.alive && !s.dev.esc.monHalt then (s.fastEntry i.val).finish else s) = _
  rw [if_pos (by simp [ha, hm]), hgo]

/-- Settles O26: the entry's registers by the bank that it loads and the bank that it keeps, and the exit by the same change again. -/
theorem fastEntries : Obligations.FastEntries := by
  unfold Obligations.FastEntries
  constructor
  · intro s i h hm hr he hb hf e d b kept
    have hcore : d.esc.core = (e.core.loadBank b.regs).entered b (s.dev.rd 0x1D040 + w32 (16 * (16 + i.val))) := s.dev.fastGo_core i.val
    have hkept : kept = _ := s.dev.fastGo_bank i.val
    have hstack : d.esc.stack = .fast i.val :: e.stack := s.dev.fastGo_stack i.val
    obtain ⟨hpc, hflags, hlc⟩ := (e.core.loadBank b.regs).entered_keeps b (s.dev.rd 0x1D040 + w32 (16 * (16 + i.val)))
    rw [hcore, hkept]
    refine ⟨exec_fastEntry h hm hr he hb hf, hpc, Core.entered_token _ _ _, hflags, rfl, rfl, rfl, hstack, fun k hk hk' => ⟨?_, ?_⟩,
      fun k hk => ?_, fun k hk => ⟨?_, ?_⟩, fun k hk => ?_, hlc.trans (Core.lc_loadBank _ _)⟩
    · rw [Core.dr_entered _ _ _ (by omega), Core.dr_loadBank, if_pos (by omega)]
    · exact Core.bankRegs_d _ hk (by omega)
    · rw [Core.dr_entered _ _ _ (by omega), Core.dr_loadBank, if_neg (by omega)]
    · rw [Core.xr_entered, Core.xr_loadBank, if_pos (by omega)]
    · exact Core.bankRegs_x _ (by omega) (by omega)
    · rw [Core.xr_entered, Core.xr_loadBank, if_neg (by omega)]
  · intro d i _ e f
    obtain ⟨hcore, hstack⟩ := Dev.fastExit_esc (d.fastGo_stack i)
    rw [d.fastGo_core i, d.fastGo_bank i] at hcore
    obtain ⟨hd, hx⟩ := e.core.loadBank_back (e.bank i) (d.rd vbase + w32 (16 * (16 + i)))
    have hf : f.core = _ := hcore
    rw [hf]
    exact ⟨rfl, rfl, hstack, fun k => (Core.dr_returned _ _ k).trans (hd k), fun k => (Core.xr_returned _ _ k).trans (hx k),
      fun hr => if_neg hr⟩

/-! ### The frame of a normal entry (R377) -/

/-- The maps of Lakebed: the cached one, the uncached one, and the window (R382). -/
theorem Dev.lakeAt_iff {d : Dev} {a b : Nat} : d.lakeAt a = some b ↔ (a < 0x10000000 ∧ b = a) ∨
    (0x20000000 ≤ a ∧ a < 0x30000000 ∧ b + 0x20000000 = a) ∨
    (0x50000000 ≤ a ∧ a < 0x60000000 ∧ b + 0x50000000 = d.rf 0x1D05C 3 0 * 0x10000000 + a) := by
  unfold Dev.lakeAt
  generalize d.rf 0x1D05C 3 0 = w
  split
  · rw [Option.some.injEq]; omega
  · split
    · rw [Option.some.injEq]; omega
    · split
      · rw [Option.some.injEq]; omega
      · simp only [reduceCtorEq, false_iff]; omega

/-- A part of an access that lies in Lakebed. -/
theorem Dev.lakeSpan_part {d : Dev} {a n b k m : Nat} (h : d.lakeSpan a n = some b) (hn : n ≤ 0x10000000) (hm : 0 < m) (hkm : k + m ≤ n) :
    d.lakeSpan (a + k) m = some (b + k) := by
  have hends : d.lakeAt a = some b ∧ d.lakeAt (a + n - 1) = some (b + n - 1) := by
    unfold Dev.lakeSpan at h
    split at h
    · rename_i b' e hb he
      split_ifs at h with hx
      obtain rfl := Option.some.inj h
      exact ⟨hb, hx ▸ he⟩
    · exact absurd h (by simp)
  have hbyte {i : Nat} (hi : i < n) : d.lakeAt (a + i) = some (b + i) := by
    obtain ⟨hb, he⟩ := hends
    rw [Dev.lakeAt_iff] at hb he ⊢
    generalize d.rf 0x1D05C 3 0 = w at hb he ⊢
    omega
  unfold Dev.lakeSpan
  rw [hbyte (by omega), show a + k + m - 1 = a + (k + m - 1) by omega, hbyte (by omega)]
  exact if_pos (by omega)

/-- Words that Efyon-S pushes into Lakebed: the words one behind the other, and every other byte, register and core as before. -/
theorem State.pushWords_lake (ws : List Word) : ∀ (a b : Nat) (s : State),
    (∀ k < ws.length, s.dev.lakeSpan (a + 4 * k) 4 = some (b + 4 * k)) →
    ∃ t, State.pushWords ws a s = some t ∧ t.dev.regs = s.dev.regs ∧ t.dev.esc = s.dev.esc ∧
      (∀ k j, k < ws.length → j < 4 → Memory.byte t.mem (b + 4 * k + j) = BitVec.ofNat 8 ((ws.getD k 0).toNat / 256 ^ j)) ∧
      (∀ x, x < b ∨ b + 4 * ws.length ≤ x → Memory.byte t.mem x = Memory.byte s.mem x) := by
  induction ws with
  | nil => exact fun a b s _ => ⟨s, rfl, rfl, rfl, fun k j hk => absurd hk (Nat.not_lt_zero k), fun _ _ => rfl⟩
  | cons w ws ih =>
    intro a b s h
    have h0 : s.dev.lakeSpan a 4 = some b := h 0 (by simp)
    let u := s.lakeWrite b (bytesLE 4 w.toNat)
    have hbyte (x : Nat) : Memory.byte u.mem x =
        if b ≤ x ∧ x < b + 4 then BitVec.ofNat 8 (w.toNat / 256 ^ (x - b)) else Memory.byte s.mem x := by
      show Memory.byte (Memory.puts (bytesLE 4 w.toNat) b s.mem) x = _
      rw [bytesLE_eq_map, Memory.byte_puts_bytes]
    have hnext : ∀ k < ws.length, u.dev.lakeSpan (a + 4 + 4 * k) 4 = some (b + 4 + 4 * k) := fun k hk => by
      have hk' := h (k + 1) (by simpa using hk)
      rw [show a + 4 + 4 * k = a + 4 * (k + 1) by omega, show b + 4 + 4 * k = b + 4 * (k + 1) by omega]
      exact hk'
    obtain ⟨t, ht, hregs, hesc, hin, hout⟩ := ih (a + 4) (b + 4) u hnext
    refine ⟨t, ?_, hregs, hesc, fun k j hk hj => ?_, fun x hx => ?_⟩
    · rw [State.pushWords, State.mainStore_lake h0]
      exact ht
    · cases k with
      | zero => rw [hout _ (.inl (by omega)), hbyte, if_pos (by omega), show b + 4 * 0 + j - b = j by omega]; rfl
      | succ k =>
        rw [show b + 4 * (k + 1) + j = b + 4 + 4 * k + j by omega, hin k j (by simpa using hk) hj]
        rfl
    · rw [List.length_cons] at hx
      rw [hout _ (by omega), hbyte, if_neg (by omega)]

/-- The frame of twelve words below an aligned a7 in Lakebed. -/
theorem State.pushFrame_lake {s : State} {b : Nat} (ha : (s.dev.esc.core.xr 7 - 48).toNat % 16 = 0)
    (hb : s.dev.lakeSpan (s.dev.esc.core.xr 7 - 48).toNat 48 = some b) (r : Return) (cause fa : Word) :
    ∃ t, s.pushFrame r cause fa = some t ∧ t.dev.regs = s.dev.regs ∧ t.dev.esc = s.dev.esc ∧
      (∀ k j, k < 12 → j < 4 → Memory.byte t.mem (b + 4 * k + j) =
        BitVec.ofNat 8 (([r.pc, s.dev.esc.core.flags.zeroExtend 32, s.dev.esc.core.dr 31, s.dev.esc.core.lc, w32 r.rep,
          s.dev.esc.core.ctrl, cause, fa, r.slot.getD 0, 0, 0, 0].getD k 0).toNat / 256 ^ j)) ∧
      (∀ x, x < b ∨ b + 48 ≤ x → Memory.byte t.mem x = Memory.byte s.mem x) := by
  have hx : ¬ (s.dev.esc.core.xr 7).toNat % 16 ≠ 0 := by
    have h48 : (48 : Word).toNat = 48 := rfl
    rw [BitVec.toNat_sub, h48] at ha
    omega
  unfold State.pushFrame
  dsimp only
  rw [if_neg hx]
  exact State.pushWords_lake _ _ _ _ fun k hk => Dev.lakeSpan_part hb (by decide) (by decide) (by simp at hk; omega)

/-- The core behind a frame, at a vector. -/
def Core.framed (c : Core) (pc : Word) : Core := { ((c.setX 7 (c.xr 7 - 48)).setD 31 normalToken).fresh with pc := pc }

theorem Core.framed_keeps (c : Core) (pc : Word) :
    (c.framed pc).pc = pc ∧ (c.framed pc).dr 31 = normalToken ∧ (c.framed pc).xr 7 = c.xr 7 - 48 := by
  have h31 : ((c.setX 7 (c.xr 7 - 48)).setD 31 normalToken).dr 31 = normalToken := Core.dr_setD_same _ (by decide) _
  exact ⟨rfl, h31, (Core.xr_setD _ _ _ _).trans (Core.xr_setX_same _ _ _)⟩

/-- A normal entry whose frame has been pushed. -/
theorem State.normalGo_pushed {s t : State} {i : Nat} (h : s.pushFrame s.dev.esc.core.returnPoint (causeWord 32 i false) 0 = some t) :
    (s.normalGo i).mem = t.mem ∧ (s.normalGo i).dev.rd 0x1D050 = causeWord 32 i false ∧
    (s.normalGo i).dev.esc.core = t.dev.esc.core.framed (t.dev.rd vbase + w32 (16 * 32)) ∧
    (s.normalGo i).dev.esc.stack = .normal i :: t.dev.esc.stack := by
  obtain ⟨hc, _, hs⟩ := t.dev.esc.keepWait_keeps
  unfold State.normalGo
  dsimp only
  rw [h]
  refine ⟨rfl, Dev.rd_wr _ _ _, ?_, congrArg (List.cons (Handler.normal i)) hs⟩
  rw [← hc]
  rfl

/-- Outside a delay slot a return point names no target. -/
theorem Core.returnPoint_slot {c : Core} (h : c.slot = none) : c.returnPoint.slot = none := by
  unfold Core.returnPoint
  split
  · rfl
  · exact h

/-- An interrupt is not taken before a delay slot. -/
theorem Esc.boundary_slot {e : Esc} (h : e.boundary = true) : e.core.slot = none := by
  unfold Esc.boundary at h
  simp only [Bool.and_eq_true, Option.isNone_iff_eq_none] at h
  tauto

/-- A normal request enters outside every handler, where the core stands between instructions. -/
theorem exec_normalEntry {s : State} {i : Nat} (h : s.Alive) (hrun : s.dev.esc.running = true) (hm : s.dev.esc.monHalt = false)
    (hr : s.dev.normalRequest = some i) (he : s.dev.esc.entering = false) (hb : s.dev.esc.boundary = true) (hs : s.dev.esc.stack = []) :
    exec .normalInterruptEntry s = .next (s.normalGo i).finish := by
  have ha : s.dev.alive = true := h
  have hgo : s.normalEntry = s.normalGo i := by
    unfold State.normalEntry
    dsimp only
    rw [hr]
    dsimp only
    rw [if_neg (by simp [hrun]), if_pos (by simp [he]), if_pos (by simp [hb, hs])]
  show Host.Outcome.next (if s.dev.alive && !s.dev.esc.monHalt then s.normalEntry.finish else s) = _
  rw [if_pos (by simp [ha, hm]), hgo]

/-- Settles O27: the frame by the words that the core pushes, and the core by what it holds behind the push. -/
theorem normalEntry : Obligations.NormalEntry := by
  unfold Obligations.NormalEntry
  intro s i b h hrun hm hr hi he hb hs c a ha hspan t r cause frame
  have hslot : r.slot = none := Core.returnPoint_slot (Esc.boundary_slot hb)
  have hcause : causeWord 32 i false = cause := by simp [causeWord, cause]
  obtain ⟨u, hu, hregs, hesc, hin, hout⟩ := State.pushFrame_lake ha hspan r (causeWord 32 i false) 0
  obtain ⟨hmem, hrd, hcore, hstack⟩ := State.normalGo_pushed hu
  have hvec : u.dev.rd vbase = s.dev.rd 0x1D040 := congrArg (fun m => SMap.get (resetOf 0x1D040) m 0x1D040) hregs
  rw [hesc, hvec] at hcore
  rw [hesc] at hstack
  rw [hslot, hcause] at hin
  obtain ⟨hpc, h31, h7⟩ := c.framed_keeps (s.dev.rd 0x1D040 + w32 (16 * 32))
  have htcore : t.dev.esc.core = _ := hcore
  have htmem : t.mem = u.mem := hmem
  rw [htcore, htmem]
  exact ⟨exec_normalEntry h hrun hm hr he hb hs, hpc, h31, h7, hrd.trans hcause, hstack.trans (by rw [hs]), hin, hout⟩

end Sys2Proof.Machine
end
